-- ==== Sys2Proof/Word.lean ====
section
/-! DEFINITION. The word types of the part: what the manual treats as bits, by the manual's widths. -/

namespace Sys2Proof

/-- The 32 data bits of a job-memory word (00, "Memory, words and addresses"). -/
abbrev Word := BitVec 32

/-- A count of encoder ticks modulo 2^32 (00, "Web positions and distances"). -/
abbrev WebPos := BitVec 32

/-- A label's serial (00, "Serials and forward comparison"). -/
abbrev Serial := BitVec 32

/-- The low 20 bits of a serial, as verdict matching uses them (04 R60). -/
abbrev Serial20 := BitVec 20

/-- A 16-bit free-running ring index (00, "Ring indices"). -/
abbrev RingIndex := BitVec 16

/-- A distance or another 16-bit field of a settings word (11 R172). -/
abbrev Half := BitVec 16

/-- A word address on the host bus or the memory bus (00, 22 bits). -/
abbrev Address := BitVec 22

/-- A check byte, a command code or an operand byte. -/
abbrev Byte := BitVec 8

/-- One stored location of job memory: 32 data bits and the check byte beside them (00). -/
structure Location where
  /-- the data bits -/
  data  : Word
  /-- the check byte -/
  check : Byte
  deriving DecidableEq, Repr

end Sys2Proof
end

