-- ==== Sys2Proof/Syntax.lean ====
section
/-! DEFINITION. The commands of the block: one constructor of Instr per row of spec/opcode_table.json. The table
gives no operands; they are the model's (log 20). -/

namespace Sys2Proof

/-- The four lanes (00, numbered 0 to 3). -/
inductive Lane where
  | l0 | l1 | l2 | l3
  deriving DecidableEq, Repr

/-- The levels of the level inputs that a reset samples (01 R1, 07 R109). -/
structure InputLines where
  /-- ENC-A -/
  encA   : Bool
  /-- ENC-B -/
  encB   : Bool
  /-- SPLICE -/
  splice : Bool
  /-- SAFE -/
  safe   : Bool
  deriving DecidableEq, Repr

/-- The settings words (11 R172, 12 offsets 0x040 to 0x054). -/
inductive Setting where
  | verdictDeadline | knifeDistance | gateDistance | confirmDistance | minimumPitch | registrationWindow
  | lanePitch (l : Lane) | laneTarget (l : Lane)
  | reverseLimit | undecidedPolicy | checkMode | blankTolerance | reportingMode
  | correctableThreshold | attentionMask
  deriving DecidableEq, Repr

/-- The entries of the region map (11 section 11.2). -/
inductive MapEntryName where
  | orderRing (l : Lane) | stackRing | eventRing | verdictCells
  deriving DecidableEq, Repr

/-- The two exemption windows (09 R149). -/
inductive WindowName where
  | w0 | w1
  deriving DecidableEq, Repr

/-- The four words of an exemption window (09 R149). -/
inductive WindowWord where
  | base | baseComplement | size | sizeComplement
  deriving DecidableEq, Repr

/-- The commands, in the order of the table. -/
inductive Instr where
  /-- POWER_ON, with the levels the part finds on its inputs. -/
  | powerOn (lines : InputLines)
  /-- START_UP_IMAGE_COMPLETE; `reset` is `some` with the lines' levels when RESET is asserted at that moment. -/
  | startUpImageComplete (reset : Option InputLines)
  /-- LINE_RESET; `mergeCut` says that it falls between the read and the write of a host merge (08 R142). -/
  | lineReset (lines : InputLines) (mergeCut : Bool)
  /-- ENCODER_TRANSITION to the given levels of ENC-A and ENC-B. -/
  | encoderTransition (encA encB : Bool)
  /-- SPLICE_START: SPLICE changes from low to high. -/
  | spliceStart
  /-- SPLICE_FALL: SPLICE changes from high to low. -/
  | spliceFall
  /-- MARK_EVENT: a pulse on the lane's MARK input. -/
  | markEvent (l : Lane)
  /-- MARK_WINDOW_EXPIRY: the lane's reached expiry target is taken. -/
  | markWindowExpiry (l : Lane)
  /-- DEADLINE_EVENT: the lane's oldest reached deadline is taken. -/
  | deadlineEvent (l : Lane)
  /-- CUT_EVENT: the lane's oldest reached cut position is taken. -/
  | cutEvent (l : Lane)
  /-- CONFIRM_LIMIT_EVENT: the lane's oldest reached confirm limit is taken. -/
  | confirmLimitEvent (l : Lane)
  /-- KNIFE_PULSE_END: the lane's 20 µs KNIFE pulse expires. -/
  | knifePulseEnd (l : Lane)
  /-- KDONE: a pulse on the lane's KDONE input. -/
  | kdone (l : Lane)
  /-- GATE_EVENT: the head record's reached gate position is taken. -/
  | gateEvent (l : Lane)
  /-- TRAY_READY: a pulse on the lane's TRAY-READY input. -/
  | trayReady (l : Lane)
  /-- TRAY_PULSE_END: the lane's 20 µs TRAY pulse expires. -/
  | trayPulseEnd (l : Lane)
  /-- SAFE_RISE: SAFE changes from low to high. -/
  | safeRise
  /-- SAFE_FALL: SAFE changes from high to low. -/
  | safeFall
  /-- HOST_READ of an address. -/
  | hostRead (a : Address)
  /-- HOST_WRITE: all four byte enables set. -/
  | hostWrite (a : Address) (d : Word)
  /-- HOST_PARTIAL_WRITE with its byte enables; bit i enables data bits 8i to 8i + 7. -/
  | hostPartialWrite (a : Address) (d : Word) (be : BitVec 4)
  /-- VERDICT: a full-word write of a verdict word to a cell's address. -/
  | verdict (a : Address) (d : Word)
  /-- PUT_WRITE: a full-word write to the lane's put word. -/
  | putWrite (l : Lane) (d : Word)
  /-- STACK_READ_INDEX_WRITE. -/
  | stackReadIndexWrite (d : Word)
  /-- EVENT_READ_INDEX_WRITE. -/
  | eventReadIndexWrite (d : Word)
  /-- RUN: the engine command cell's word with code 0x01. -/
  | run (operand : Byte) (complement : Half)
  /-- DRAIN: code 0x02. -/
  | drain (operand : Byte) (complement : Half)
  /-- HALT: code 0x03. -/
  | halt (operand : Byte) (complement : Half)
  /-- CLEAR_HALT: code 0x04. -/
  | clearHalt (operand : Byte) (complement : Half)
  /-- CLOSE_STACK: code 0x05. -/
  | closeStack (operand : Byte) (complement : Half)
  /-- CLEAR_LANE: code 0x06. -/
  | clearLane (operand : Byte) (complement : Half)
  /-- BYPASS: code 0x07. -/
  | bypass (operand : Byte) (complement : Half)
  /-- UNBYPASS: code 0x08. -/
  | unbypass (operand : Byte) (complement : Half)
  /-- REFUSED_CODE: the engine command cell written with another code. -/
  | refusedCode (code operand : Byte) (complement : Half)
  /-- VERIFY: the memory command cell's word with code 0x01; `rest` is its bits 8 to 31. -/
  | verify (rest : BitVec 24)
  /-- CLEAR: code 0x02. -/
  | clear (rest : BitVec 24)
  /-- CHECK_PROBE: code 0x03; the operand byte is the low byte of `rest`. -/
  | checkProbe (rest : BitVec 24)
  /-- SUSPEND: code 0x04. -/
  | suspend (rest : BitVec 24)
  /-- RESUME: code 0x05. -/
  | resume (rest : BitVec 24)
  /-- ABORT: code 0x06. -/
  | abort (rest : BitVec 24)
  /-- MEMCMD_REFUSED_CODE: the memory command cell written with another code. -/
  | memcmdRefusedCode (code : Byte) (rest : BitVec 24)
  /-- VERIFY_WORD: a MEMCMD grant to the next word of a VERIFY. -/
  | verifyWord
  /-- CLEAR_WORD: a MEMCMD grant to the next word of a CLEAR. -/
  | clearWord
  /-- SCRUB: a MEMCMD grant to the head of the scrub queue. -/
  | scrub
  /-- CLEAR_SUMMARY: an acknowledge cell write with one of bits 0 to 12 set. -/
  | clearSummary (d : Word)
  /-- RELEASE_CORRECTABLE_CAPTURE: an acknowledge cell write with bit 16 set. -/
  | releaseCorrectableCapture (d : Word)
  /-- RELEASE_UNCORRECTABLE_CAPTURE: an acknowledge cell write with bit 17 set. -/
  | releaseUncorrectableCapture (d : Word)
  /-- CLEAR_CORRECTABLE_COUNT: an acknowledge cell write with bit 18 set. -/
  | clearCorrectableCount (d : Word)
  /-- SETTING_WRITE to a setting word other than the check mode. -/
  | settingWrite (x : Setting) (d : Word)
  /-- CHECK_MODE_WRITE. -/
  | checkModeWrite (d : Word)
  /-- MAP_WRITE to an entry of the region map. -/
  | mapWrite (e : MapEntryName) (d : Word)
  /-- MAP_LOCK: a write to the map lock word. -/
  | mapLock (d : Word)
  /-- EXEMPTION_WINDOW_WRITE to one of a window's four words. -/
  | exemptionWindowWrite (n : WindowName) (k : WindowWord) (d : Word)
  /-- FETCH_START: the lane's fetcher begins a fetch. -/
  | fetchStart (l : Lane)
  /-- FETCH_READ: a FETCH grant. -/
  | fetchRead
  /-- STACK_RECORD_WORD: a RECORD grant to a word of the head stack record. -/
  | stackRecordWord
  /-- STACK_PUBLICATION_COMPLETE: a RECORD grant to the stack write index word. -/
  | stackPublicationComplete
  /-- EVENT_RECORD_WORD: a RECORD grant to a word of the head event. -/
  | eventRecordWord
  /-- EVENT_PUBLICATION_COMPLETE: a RECORD grant to the event write index word. -/
  | eventPublicationComplete
  /-- STATUS_PUBLICATION: a RECORD grant to the head word of the publication set. -/
  | statusPublication
  deriving DecidableEq, Repr

end Sys2Proof
end

