-- ==== Sys2Proof/Config.lean ====
section
/-! DEFINITION. The fixed numbers of the part (00, "Numbers of the part") and its free values. -/

namespace Sys2Proof.Config

/-- The number of words of job memory. -/
def memoryWords : Nat := 4194304

/-- The first address of the control page (00, "Control page"). -/
def pageBase : Nat := 4193792

/-- The number of words of the control page. -/
def pageWords : Nat := 512

/-- The part code (11 R176). -/
def partCode : Word := 0x00C4A510

/-- The revision (11 R176). -/
def revision : Word := 0x00000003

/-- Order window positions per lane (03 R50). -/
def windowPositions : Nat := 8

/-- Words of an order slot (03 R39). -/
def slotWords : Nat := 4

/-- Verdict cells (04 R59). -/
def verdictCells : Nat := 16

/-- Places of the early verdict table (04 R66). -/
def earlyPlaces : Nat := 16

/-- Entries a missing list holds (06 R95). -/
def missingPlaces : Nat := 12

/-- Where a missing overflow, an unordered count and the correctable count hold (06 R95, 09 R157). -/
def countHold : Nat := 65535

/-- Records the holding list holds (06 R102). -/
def holdingPlaces : Nat := 4

/-- Words of a stack record (06 R100). -/
def stackRecordWords : Nat := 32

/-- Words of an event record (11 R179). -/
def eventRecordWords : Nat := 4

/-- Events the event queue holds (11 R178). -/
def eventPlaces : Nat := 8

/-- Addresses the scrub queue holds (09 R151). -/
def scrubPlaces : Nat := 4

/-- Where the reverse backlog holds (01 R4). -/
def backlogHold : Nat := 65536

/-- The bypass count at which an internal requester goes before HOST (08 R138). -/
def bypassLimit : Nat := 4

/-- The check pattern that poisons a word, exclusive-or the correct check byte (08 R136). -/
def poisonPattern : Byte := 0x81

/-- FREE VALUE (log 1): the data bits that the location at an address holds from the given power-on until it is
first written ("whatever the RAM came up with", 08 R133 note). -/
opaque powerUpData : Nat → Nat → Word

/-- FREE VALUE (log 1): the check byte of the same location. -/
opaque powerUpCheck : Nat → Nat → Byte

end Sys2Proof.Config
end

