-- ==== Sys2Proof/Machine/State.lean ====
section
/-! DEFINITION. The state of the block as plain data, its two reason types and the state after reset. -/

namespace Sys2Proof.Machine

/-! ## Four of a kind -/

/-- One value per lane. -/
structure PerLane (α : Type) where
  /-- lane 0 -/
  l0 : α
  /-- lane 1 -/
  l1 : α
  /-- lane 2 -/
  l2 : α
  /-- lane 3 -/
  l3 : α
  deriving DecidableEq, Repr

/-- The same value for every lane. -/
def PerLane.all {α : Type} (x : α) : PerLane α := ⟨x, x, x, x⟩

/-- The lane's value. -/
def PerLane.get {α : Type} (p : PerLane α) : Lane → α
  | .l0 => p.l0
  | .l1 => p.l1
  | .l2 => p.l2
  | .l3 => p.l3

/-- The lane's value replaced. -/
def PerLane.set {α : Type} (p : PerLane α) (l : Lane) (x : α) : PerLane α :=
  match l with
  | .l0 => { p with l0 := x }
  | .l1 => { p with l1 := x }
  | .l2 => { p with l2 := x }
  | .l3 => { p with l3 := x }

/-! ## Web position (01) -/

/-- The web position unit (01 section 1.1). -/
structure Web where
  /-- the web position -/
  position : WebPos
  /-- the reverse backlog, 0 to 65,536 -/
  backlog  : Nat
  /-- the SPLICE level as last taken -/
  splice   : Bool
  /-- the encoder reference: ENC-A -/
  refA     : Bool
  /-- the encoder reference: ENC-B -/
  refB     : Bool
  deriving DecidableEq, Repr

/-- What a mark tracker holds in TRACKING (01 section 1.3). -/
structure Tracked where
  /-- the last mark position -/
  lastMark : WebPos
  /-- the predicted next position -/
  pred     : WebPos
  deriving DecidableEq, Repr

/-- A mark tracker; `tracked = none` is SEEKING (01 R8). -/
structure Tracker where
  /-- last mark and prediction, present in TRACKING -/
  tracked   : Option Tracked
  /-- the consecutive-synthetic count, 0 to 3 -/
  synthetic : Nat
  /-- pred + W has been reached and the expiry not yet taken (log 4) -/
  expiryDue : Bool
  deriving DecidableEq, Repr

/-! ## Label records (02) -/

/-- The order checks in their order; the first that fails is an entry's result (03 R48). -/
inductive OrderCheck where
  | check | sequence | pitch | target | trim | reserved
  deriving DecidableEq, Repr

/-- SENSED or SYNTHETIC (01 R9). -/
inductive Origin where
  | sensed | synthetic
  deriving DecidableEq, Repr

/-- A verdict code; NONE is a record's verdict before any (02 section 2.1, 04 R60). -/
inductive Verdict where
  | none | good | sample | reject
  deriving DecidableEq, Repr

/-- A record's cut state (02 R17). -/
inductive CutState where
  | waiting | fired | confirmed | missed | inhibited
  deriving DecidableEq, Repr

/-- The flags of a label record; ORDER_FAULT is set exactly when it has its cause (02 section 2.1). -/
structure LabelFlags where
  /-- REG_FAULT -/
  regFault    : Bool
  /-- MARK_MISSING -/
  markMissing : Bool
  /-- SPLICE -/
  splice      : Bool
  /-- ORDERLESS -/
  orderless   : Bool
  /-- ORDER_FAULT with the order fault cause -/
  orderFault  : Option OrderCheck
  /-- LANE_FAULT -/
  laneFault   : Bool
  /-- DRAIN -/
  drain       : Bool
  /-- UNCUT -/
  uncut       : Bool
  /-- JOINED -/
  joined      : Bool
  /-- UNDECIDED, which is no fault flag -/
  undecided   : Bool
  deriving DecidableEq, Repr

/-- The empty set of flags. -/
def LabelFlags.empty : LabelFlags :=
  ⟨false, false, false, false, none, false, false, false, false, false⟩

/-- Which of a record's targets the web has reached and no event has yet taken (01 R5, log 4). -/
structure Due where
  /-- the deadline -/
  deadline     : Bool
  /-- the cut position -/
  cut          : Bool
  /-- the confirm limit -/
  confirmLimit : Bool
  /-- the gate position -/
  gate         : Bool
  deriving DecidableEq, Repr

/-- No target reached. -/
def Due.nothing : Due := ⟨false, false, false, false⟩

/-- A label record (02 section 2.1); its lane is the lane of the queue it stands in. -/
structure LabelRecord where
  /-- the serial, optional -/
  serial       : Option Serial
  /-- the order slot index, present when the record holds an order -/
  slot         : Option RingIndex
  /-- the batch, optional -/
  batch        : Option Half
  /-- the stack target -/
  target       : Half
  /-- the trim, 8-bit two's complement -/
  trim         : Byte
  /-- END_OF_BATCH -/
  endOfBatch   : Bool
  /-- SAMPLE_PULL -/
  samplePull   : Bool
  /-- VOID -/
  void         : Bool
  /-- the origin -/
  origin       : Origin
  /-- the mark position -/
  mark         : WebPos
  /-- the pitch used -/
  pitch        : Half
  /-- the deadline position -/
  deadline     : WebPos
  /-- the cut position -/
  cut          : WebPos
  /-- the confirm limit -/
  confirmLimit : WebPos
  /-- the gate position -/
  gate         : WebPos
  /-- the verdict -/
  verdict      : Verdict
  /-- the defect class -/
  defect       : BitVec 4
  /-- the verdict state: CLOSED when true, OPEN when false -/
  closed       : Bool
  /-- the flags -/
  flags        : LabelFlags
  /-- the cut state -/
  cutState     : CutState
  /-- the targets reached and not yet taken -/
  due          : Due
  deriving DecidableEq, Repr

/-! ## Check outcomes (09) and order windows (03) -/

/-- The detail of an uncorrectable outcome (09 R153). -/
inductive Detail where
  | multi | poison | blank
  deriving DecidableEq, Repr

/-- The outcome of a read (09 R145); UNCORRECTABLE with detail BLANK is a BLANK that a consumer does not tolerate
(09 R148). -/
inductive ReadOutcome where
  | clean
  | corrected (bit : Nat)
  | blank
  | uncorrectable (d : Detail)
  deriving DecidableEq, Repr

/-- One fetched word of an order slot: the outcome kept and the data used for the fields (03 R47). -/
structure FetchedWord where
  /-- the outcome kept -/
  outcome : ReadOutcome
  /-- the data used for the fields -/
  data    : Word
  deriving DecidableEq, Repr

/-- A complete window entry (03 R48); `failed = none` is VALID. -/
structure WindowEntry where
  /-- the ring index -/
  index  : RingIndex
  /-- word 0: the serial -/
  word0  : FetchedWord
  /-- word 1: batch and flags -/
  word1  : FetchedWord
  /-- word 2: pitch and override -/
  word2  : FetchedWord
  /-- word 3: trim -/
  word3  : FetchedWord
  /-- the before-serial -/
  before : Option Serial
  /-- the first failed check -/
  failed : Option OrderCheck
  deriving DecidableEq, Repr

/-- The one reservation of a window, its newest position (03 R46, R47). -/
structure Reservation where
  /-- the ring index being fetched -/
  index  : RingIndex
  /-- the previous serial as it stood at the fetch start -/
  before : Option Serial
  /-- the words read so far, word 0 first -/
  words  : List FetchedWord
  deriving DecidableEq, Repr

/-! ## Stacks (06) -/

/-- The two trays of a stacker. -/
inductive Tray where
  | a | b
  deriving DecidableEq, Repr

/-- The stacker's state; TRANSFERRING remembers the tray that was being filled (06 R89). -/
inductive Stacker where
  | notReady
  | filling (t : Tray)
  | transferring (t : Tray)
  deriving DecidableEq, Repr

/-- The reasons of a missing entry (05 R84). -/
inductive MissingReason where
  | fault | void | reject | sample | spill | abandoned
  deriving DecidableEq, Repr

/-- One missing entry (06 R95). -/
structure MissingEntry where
  /-- the serial -/
  serial    : Serial
  /-- the reason -/
  reason    : MissingReason
  /-- the defect class -/
  defect    : BitVec 4
  /-- the UNDECIDED indication -/
  undecided : Bool
  deriving DecidableEq, Repr

/-- A missing list with its overflow and the unordered count: what an open stack and the carry list share (06 R91). -/
structure Shortfall where
  /-- up to 12 missing entries in listing order -/
  entries   : List MissingEntry
  /-- the missing overflow, 0 to 65,535 -/
  overflow  : Nat
  /-- the unordered count, 0 to 65,535 -/
  unordered : Nat
  deriving DecidableEq, Repr

/-- The empty carry list. -/
def Shortfall.empty : Shortfall := ⟨[], 0, 0⟩

/-- The reasons of a close (06 section 6.3). -/
inductive CloseReason where
  | count | batchEnd | batchChange | host | drain | laneFault | halt
  deriving DecidableEq, Repr

/-- A lane's open stack (06 R91). -/
structure OpenStack where
  /-- the sequence number -/
  sequence : Half
  /-- the tray -/
  tray     : Tray
  /-- the batch -/
  batch    : Half
  /-- the target -/
  target   : Half
  /-- the count -/
  count    : Nat
  /-- the first serial -/
  first    : Option Serial
  /-- the last serial -/
  last     : Option Serial
  /-- missing list, overflow and unordered count -/
  short    : Shortfall
  deriving DecidableEq, Repr

/-- A stack record (06 R100). -/
structure StackRecord where
  /-- the lane -/
  lane     : Lane
  /-- the tray, absent in a record of count 0 -/
  tray     : Option Tray
  /-- the sequence number -/
  sequence : Half
  /-- the batch, absent in a record of count 0 -/
  batch    : Option Half
  /-- the close reason -/
  reason   : CloseReason
  /-- the count -/
  count    : Nat
  /-- the first serial -/
  first    : Option Serial
  /-- the last serial -/
  last     : Option Serial
  /-- missing entries, overflow and unordered count -/
  short    : Shortfall
  deriving DecidableEq, Repr

/-! ## Lanes (01 to 07) -/

/-- The causes of a lane fault (07 R120). -/
inductive FaultCause where
  | knife | trackingLost | backlog
  deriving DecidableEq, Repr

/-- A lane's service state; FAULTED holds its fault cause (07 section 7.1). -/
inductive Service where
  | off | active | draining
  | faulted (c : FaultCause)
  | bypassed
  deriving DecidableEq, Repr

/-- The position of a GATE output (05 section 5.2). -/
inductive Gate where
  | reject | stack | sample
  deriving DecidableEq, Repr

/-- Everything that belongs to one lane. -/
structure LaneState where
  /-- the service state (07) -/
  service        : Service
  /-- the mark tracker (01) -/
  tracker        : Tracker
  /-- the lane queue, head first (02) -/
  queue          : List LabelRecord
  /-- the last bound serial (02 R25) -/
  lastBound      : Option Serial
  /-- the put copy (03) -/
  put            : RingIndex
  /-- the fetch index (03) -/
  fetch          : RingIndex
  /-- the release index (03) -/
  release        : RingIndex
  /-- the window's complete entries, oldest first (03 R50) -/
  window         : List WindowEntry
  /-- the window's reservation, its newest position (03 R46) -/
  reservation    : Option Reservation
  /-- the previous serial (03 R49) -/
  previousSerial : Option Serial
  /-- the consecutive-miss count, 0 to 2 (05 R75) -/
  misses         : Nat
  /-- the KNIFE output is pulsing (05 R77) -/
  knifePulse     : Bool
  /-- the GATE output (05 R85) -/
  gate           : Gate
  /-- the stacker state (06 R88) -/
  stacker        : Stacker
  /-- the TRAY output is pulsing (06 R90) -/
  trayPulse      : Bool
  /-- the open stack (06 R91) -/
  openStack      : Option OpenStack
  /-- the carry list (06 R91) -/
  carry          : Shortfall
  /-- the next stack sequence number (06 R91) -/
  nextSequence   : Half
  /-- the parked slot (06 R102) -/
  parked         : Option StackRecord
  /-- label records that have left the queue since reset (02 R37, 06 R101; log 18) -/
  departed       : Nat
  /-- labels that the records published since reset account for (06 R101; log 18) -/
  written        : Nat
  deriving DecidableEq, Repr

/-! ## Verdict intake (04) -/

/-- An entry of the early verdict table (04 R66). -/
structure EarlyEntry where
  /-- the lane -/
  lane   : Lane
  /-- the serial's low 20 bits -/
  serial : Serial20
  /-- the code -/
  code   : Verdict
  /-- the defect class -/
  defect : BitVec 4
  deriving DecidableEq, Repr

/-! ## Engine controller (07) -/

/-- The engine state (07 section 7.1). -/
inductive EngineState where
  | stopped | running | draining | halted
  deriving DecidableEq, Repr

/-- The causes of a halt (07 R117). -/
inductive HaltCause where
  | command | safety | reverseLimit
  deriving DecidableEq, Repr

/-- The results of an engine command (07 R111). -/
inductive EngineResult where
  | none | reset | done | noLane | refusedIntegrity | refusedCode | refusedOperand | refusedState | refusedSafe
  | refusedQueue | refusedParked | refusedCheck
  deriving DecidableEq, Repr

/-- The engine controller (07). -/
structure Engine where
  /-- the engine state -/
  state    : EngineState
  /-- the halt cause -/
  cause    : Option HaltCause
  /-- the SAFE level as last taken -/
  safe     : Bool
  /-- the command status: sequence -/
  sequence : Byte
  /-- the command status: code -/
  code     : Byte
  /-- the command status: result -/
  result   : EngineResult
  /-- the command status: detail byte as 12 codes it -/
  detail   : Byte
  deriving DecidableEq, Repr

/-! ## Host port and arbiter (08) -/

/-- One host cycle as the host port holds it (08 R126). -/
inductive HostCycle where
  | read (a : Address)
  | write (a : Address) (d : Word)
  | partialWrite (a : Address) (d : Word) (be : BitVec 4)
  deriving DecidableEq, Repr

/-- How a host cycle ended: OK or ERROR, with the data of a read (08 section 8.1). -/
structure HostEnd where
  /-- OK when true, ERROR when false -/
  ok   : Bool
  /-- the data a read returned -/
  data : Option Word
  deriving DecidableEq, Repr

/-- The internal requesters in round-robin order (08 R138). -/
inductive Internal where
  | fetch | record | memcmd
  deriving DecidableEq, Repr

/-- The requesters of the memory port (08 section 8.6). -/
inductive Requester where
  | host
  | part (r : Internal)
  deriving DecidableEq, Repr

/-- The two kinds of MEMCMD work (09 R152). -/
inductive MemKind where
  | scrub | walk
  deriving DecidableEq, Repr

/-- The arbiter (08 section 8.6) and the start-up hold (08 R141). -/
structure Arbiter where
  /-- the grant state; `none` is FREE -/
  grant        : Option Requester
  /-- the lock flag -/
  lock         : Bool
  /-- the bypass count of FETCH -/
  fetchBypass  : Nat
  /-- the bypass count of RECORD -/
  recordBypass : Nat
  /-- the bypass count of MEMCMD -/
  memcmdBypass : Nat
  /-- the kind of work of the request that the memory command unit has presented (R138, 09 R152) -/
  memRequest   : Option MemKind
  /-- the last internal requester served -/
  lastServed   : Internal
  /-- the last FETCH lane served -/
  lastLane     : Lane
  /-- the start-up image is being written: no grant is made (R141) -/
  imageWriting : Bool
  /-- RESET has been asserted during the image write (R141) -/
  resetWaiting : Bool
  deriving DecidableEq, Repr

/-- The arbiter after power-on and after line reset (08 section 8.6). -/
def Arbiter.initial : Arbiter :=
  { grant := none, lock := false, fetchBypass := 0, recordBypass := 0, memcmdBypass := 0,
    memRequest := none, lastServed := .memcmd, lastLane := .l3, imageWriting := false, resetWaiting := false }

/-! ## Error capture (09) -/

/-- The source of a detection (09 R153). -/
inductive Source where
  | hostRead | hostWrite
  | fetch (l : Lane)
  | scrub | verify
  deriving DecidableEq, Repr

/-- The contents of a capture with a detail of the given type (09 R154). -/
structure CaptureContents (δ : Type) where
  /-- the address read -/
  address : Nat
  /-- the bit position or the uncorrectable detail -/
  detail  : δ
  /-- the source, with the lane for FETCH -/
  source  : Source
  deriving DecidableEq, Repr

/-- A capture (09 R154). -/
structure Capture (δ : Type) where
  /-- the held flag -/
  held     : Bool
  /-- the contents -/
  contents : Option (CaptureContents δ)
  deriving DecidableEq, Repr

/-- An empty capture, not held. -/
def Capture.empty {δ : Type} : Capture δ := ⟨false, none⟩

/-- Error capture (09). -/
structure ErrorCapture where
  /-- the correctable capture, its detail the bit position -/
  correctable   : Capture Nat
  /-- the uncorrectable capture -/
  uncorrectable : Capture Detail
  /-- the correctable count -/
  count         : Nat
  deriving DecidableEq, Repr

/-! ## Memory command unit (10) -/

/-- The command state (10). -/
inductive MemState where
  | idle | busy | suspended
  deriving DecidableEq, Repr

/-- The results of a memory command (10 R160). -/
inductive MemResult where
  | none | done | stoppedAtFault | aborted | reset | refusedCode | refusedOperand | refusedRegion | notBusy
  | refusedBusy | refusedSuspended
  deriving DecidableEq, Repr

/-- The probe results (10 R168). -/
structure Probe where
  /-- the outcome -/
  outcome : ReadOutcome
  /-- the data handed on -/
  data    : Word
  /-- the bit position -/
  bit     : Nat
  /-- the computed check byte -/
  check   : Byte
  deriving DecidableEq, Repr

/-- The memory command unit (10), with its operand words' working copies (10 R161). -/
structure MemUnit where
  /-- the command state -/
  state         : MemState
  /-- the status sequence -/
  sequence      : Byte
  /-- the walk command's code -/
  walk          : Option Byte
  /-- latched start -/
  start         : Nat
  /-- latched count -/
  count         : Nat
  /-- latched fill -/
  fill          : Word
  /-- the progress index -/
  progress      : Nat
  /-- the done count -/
  done          : Nat
  /-- the corrected count -/
  corrected     : Nat
  /-- the uncorrectable count -/
  uncorrectable : Nat
  /-- the fault address -/
  faultAddress  : Option Nat
  /-- the result -/
  result        : MemResult
  /-- the last refusal -/
  lastRefusal   : Option (Byte × MemResult)
  /-- the probe results -/
  probe         : Probe
  /-- the operand word: start address -/
  opStart       : Word
  /-- the operand word: count -/
  opCount       : Word
  /-- the operand word: fill value -/
  opFill        : Word
  /-- the kind served last (09 R152) -/
  lastKind      : MemKind
  deriving DecidableEq, Repr

/-! ## Control page unit (11) -/

/-- The undecided policy (04 R71). -/
inductive UndecidedPolicy where
  | reject | pass
  deriving DecidableEq, Repr

/-- The check mode (09 R147). -/
inductive CheckMode where
  | off | check | checkScrub
  deriving DecidableEq, Repr

/-- The reporting mode (11 R178). -/
inductive ReportingMode where
  | silent | severe | faults | label | all
  deriving DecidableEq, Repr

/-- The settings' working copy (11 R172). -/
structure Settings where
  /-- Dv -/
  dv                   : Half
  /-- Dk -/
  dk                   : Half
  /-- Dg -/
  dg                   : Half
  /-- Kc -/
  kc                   : Half
  /-- Pmin -/
  pmin                 : Half
  /-- W -/
  w                    : Half
  /-- lane default pitch -/
  lanePitch            : PerLane Half
  /-- lane default stack target -/
  laneTarget           : PerLane Half
  /-- reverse limit -/
  reverseLimit         : Half
  /-- undecided policy -/
  undecidedPolicy      : UndecidedPolicy
  /-- check mode -/
  checkMode            : CheckMode
  /-- blank tolerance is on -/
  blankTolerance       : Bool
  /-- reporting mode -/
  reportingMode        : ReportingMode
  /-- correctable threshold -/
  correctableThreshold : Half
  /-- attention mask -/
  attentionMask        : BitVec 13
  deriving DecidableEq, Repr

/-- The defaults (11 R172). -/
def Settings.default : Settings :=
  { dv := 2000, dk := 3000, dg := 4800, kc := 200, pmin := 300, w := 40,
    lanePitch := PerLane.all 600, laneTarget := PerLane.all 500, reverseLimit := 1000,
    undecidedPolicy := .reject, checkMode := .checkScrub, blankTolerance := false, reportingMode := .label,
    correctableThreshold := 0, attentionMask := BitVec.allOnes 13 }

/-- An entry of the region map (11 section 11.2); base 0 is unmapped. -/
structure MapEntry where
  /-- the base address -/
  base : Address
  /-- the log2 size field -/
  size : BitVec 4
  deriving DecidableEq, Repr

/-- The working region map and its lock (11 R174, R175). -/
structure RegionMap where
  /-- the order rings -/
  orderRing    : PerLane MapEntry
  /-- the stack ring -/
  stackRing    : MapEntry
  /-- the event ring -/
  eventRing    : MapEntry
  /-- the verdict cells' base -/
  verdictCells : Address
  /-- the map is locked -/
  locked       : Bool
  deriving DecidableEq, Repr

/-- An exemption window's four working values and its state (09 R149). -/
structure ExemptWindow where
  /-- base -/
  base           : Word
  /-- complement of base -/
  baseComplement : Word
  /-- size -/
  size           : Word
  /-- complement of size -/
  sizeComplement : Word
  /-- the window is active -/
  active         : Bool
  deriving DecidableEq, Repr

/-- A window after power-on (09 R149). -/
def ExemptWindow.initial : ExemptWindow := ⟨0, 0, 0, 0, false⟩

/-- The 13 summary classes, highest priority first (11 section 11.6). -/
inductive SummaryClass where
  | safetyStop | reverseLimit | laneFault | uncorrectable | stackBacklog | orderFault | orderStarved | lateVerdict
  | protection | settingRefused | correctableLimit | eventsLost | scrubSkipped
  deriving DecidableEq, Repr

/-- The primary record (11 R180). -/
structure PrimaryRecord where
  /-- the class -/
  cls      : SummaryClass
  /-- the lane -/
  lane     : Option Lane
  /-- the serial -/
  serial   : Option Serial
  /-- the address -/
  address  : Option Nat
  /-- the web position -/
  position : WebPos
  deriving DecidableEq, Repr

/-! ## Events and the record writer (06, 11) -/

/-- The events (12 section 12.6). -/
inductive EventCode where
  | encoderDoubleStep | spliceStart | markBacklog | spuriousMark | offRegister | markMissing
  | orderFault | orderStarved | putRefused | protectionBlock | windowRewound | queueAbandoned
  | verdictRefused | lateVerdict | earlyFull | earlyStale | earlyDiscarded | verdictUndecided
  | knifeMissed | kdoneStray
  | spill | trayReadyStray | stackClosed | stackParked | stackReadRefused
  | engineHalted | engineStopped | laneFaulted | commandIntegrity | commandRefused
  | partialRefused | uncorrectable | correctableLimit | exemptWindowCleared | settingRefused | eventReadRefused
  deriving DecidableEq, Repr

/-- An event as the event queue holds it (11 section 11.5); its severity is its code's. -/
structure Event where
  /-- the sequence number -/
  sequence : Half
  /-- the code -/
  code     : EventCode
  /-- the lane -/
  lane     : Option Lane
  /-- the serial -/
  serial   : Option Serial
  /-- the address -/
  address  : Option Nat
  /-- the value -/
  value    : Option Word
  /-- the web position the event carries -/
  position : WebPos
  deriving DecidableEq, Repr

/-- The three kinds of RECORD work in round-robin order (11 R176). -/
inductive RecordKind where
  | stack | event | status
  deriving DecidableEq, Repr

/-- The record writer (06 sections 6.4 and 6.5, 11). -/
structure Writer where
  /-- the holding list, oldest first -/
  holding       : List StackRecord
  /-- the stack write index -/
  stackWrite    : RingIndex
  /-- the stack read copy -/
  stackRead     : RingIndex
  /-- words of the head stack record stored so far; 32 when only the index word is left -/
  stackWords    : Nat
  /-- the event queue, oldest first -/
  events        : List Event
  /-- the next event sequence number -/
  eventSequence : Half
  /-- the event write index -/
  eventWrite    : RingIndex
  /-- the event read copy -/
  eventRead     : RingIndex
  /-- words of the head event stored so far; 4 when only the index word is left -/
  eventWords    : Nat
  /-- the publication set: offsets of part-owned words, in the order they entered -/
  publication   : List Nat
  /-- the kind served last -/
  lastKind      : RecordKind
  deriving DecidableEq, Repr

/-! ## The whole state -/

/-- The state of the block. -/
structure State where
  /-- the commands that are waiting, first in, first out (the model's own) -/
  pending      : List Instr
  /-- the web position unit -/
  web          : Web
  /-- the four lanes -/
  lanes        : PerLane LaneState
  /-- the early verdict table -/
  early        : List EarlyEntry
  /-- the engine controller -/
  engine       : Engine
  /-- the host cycle held in wait -/
  hostPort     : Option HostCycle
  /-- how the last host cycle ended -/
  hostEnd      : Option HostEnd
  /-- the arbiter -/
  arbiter      : Arbiter
  /-- job memory: the locations written since power-on, by rising address (log 1) -/
  memory       : List (Nat × Location)
  /-- counts power-ons, to name the RAM contents each finds (log 1; the model's own) -/
  powerCycle   : Nat
  /-- the scrub queue, oldest first -/
  scrubQueue   : List Nat
  /-- error capture -/
  capture      : ErrorCapture
  /-- the memory command unit -/
  mem          : MemUnit
  /-- the settings' working copy -/
  settings     : Settings
  /-- the working region map and its lock -/
  regions      : RegionMap
  /-- exemption window 0 -/
  window0      : ExemptWindow
  /-- exemption window 1 -/
  window1      : ExemptWindow
  /-- the fault summary, one bit per class -/
  summary      : BitVec 13
  /-- the primary record -/
  primary      : Option PrimaryRecord
  /-- the record writer -/
  writer       : Writer
  deriving DecidableEq, Repr

/-- The reasons a step can stop the machine with a fault. There is none: the manual describes no step that stops the
part, and no address lies outside the address space (INVENTORY.md, Faults). -/
inductive Fault : Type
  deriving DecidableEq, Repr

/-- The reasons a command has no meaning. -/
inductive Refusal where
  /-- Raised by an arm of exec whose command has no meaning yet; no arm raises it now. Safe: nothing is claimed of
  the command. -/
  | notModelled (mnemonic : String)
  deriving DecidableEq, Repr

/-! ## Reset -/

/-- A tracker in SEEKING (01 R8). -/
def Tracker.initial : Tracker := { tracked := none, synthetic := 0, expiryDue := false }

/-- A lane after power-on (01 R8, 02 R18, R25, 03 R45, R58, 05 R75, R86, 06 R88, R91, R102, 07 R109). -/
def LaneState.initial : LaneState :=
  { service := .off, tracker := Tracker.initial, queue := [], lastBound := none,
    put := 0, fetch := 0, release := 0, window := [], reservation := none, previousSerial := none,
    misses := 0, knifePulse := false, gate := .reject, stacker := .notReady, trayPulse := false,
    openStack := none, carry := Shortfall.empty, nextSequence := 1, parked := none, departed := 0, written := 0 }

/-- The engine controller after power-on, before SAFE is sampled (07 R109, R111). -/
def Engine.initial : Engine :=
  { state := .stopped, cause := none, safe := false, sequence := 0, code := 0, result := .none, detail := 0 }

/-- The memory command unit after power-on (10 R160, 09 R152; latched operands: log 15). -/
def MemUnit.initial : MemUnit :=
  { state := .idle, sequence := 0, walk := none, start := 0, count := 0, fill := 0, progress := 0, done := 0,
    corrected := 0, uncorrectable := 0, faultAddress := none, result := .none, lastRefusal := none,
    probe := { outcome := .clean, data := 0, bit := 0, check := 0 }, opStart := 0, opCount := 0, opFill := 0,
    lastKind := .walk }

/-- The region map after power-on: nothing mapped, unlocked (11 R175, R177). -/
def RegionMap.initial : RegionMap :=
  { orderRing := PerLane.all ⟨0, 0⟩, stackRing := ⟨0, 0⟩, eventRing := ⟨0, 0⟩, verdictCells := 0, locked := false }

/-- The record writer after power-on (06 R102, R108, 11 R176, R178, R179). -/
def Writer.initial : Writer :=
  { holding := [], stackWrite := 0, stackRead := 0, stackWords := 0, events := [], eventSequence := 0,
    eventWrite := 0, eventRead := 0, eventWords := 0, publication := [], lastKind := .status }

/-- Error capture after power-on (09 R154, R157). -/
def ErrorCapture.initial : ErrorCapture := ⟨Capture.empty, Capture.empty, 0⟩

/-- The state right after power-on with the start-up image complete and every input line low (log 2). -/
def State.reset : State :=
  { pending := []
    web := { position := 0, backlog := 0, splice := false, refA := false, refB := false }
    lanes := PerLane.all LaneState.initial
    early := []
    engine := Engine.initial
    hostPort := none
    hostEnd := none
    arbiter := Arbiter.initial
    memory := []
    powerCycle := 0
    scrubQueue := []
    capture := ErrorCapture.initial
    mem := MemUnit.initial
    settings := Settings.default
    regions := RegionMap.initial
    window0 := ExemptWindow.initial
    window1 := ExemptWindow.initial
    summary := 0
    primary := none
    writer := Writer.initial }

end Sys2Proof.Machine
end

