-- ==== Sys2Proof/WellFormed.lean ====
section
/-! DEFINITION. When a command is an occurrence of its row: the checks on its operands alone. A command that fails
one is still a bus cycle or an event, and runs as what its word says (log 20). -/

namespace Sys2Proof

/-- The engine command codes of 07 R110. -/
def isEngineCode (c : Byte) : Bool := 1 ≤ c.toNat && c.toNat ≤ 8

/-- The memory command codes of 10 R159. -/
def isMemoryCode (c : Byte) : Bool := 1 ≤ c.toNat && c.toNat ≤ 6

/-- A write with fewer than four byte enables (00, "Memory, words and addresses"). -/
def isPartial (be : BitVec 4) : Bool := be != 0xF#4

/-- The operand checks of the rows that have one. -/
def Instr.wellFormed : Instr → Bool
  | .hostPartialWrite _ _ be => isPartial be
  | .refusedCode code _ _ => !isEngineCode code
  | .memcmdRefusedCode code _ => !isMemoryCode code
  | .clearSummary d => d.extractLsb' 0 13 != 0#13
  | .releaseCorrectableCapture d => d.getLsbD 16
  | .releaseUncorrectableCapture d => d.getLsbD 17
  | .clearCorrectableCount d => d.getLsbD 18
  | .settingWrite x _ => x != .checkMode
  | .powerOn _ | .startUpImageComplete _ | .lineReset _ _ | .encoderTransition _ _ | .spliceStart | .spliceFall
  | .markEvent _ | .markWindowExpiry _ | .deadlineEvent _ | .cutEvent _ | .confirmLimitEvent _ | .knifePulseEnd _
  | .kdone _ | .gateEvent _ | .trayReady _ | .trayPulseEnd _ | .safeRise | .safeFall | .hostRead _ | .hostWrite _ _
  | .verdict _ _ | .putWrite _ _ | .stackReadIndexWrite _ | .eventReadIndexWrite _ | .run _ _ | .drain _ _
  | .halt _ _ | .clearHalt _ _ | .closeStack _ _ | .clearLane _ _ | .bypass _ _ | .unbypass _ _
  | .verify _ | .clear _ | .checkProbe _ | .suspend _ | .resume _ | .abort _ | .verifyWord | .clearWord | .scrub
  | .checkModeWrite _ | .mapWrite _ _ | .mapLock _ | .exemptionWindowWrite _ _ _ | .fetchStart _ | .fetchRead
  | .stackRecordWord | .stackPublicationComplete | .eventRecordWord | .eventPublicationComplete
  | .statusPublication => true

end Sys2Proof
end

