-- ==== Sys2Proof/Machine/Operands.lean ====
section
/-! DEFINITION. Operand forms: bit fields, modular comparisons, the layouts of the words the host writes (12) and the
number codes of enumerated fields (12). -/

namespace Sys2Proof

/-- The lane's number, 0 to 3. -/
def Lane.number : Lane → Nat
  | .l0 => 0
  | .l1 => 1
  | .l2 => 2
  | .l3 => 3

/-- The lanes in order 0 to 3. -/
def Lane.inOrder : List Lane := [.l0, .l1, .l2, .l3]

/-- The lane a number names, by its low two bits. -/
def Lane.ofNumber (n : Nat) : Lane :=
  match n % 4 with
  | 0 => .l0
  | 1 => .l1
  | 2 => .l2
  | _ => .l3

/-- The lanes in rotation, starting after the given one (08 R139). -/
def Lane.rotationAfter : Lane → List Lane
  | .l0 => [.l1, .l2, .l3, .l0]
  | .l1 => [.l2, .l3, .l0, .l1]
  | .l2 => [.l3, .l0, .l1, .l2]
  | .l3 => [.l0, .l1, .l2, .l3]

end Sys2Proof

namespace Sys2Proof.Machine

/-! ## Bit fields -/

/-- A number placed in the field of `width` bits from bit `lo` up. -/
def packField (lo width v : Nat) : Word := BitVec.ofNat 32 ((v % 2 ^ width) * 2 ^ lo)

/-- One bit placed at bit `lo`. -/
def packBit (lo : Nat) (b : Bool) : Word := packField lo 1 (if b then 1 else 0)

/-- The low 20 bits of a serial (04 R60). -/
def low20 (s : Serial) : Serial20 := s.extractLsb' 0 20

/-- A 16-bit distance as a web distance. -/
def wide (d : Half) : WebPos := d.setWidth 32

/-- `x` is forward of `y`: the modular distance from `y` to `x` is from 1 to half the range (00). -/
def isForward {n : Nat} (x y : BitVec n) : Bool :=
  1 ≤ (x - y).toNat && (x - y).toNat ≤ 2 ^ (n - 1)

/-- The trim as a web distance, sign extended (02 R28, 12 R182). -/
def trimDistance (t : Byte) : WebPos := t.signExtend 32

/-! ## Order slots (03 R41, 12 section 12.3) -/

/-- A word that can be trusted (03 R48). -/
def ReadOutcome.trusted : ReadOutcome → Bool
  | .clean => true
  | .corrected _ => true
  | .blank => true
  | .uncorrectable _ => false

/-- The order's serial. -/
def WindowEntry.serial (e : WindowEntry) : Serial := e.word0.data
/-- The order's batch. -/
def WindowEntry.batch (e : WindowEntry) : Half := e.word1.data.extractLsb' 0 16
/-- END_OF_BATCH. -/
def WindowEntry.endOfBatch (e : WindowEntry) : Bool := e.word1.data.getLsbD 16
/-- SAMPLE_PULL. -/
def WindowEntry.samplePull (e : WindowEntry) : Bool := e.word1.data.getLsbD 17
/-- VOID. -/
def WindowEntry.void (e : WindowEntry) : Bool := e.word1.data.getLsbD 18
/-- The order's pitch. -/
def WindowEntry.pitch (e : WindowEntry) : Half := e.word2.data.extractLsb' 0 16
/-- The stack target override. -/
def WindowEntry.override (e : WindowEntry) : Half := e.word2.data.extractLsb' 16 16
/-- The trim. -/
def WindowEntry.trim (e : WindowEntry) : Byte := e.word3.data.extractLsb' 0 8
/-- A reserved bit of word 1 or word 3 is set. -/
def WindowEntry.reservedSet (e : WindowEntry) : Bool :=
  e.word1.data.extractLsb' 19 13 != 0#13 || e.word3.data.extractLsb' 8 24 != 0#24

/-- The four words of an entry, word 0 first. -/
def WindowEntry.words (e : WindowEntry) : List FetchedWord := [e.word0, e.word1, e.word2, e.word3]

/-- The order checks of 03 R48 in their order; the first that fails is the result. -/
def WindowEntry.firstFailure (e : WindowEntry) (previous : Option Serial) (pmin : Half) : Option OrderCheck :=
  if e.words.any (fun w => !w.outcome.trusted) then some .check
  else if e.word0.outcome.trusted && previous.any (fun p => !isForward e.serial p) then some .sequence
  else if e.pitch.toNat < pmin.toNat then some .pitch
  else if 9999 < e.override.toNat then some .target
  else if e.trim.toInt < -64 || 63 < e.trim.toInt then some .trim
  else if e.reservedSet then some .reserved
  else none

/-! ## Verdict words (04 R60, 12 section 12.4) -/

/-- The serial of a verdict word. -/
def verdictSerial (d : Word) : Serial20 := d.extractLsb' 0 20
/-- The lane of a verdict word. -/
def verdictLane (d : Word) : Lane := Lane.ofNumber (d.extractLsb' 20 2).toNat
/-- The code field's value. -/
def verdictCodeField (d : Word) : BitVec 2 := d.extractLsb' 22 2
/-- The code; NONE stands for the invalid code 0. -/
def verdictCode (d : Word) : Verdict :=
  match (verdictCodeField d).toNat with
  | 1 => .good
  | 2 => .sample
  | 3 => .reject
  | _ => .none
/-- The defect class of a verdict word. -/
def verdictDefect (d : Word) : BitVec 4 := d.extractLsb' 24 4

/-- The outcomes of a verdict (04 R61). -/
inductive VerdictOutcome where
  | taken | held | late | full | refused
  deriving DecidableEq, Repr

/-- The outcome codes (04 R61). -/
def VerdictOutcome.code : VerdictOutcome → Nat
  | .taken => 1
  | .held => 2
  | .late => 3
  | .full => 4
  | .refused => 5

/-- The verdict word with its outcome field rewritten (04 R61). -/
def withOutcome (d : Word) (o : VerdictOutcome) : Word :=
  BitVec.ofNat 4 o.code ++ d.extractLsb' 0 28

/-- The number code of a verdict (12 section 12.4). -/
def Verdict.code : Verdict → Nat
  | .none => 0
  | .good => 1
  | .sample => 2
  | .reject => 3

/-- The rank of a verdict: REJECT, SAMPLE, GOOD, NONE from strongest to weakest (04 R64); the codes rise with it. -/
def Verdict.rank (v : Verdict) : Nat := v.code

/-! ## Command cells (07 R110, 10 R159) -/

/-- The engine command cell's word of a code, operand and complement field. -/
def engineWord (code operand : Byte) (complement : Half) : Word := complement ++ operand ++ code
/-- The code field of a command cell. -/
def cellCode (d : Word) : Byte := d.extractLsb' 0 8
/-- The operand byte of a command cell. -/
def cellOperand (d : Word) : Byte := d.extractLsb' 8 8
/-- The complement field matches the code and operand (07 R110, test 1). -/
def complementMatches (d : Word) : Bool := d.extractLsb' 16 16 == ~~~ (d.extractLsb' 0 16 : Half)
/-- The memory command cell's word of a code and the bits above it. -/
def memoryWord (code : Byte) (rest : BitVec 24) : Word := rest ++ code

/-- The lanes a mask names, in order. -/
def maskLanes (mask : Byte) : List Lane := Lane.inOrder.filter (fun l => mask.getLsbD l.number)
/-- A valid lane mask: bits 4 to 7 zero, and not zero (07 R110). -/
def maskValid (mask : Byte) : Bool := mask.toNat < 16 && mask != 0
/-- The mask that names the given lanes. -/
def lanesMask (ls : List Lane) : Nat := (ls.map (fun l => 2 ^ l.number)).sum

/-! ## Map entries (11 R174, 12) -/

/-- The base field of a map word. -/
def mapBase (d : Word) : Address := d.extractLsb' 0 22
/-- The size field of a map word. -/
def mapSize (d : Word) : BitVec 4 := d.extractLsb' 24 4
/-- A value brought into a range. -/
def clampNat (lo hi v : Nat) : Nat := if v < lo then lo else if hi < v then hi else v
/-- A map entry's word as stored. -/
def MapEntry.word (e : MapEntry) : Word := packField 0 22 e.base.toNat ||| packField 24 4 e.size.toNat

/-! ## Number codes of enumerated fields (12) -/

/-- Engine state (offset 0x002). -/
def EngineState.code : EngineState → Nat
  | .stopped => 0
  | .running => 1
  | .draining => 2
  | .halted => 3

/-- Halt cause (offset 0x002). -/
def HaltCause.code : HaltCause → Nat
  | .command => 1
  | .safety => 2
  | .reverseLimit => 3

/-- Fault cause (lane offset +0). -/
def FaultCause.code : FaultCause → Nat
  | .knife => 1
  | .trackingLost => 2
  | .backlog => 3

/-- Service state (lane offset +0). -/
def Service.code : Service → Nat
  | .off => 0
  | .active => 1
  | .draining => 2
  | .faulted _ => 3
  | .bypassed => 4

/-- Fault cause of a service state, zero while the lane is not FAULTED (07 R109). -/
def Service.causeCode : Service → Nat
  | .faulted c => c.code
  | .off => 0
  | .active => 0
  | .draining => 0
  | .bypassed => 0

/-- The lane is FAULTED, whatever the cause. -/
def Service.isFaulted : Service → Bool
  | .faulted _ => true
  | .off => false
  | .active => false
  | .draining => false
  | .bypassed => false

/-- GATE position (lane offset +0). -/
def Gate.code : Gate → Nat
  | .reject => 0
  | .stack => 1
  | .sample => 2

/-- Stacker state (lane offset +7). -/
def Stacker.code : Stacker → Nat
  | .notReady => 0
  | .filling _ => 1
  | .transferring _ => 2

/-- Tray (12). -/
def Tray.code : Tray → Nat
  | .a => 0
  | .b => 1

/-- The other tray (06 R89). -/
def Tray.other : Tray → Tray
  | .a => .b
  | .b => .a

/-- The tray bit published for a stacker, set only while FILLING(B) (log 17). -/
def Stacker.trayCode : Stacker → Nat
  | .filling t => t.code
  | .notReady => 0
  | .transferring _ => 0

/-- Engine command results, in the order of the table of 07 R111 (12). -/
def EngineResult.code : EngineResult → Nat
  | .none => 0
  | .reset => 1
  | .done => 2
  | .noLane => 3
  | .refusedIntegrity => 4
  | .refusedCode => 5
  | .refusedOperand => 6
  | .refusedState => 7
  | .refusedSafe => 8
  | .refusedQueue => 9
  | .refusedParked => 10
  | .refusedCheck => 11

/-- Memory command results (12). -/
def MemResult.code : MemResult → Nat
  | .none => 0
  | .done => 1
  | .stoppedAtFault => 2
  | .aborted => 3
  | .reset => 4
  | .refusedCode => 5
  | .refusedOperand => 6
  | .refusedRegion => 7
  | .notBusy => 8
  | .refusedBusy => 9
  | .refusedSuspended => 10

/-- Memory command state (offset 0x024). -/
def MemState.code : MemState → Nat
  | .idle => 0
  | .busy => 1
  | .suspended => 2

/-- Uncorrectable detail (offset 0x0A2). -/
def Detail.code : Detail → Nat
  | .multi => 1
  | .poison => 2
  | .blank => 3

/-- Probe outcome (offset 0x02B). -/
def ReadOutcome.probeCode : ReadOutcome → Nat
  | .clean => 0
  | .corrected _ => 1
  | .blank => 2
  | .uncorrectable .multi => 3
  | .uncorrectable .poison => 4
  | .uncorrectable .blank => 2

/-- Capture source (12). -/
def Source.code : Source → Nat
  | .hostRead => 0
  | .hostWrite => 1
  | .fetch _ => 2
  | .scrub => 3
  | .verify => 4

/-- The lane of a source, zero where it has none (12 R182). -/
def Source.laneNumber : Source → Nat
  | .fetch l => l.number
  | .hostRead => 0
  | .hostWrite => 0
  | .scrub => 0
  | .verify => 0

/-- Order fault cause as an event's value (12 section 12.6). -/
def OrderCheck.code : OrderCheck → Nat
  | .check => 1
  | .sequence => 2
  | .pitch => 3
  | .target => 4
  | .trim => 5
  | .reserved => 6

/-- Missing reason (12 section 12.5). -/
def MissingReason.code : MissingReason → Nat
  | .fault => 1
  | .void => 2
  | .reject => 3
  | .sample => 4
  | .spill => 5
  | .abandoned => 6

/-- Close reason (12 section 12.5). -/
def CloseReason.code : CloseReason → Nat
  | .count => 1
  | .batchEnd => 2
  | .batchChange => 3
  | .host => 4
  | .drain => 5
  | .laneFault => 6
  | .halt => 7

/-- Undecided policy, check mode and reporting mode (offsets 0x04F, 0x050, 0x052). -/
def UndecidedPolicy.code : UndecidedPolicy → Nat
  | .reject => 0
  | .pass => 1

/-- Check mode (offset 0x050). -/
def CheckMode.code : CheckMode → Nat
  | .off => 0
  | .check => 1
  | .checkScrub => 2

/-- Reporting mode (offset 0x052). -/
def ReportingMode.code : ReportingMode → Nat
  | .silent => 0
  | .severe => 1
  | .faults => 2
  | .label => 3
  | .all => 4

end Sys2Proof.Machine
end

