-- ==== Sys2Proof/Machine/CheckCode.lean ====
section
/-! DEFINITION. The check code (09 section 9.1): the check byte, the syndrome and the classification of a location. -/

namespace Sys2Proof.Machine

/-- The columns of data bits 0 to 31 (09 R144). -/
def checkColumns : List Byte :=
  [0x07, 0x19, 0x61, 0x13, 0x25, 0x49, 0x8A, 0x94,
   0xA2, 0xC4, 0xA8, 0xD0, 0x0E, 0x16, 0x26, 0x46,
   0x1A, 0x2A, 0x4A, 0x32, 0x52, 0x62, 0x1C, 0x2C,
   0x4C, 0x34, 0x54, 0x64, 0x38, 0x58, 0x68, 0x70]

/-- The columns of the data bits that are one, from bit `i` up, exclusive-or together. -/
def columnsOfOnes (d : Word) : Nat → List Byte → Byte
  | _, [] => 0
  | i, c :: cs => (if d.getLsbD i then c else 0) ^^^ columnsOfOnes d (i + 1) cs

/-- The check byte of a word (09 R144). -/
def checkByte (d : Word) : Byte := 0x55 ^^^ columnsOfOnes d 0 checkColumns

/-- The location that stores a word with its check byte. -/
def checkedLocation (d : Word) : Location := ⟨d, checkByte d⟩

/-- The location that stores a word with the poison check (08 R136). -/
def poisonedLocation (d : Word) : Location := ⟨d, checkByte d ^^^ Config.poisonPattern⟩

/-- The syndrome of a location (09 R145). -/
def syndrome (x : Location) : Byte := x.check ^^^ checkByte x.data

/-- The syndromes of one flipped bit, positions 0 to 39 (09 R145). -/
def singleBitSyndromes : List Byte :=
  checkColumns ++ [0x01, 0x02, 0x04, 0x08, 0x10, 0x20, 0x40, 0x80]

/-- The place of a byte in a list of syndromes, counted from `i`. -/
def placeOf (y : Byte) : Nat → List Byte → Option Nat
  | _, [] => none
  | i, c :: cs => if c = y then some i else placeOf y (i + 1) cs

/-- The bit position whose flip gives a syndrome. -/
def flippedBit (y : Byte) : Option Nat := placeOf y 0 singleBitSyndromes

/-- The classification of a location: the lines of 09 R145 in their order. -/
def classify (x : Location) : ReadOutcome :=
  if x.data = 0 ∧ x.check = 0 then .blank
  else if x.data = BitVec.allOnes 32 ∧ x.check = 0xFF then .uncorrectable .multi
  else if syndrome x = 0 then .clean
  else match flippedBit (syndrome x) with
    | some b => .corrected b
    | none => if syndrome x = Config.poisonPattern then .uncorrectable .poison else .uncorrectable .multi

/-- A word with one data bit flipped; a position from 32 up is a check byte bit and leaves the data as read. -/
def flipData (d : Word) (bit : Nat) : Word := d ^^^ BitVec.ofNat 32 (2 ^ bit)

/-- The data handed on with an outcome (09 R145). -/
def handedOn (x : Location) : Word :=
  match classify x with
  | .blank => 0
  | .corrected b => flipData x.data b
  | .clean => x.data
  | .uncorrectable _ => x.data

/-- An outcome as a consumer takes it under the blank tolerance (09 R148). -/
def ReadOutcome.under (tolerant : Bool) : ReadOutcome → ReadOutcome
  | .blank => if tolerant then .blank else .uncorrectable .blank
  | .clean => .clean
  | .corrected b => .corrected b
  | .uncorrectable d => .uncorrectable d

end Sys2Proof.Machine
end

