-- ==== Sys2Proof/Machine/Ops.lean ====
section
/-! DEFINITION. The named operations over job memory and the lanes. -/

namespace Sys2Proof.Machine

/-! ## The start-up image (11 R177) -/

/-- The start-up image's word at an offset of the control page: the identity words, each setting's default in its
field, and zero elsewhere. -/
def startUpWord (off : Nat) : Word :=
  match off with
  | 0x000 => Config.partCode
  | 0x001 => Config.revision
  | 0x040 => 2000
  | 0x041 => 3000
  | 0x042 => 4800
  | 0x043 => 200
  | 0x044 => 300
  | 0x045 => 40
  | 0x046 => 600
  | 0x047 => 600
  | 0x048 => 600
  | 0x049 => 600
  | 0x04A => 500
  | 0x04B => 500
  | 0x04C => 500
  | 0x04D => 500
  | 0x04E => 1000
  | 0x050 => 2
  | 0x052 => 3
  | 0x054 => 0x1FFF
  | _ => 0

/-! ## Job memory -/

/-- Job memory as the list of its written locations (log 1). -/
abbrev Memory := List (Nat × Location)

/-- What an unlisted address holds: in the control page the start-up image's word with its check byte (08 R141);
elsewhere nothing that the part has written (09 R146, log 1). -/
def Memory.unlisted (a : Nat) : Option Location :=
  if Config.pageBase ≤ a ∧ a < Config.memoryWords then some (checkedLocation (startUpWord (a - Config.pageBase)))
  else none

/-- The location at an address, `none` where nothing has been written since power-on. -/
def Memory.lookup : Memory → Nat → Option Location
  | [], a => Memory.unlisted a
  | (b, x) :: m, a => if a = b then some x else Memory.lookup m a

/-- A location stored, keeping the canonical form. -/
def Memory.store : Memory → Nat → Location → Memory
  | [], a, x => if Memory.unlisted a = some x then [] else [(a, x)]
  | (b, y) :: m, a, x =>
    if a < b then (if Memory.unlisted a = some x then (b, y) :: m else (a, x) :: (b, y) :: m)
    else if a = b then (if Memory.unlisted a = some x then m else (a, x) :: m)
    else (b, y) :: Memory.store m a x

/-- The addresses rise strictly from above `lo`, lie in job memory, and no entry equals what an unlisted address
holds. -/
def Memory.wfAbove : Option Nat → Memory → Bool
  | _, [] => true
  | lo, (a, x) :: m =>
    lo.all (fun b => b < a) && decide (a < Config.memoryWords) && decide (Memory.unlisted a ≠ some x) &&
      Memory.wfAbove (some a) m

/-- The canonical form of job memory. -/
def Memory.wf (m : Memory) : Bool := Memory.wfAbove none m

/-- The location that a read of an address finds: what is written there, or a free value of this power-on (log 1). -/
def State.location (s : State) (a : Nat) : Location :=
  match Memory.lookup s.memory a with
  | some x => x
  | none => ⟨Config.powerUpData s.powerCycle a, Config.powerUpCheck s.powerCycle a⟩

/-- A location stored where job memory has one: beyond address 4,194,303 there is none, and a region that would run
past it ends there (08 R127, log 25). -/
def Memory.storeInside (m : Memory) (a : Nat) (x : Location) : Memory :=
  if a < Config.memoryWords then Memory.store m a x else m

/-- A whole location stored, as raw and poison merges do. -/
def State.storeLocation (s : State) (a : Nat) (x : Location) : State :=
  { s with memory := Memory.storeInside s.memory a x }

/-- A word stored with its check byte (08 R129). -/
def State.storeWord (s : State) (a : Nat) (d : Word) : State := s.storeLocation a (checkedLocation d)

/-- The address of an offset of the control page. -/
def pageAddress (off : Nat) : Nat := Config.pageBase + off

/-! ## Lanes -/

/-- A lane's state. -/
def State.lane (s : State) (l : Lane) : LaneState := s.lanes.get l

/-- A lane's state replaced. -/
def State.setLane (s : State) (l : Lane) (x : LaneState) : State := { s with lanes := s.lanes.set l x }

/-- The engine is RUNNING or DRAINING. -/
def State.engineGoing (s : State) : Bool := s.engine.state == .running || s.engine.state == .draining

/-- The lane is in service (01 R10). -/
def State.inService (s : State) (l : Lane) : Bool :=
  s.engineGoing && ((s.lane l).service == .active || (s.lane l).service == .draining)

/-- A record holds an order (02 section 2.1). -/
def LabelRecord.holdsOrder (r : LabelRecord) : Bool := r.slot.isSome

/-- The lane's ordered count (02 R19). -/
def LaneState.orderedCount (x : LaneState) : Nat := x.queue.countP (·.holdsOrder)

/-- The lane's window depth, counting the reservation (03 R40). -/
def LaneState.windowDepth (x : LaneState) : Nat := x.window.length + (if x.reservation.isSome then 1 else 0)

/-- The lane's pending-confirm list: its FIRED records, oldest first (05 R79, log 18). -/
def LaneState.pendingConfirms (x : LaneState) : List LabelRecord := x.queue.filter (·.cutState == .fired)

/-- No lane is ACTIVE. -/
def State.noLaneActive (s : State) : Bool := Lane.inOrder.all (fun l => (s.lane l).service != .active)

/-- The state after an action on each lane in lane order. -/
def State.forLanes (s : State) (f : State → Lane → State) : State := Lane.inOrder.foldl f s

/-! ## Counts that hold -/

/-- A count raised by one, holding at a limit. -/
def raiseHolding (limit n : Nat) : Nat := if n < limit then n + 1 else n

end Sys2Proof.Machine
end

