-- ==== Sys2Proof/Machine/Flags.lean ====
section
/-! DEFINITION. Every flag computation: label fault flags, the fault summary and primary record, ATTN and STOPREQ, and
the giving of events. -/

namespace Sys2Proof.Machine

/-! ## Label flags (02 section 2.1) -/

/-- Any fault flag is set; UNDECIDED is none of them (05 R83). -/
def LabelFlags.anyFault (f : LabelFlags) : Bool :=
  f.regFault || f.markMissing || f.splice || f.orderless || f.orderFault.isSome || f.laneFault || f.drain ||
    f.uncut || f.joined

/-- A record flagged SPLICE. -/
def LabelRecord.flagSplice (r : LabelRecord) : LabelRecord := { r with flags := { r.flags with splice := true } }
/-- A record flagged LANE_FAULT. -/
def LabelRecord.flagLaneFault (r : LabelRecord) : LabelRecord :=
  { r with flags := { r.flags with laneFault := true } }
/-- A record flagged JOINED. -/
def LabelRecord.flagJoined (r : LabelRecord) : LabelRecord := { r with flags := { r.flags with joined := true } }

/-! ## Fault summary and primary record (11 section 11.6) -/

/-- The class's bit; a lower bit is a higher priority. -/
def SummaryClass.bit : SummaryClass → Nat
  | .safetyStop => 0
  | .reverseLimit => 1
  | .laneFault => 2
  | .uncorrectable => 3
  | .stackBacklog => 4
  | .orderFault => 5
  | .orderStarved => 6
  | .lateVerdict => 7
  | .protection => 8
  | .settingRefused => 9
  | .correctableLimit => 10
  | .eventsLost => 11
  | .scrubSkipped => 12

/-- A raise offered to the primary record: it is written when the record is absent or of strictly lower priority
(11 R180). -/
def offerPrimary (current : Option PrimaryRecord) (p : PrimaryRecord) : Option PrimaryRecord :=
  match current with
  | none => some p
  | some q => if p.cls.bit < q.cls.bit then some p else some q

/-- A summary class raised, with the lane, serial and address its event carries (11 R180, log 13). -/
def State.raiseClass (s : State) (c : SummaryClass) (lane : Option Lane) (serial : Option Serial)
    (address : Option Nat) : State :=
  { s with
    summary := s.summary ||| BitVec.ofNat 13 (2 ^ c.bit)
    primary := offerPrimary s.primary
      { cls := c, lane := lane, serial := serial, address := address, position := s.web.position } }

/-- ATTN: a set flag has its bit set in the attention mask (11 R181). -/
def State.attn (s : State) : Bool := s.summary &&& s.settings.attentionMask != 0

/-- STOPREQ: the engine is HALTED or a lane is FAULTED (07 R124). -/
def State.stopReq (s : State) : Bool :=
  s.engine.state == .halted || Lane.inOrder.any (fun l => (s.lane l).service.isFaulted)

/-! ## Events (11 section 11.5, 12 section 12.6) -/

/-- The severities, from least to most severe. -/
inductive Severity where
  | info | label | fault | severe
  deriving DecidableEq, Repr

/-- A severity's code (12 section 12.6). -/
def Severity.code : Severity → Nat
  | .info => 0
  | .label => 1
  | .fault => 2
  | .severe => 3

/-- An event's severity (12 section 12.6). -/
def EventCode.severity : EventCode → Severity
  | .encoderDoubleStep => .info
  | .spliceStart => .info
  | .markBacklog => .info
  | .spuriousMark => .info
  | .offRegister => .label
  | .markMissing => .label
  | .orderFault => .label
  | .orderStarved => .label
  | .putRefused => .fault
  | .protectionBlock => .fault
  | .windowRewound => .info
  | .queueAbandoned => .fault
  | .verdictRefused => .info
  | .lateVerdict => .label
  | .earlyFull => .label
  | .earlyStale => .label
  | .earlyDiscarded => .info
  | .verdictUndecided => .info
  | .knifeMissed => .label
  | .kdoneStray => .info
  | .spill => .label
  | .trayReadyStray => .info
  | .stackClosed => .info
  | .stackParked => .fault
  | .stackReadRefused => .fault
  | .engineHalted => .severe
  | .engineStopped => .info
  | .laneFaulted => .fault
  | .commandIntegrity => .fault
  | .commandRefused => .info
  | .partialRefused => .fault
  | .uncorrectable => .fault
  | .correctableLimit => .fault
  | .exemptWindowCleared => .info
  | .settingRefused => .info
  | .eventReadRefused => .fault

/-- An event's code (12 section 12.6). -/
def EventCode.code : EventCode → Nat
  | .encoderDoubleStep => 0x01
  | .spliceStart => 0x02
  | .markBacklog => 0x03
  | .spuriousMark => 0x04
  | .offRegister => 0x05
  | .markMissing => 0x06
  | .orderFault => 0x10
  | .orderStarved => 0x11
  | .putRefused => 0x12
  | .protectionBlock => 0x13
  | .windowRewound => 0x14
  | .queueAbandoned => 0x15
  | .verdictRefused => 0x20
  | .lateVerdict => 0x21
  | .earlyFull => 0x22
  | .earlyStale => 0x23
  | .earlyDiscarded => 0x24
  | .verdictUndecided => 0x25
  | .knifeMissed => 0x30
  | .kdoneStray => 0x31
  | .spill => 0x38
  | .trayReadyStray => 0x39
  | .stackClosed => 0x3A
  | .stackParked => 0x3B
  | .stackReadRefused => 0x3C
  | .engineHalted => 0x40
  | .engineStopped => 0x41
  | .laneFaulted => 0x42
  | .commandIntegrity => 0x43
  | .commandRefused => 0x44
  | .partialRefused => 0x50
  | .uncorrectable => 0x51
  | .correctableLimit => 0x52
  | .exemptWindowCleared => 0x53
  | .settingRefused => 0x54
  | .eventReadRefused => 0x55

/-- The reporting mode keeps a severity (11 R178). -/
def ReportingMode.keeps : ReportingMode → Severity → Bool
  | .silent, _ => false
  | .severe, v => v == .severe
  | .faults, v => v == .fault || v == .severe
  | .label, v => v == .label || v == .fault || v == .severe
  | .all, _ => true

/-- What a raising rule says of an event; the record writer adds the sequence number. -/
structure EventBody where
  /-- the code -/
  code    : EventCode
  /-- the lane -/
  lane    : Option Lane := none
  /-- the serial -/
  serial  : Option Serial := none
  /-- the address -/
  address : Option Nat := none
  /-- the value -/
  value   : Option Word := none

/-- An event given, carrying the given web position: it takes the next sequence number, is filtered by the reporting
mode, and joins the event queue or is dropped with EVENTS_LOST (11 R178). -/
def State.giveAt (s : State) (position : WebPos) (b : EventBody) : State :=
  let e : Event :=
    { sequence := s.writer.eventSequence, code := b.code, lane := b.lane, serial := b.serial,
      address := b.address, value := b.value, position := position }
  let s1 : State := { s with writer := { s.writer with eventSequence := s.writer.eventSequence + 1 } }
  if s.settings.reportingMode.keeps b.code.severity then
    if s.writer.events.length < Config.eventPlaces then
      { s1 with writer := { s1.writer with events := s1.writer.events ++ [e] } }
    else s1.raiseClass .eventsLost none none none
  else s1

/-- An event given at the web position as it stands. -/
def State.give (s : State) (b : EventBody) : State := s.giveAt s.web.position b

/-- An event given and its summary class raised with the same lane, serial and address. -/
def State.giveRaise (s : State) (c : SummaryClass) (b : EventBody) : State :=
  (s.give b).raiseClass c b.lane b.serial b.address

end Sys2Proof.Machine
end

