-- ==== Sys2Proof/Machine/Region.lean ====
section
/-! DEFINITION. The region decoder (08 section 8.2), slot protection (03 R53) and the ranges that the map lock and the
exemption windows test. -/

namespace Sys2Proof.Machine

/-- The classes of an address (08 R127). -/
inductive AddressClass where
  | control
  | orderSlot (l : Lane) (slot : Nat)
  | verdict
  | stackRing
  | eventRing
  | exempt
  | plain
  deriving DecidableEq, Repr

/-- A map entry is mapped (03 R39, 06 R105, 11 R179). -/
def MapEntry.mapped (e : MapEntry) : Bool := e.base != 0

/-- The number of slots or records of a ring. -/
def MapEntry.slots (e : MapEntry) : Nat := 2 ^ e.size.toNat

/-- An address lies in the `len` words from `base` up. -/
def inRange (base len a : Nat) : Bool := decide (base ≤ a) && decide (a < base + len)

/-- Two ranges of words share an address. -/
def rangesMeet (b1 n1 b2 n2 : Nat) : Bool :=
  decide (0 < n1) && decide (0 < n2) && decide (b1 < b2 + n2) && decide (b2 < b1 + n1)

/-- A mapped ring of records of `words` words contains an address. -/
def MapEntry.contains (e : MapEntry) (words a : Nat) : Bool :=
  e.mapped && inRange e.base.toNat (words * e.slots) a

/-- The verdict cells are mapped and contain an address (04 R59). -/
def RegionMap.inVerdictCells (m : RegionMap) (a : Nat) : Bool :=
  m.verdictCells != 0 && inRange m.verdictCells.toNat Config.verdictCells a

/-- The first lane whose mapped order ring contains an address. -/
def RegionMap.orderLane (m : RegionMap) (a : Nat) : Option Lane :=
  Lane.inOrder.find? (fun l => (m.orderRing.get l).contains Config.slotWords a)

/-- An active window contains an address. -/
def ExemptWindow.covers (w : ExemptWindow) (a : Nat) : Bool := w.active && inRange w.base.toNat w.size.toNat a

/-- The class of an address: the tests of 08 R127 in their order. -/
def State.addressClass (s : State) (a : Nat) : AddressClass :=
  if inRange Config.pageBase Config.pageWords a then .control
  else match s.regions.orderLane a with
    | some l => .orderSlot l ((a - (s.regions.orderRing.get l).base.toNat) / Config.slotWords)
    | none =>
      if s.regions.inVerdictCells a then .verdict
      else if s.regions.stackRing.contains Config.stackRecordWords a then .stackRing
      else if s.regions.eventRing.contains Config.eventRecordWords a then .eventRing
      else if s.window0.covers a || s.window1.covers a then .exempt
      else .plain

/-- A slot of a lane's ring is protected: the ring index at or after release that names it lies before fetch
(03 R53). -/
def LaneState.slotProtected (x : LaneState) (slots slot : Nat) : Bool :=
  decide ((slot + slots - x.release.toNat % slots) % slots < (x.fetch - x.release).toNat)

/-- A slot of the lane's ring is protected. -/
def State.slotProtected (s : State) (l : Lane) (slot : Nat) : Bool :=
  (s.lane l).slotProtected (s.regions.orderRing.get l).slots slot

/-- The mapped regions as base and length (11 section 11.2). -/
def RegionMap.mappedRanges (m : RegionMap) : List (Nat × Nat) :=
  ((Lane.inOrder.map (fun l => (m.orderRing.get l, Config.slotWords)) ++
      [(m.stackRing, Config.stackRecordWords), (m.eventRing, Config.eventRecordWords)]).filter
    (fun p => p.1.mapped)).map (fun p => (p.1.base.toNat, p.2 * p.1.slots)) ++
  (if m.verdictCells != 0 then [(m.verdictCells.toNat, Config.verdictCells)] else [])

/-- No two of the ranges share an address. -/
def rangesApart : List (Nat × Nat) → Bool
  | [] => true
  | r :: rs => rs.all (fun q => !rangesMeet r.1 r.2 q.1 q.2) && rangesApart rs

/-- The lock's two conditions (11 R175): every mapped region lies wholly below the control page, and no two share an
address. -/
def RegionMap.lockable (m : RegionMap) : Bool :=
  m.mappedRanges.all (fun r => decide (r.1 + r.2 ≤ Config.pageBase)) && rangesApart m.mappedRanges

/-- A window's range overlaps a mapped region. -/
def ExemptWindow.overlapsMapped (w : ExemptWindow) (m : RegionMap) : Bool :=
  m.mappedRanges.any (fun r => rangesMeet w.base.toNat w.size.toNat r.1 r.2)

/-- The state of a window and whether its evaluation is refused (09 R149). -/
inductive WindowVerdict where
  | inactive | active | refused
  deriving DecidableEq, Repr

/-- A window evaluated from its four working values (09 R149). -/
def ExemptWindow.evaluate (w : ExemptWindow) (m : RegionMap) : WindowVerdict :=
  if w.baseComplement != ~~~ w.base || w.sizeComplement != ~~~ w.size then .inactive
  else if w.size = 0 then .inactive
  else if w.base.toNat + w.size.toNat ≤ Config.pageBase && !w.overlapsMapped m then .active
  else .refused

end Sys2Proof.Machine
end

