-- ==== Sys2Proof/Machine/ErrorReports.lean ====
section
/-! DEFINITION. Reads under the check mode, detections, captures, the correctable count and the scrub offers (09). -/

namespace Sys2Proof.Machine

/-- A detection offered to a capture: a held capture discards it; otherwise it is written, and held if it is
consuming (09 R154). -/
def Capture.offer {δ : Type} (c : Capture δ) (x : CaptureContents δ) (consuming : Bool) : Capture δ :=
  if c.held then c else { held := consuming, contents := some x }

/-- The detection's source consumes the data (09 R153); a FETCH detection does so only at binding. -/
def Source.consuming : Source → Bool
  | .hostRead => true
  | .hostWrite => true
  | .fetch _ => false
  | .scrub => true
  | .verify => true

/-- The correctable count raised, with CORRECTABLE_LIMIT when it comes to equal the threshold (09 R157). -/
def State.countCorrection (s : State) : State :=
  let n := raiseHolding Config.countHold s.capture.count
  let s1 : State := { s with capture := { s.capture with count := n } }
  if s.capture.count < Config.countHold && n == s.settings.correctableThreshold.toNat then
    s1.giveRaise .correctableLimit { code := .correctableLimit, value := some (BitVec.ofNat 32 n) }
  else s1

/-- A correctable detection (09 R153). -/
def State.detectCorrectable (s : State) (src : Source) (a bit : Nat) : State :=
  let s1 := s.countCorrection
  { s1 with capture := { s1.capture with
      correctable := s1.capture.correctable.offer ⟨a, bit, src⟩ src.consuming } }

/-- An uncorrectable detection offered to its capture (09 R153, R154). -/
def State.offerUncorrectable (s : State) (src : Source) (consuming : Bool) (a : Nat) (d : Detail) : State :=
  { s with capture := { s.capture with
      uncorrectable := s.capture.uncorrectable.offer ⟨a, d, src⟩ consuming } }

/-- The event UNCORRECTABLE and its summary class (08 R133, R136, 09 R152, 10 R165). -/
def State.reportUncorrectable (s : State) (a : Nat) (d : Detail) : State :=
  s.giveRaise .uncorrectable
    { code := .uncorrectable, address := some a, value := some (BitVec.ofNat 32 d.code) }

/-- An uncorrectable detection of a consuming source, with its event and class. -/
def State.consumeUncorrectable (s : State) (src : Source) (a : Nat) (d : Detail) : State :=
  (s.offerUncorrectable src true a d).reportUncorrectable a d

/-- An address offered to the scrub queue (08 R134, 09 R151): only in CHECK_SCRUB; never twice; SCRUB_SKIPPED when the
queue is full. -/
def State.offerScrub (s : State) (a : Nat) : State :=
  if s.settings.checkMode != .checkScrub then s
  else if s.scrubQueue.contains a then s
  else if s.scrubQueue.length < Config.scrubPlaces then { s with scrubQueue := s.scrubQueue ++ [a] }
  else s.raiseClass .scrubSkipped none none none

/-- Reads of an address are not classified: the check mode is OFF or the address is EXEMPT (09 R147). -/
def State.unclassified (s : State) (a : Nat) : Bool :=
  s.settings.checkMode == .off || s.addressClass a == .exempt

/-- The outcome of a read by host, merge or fetch under the check mode and the blank tolerance (09 R147, R148). -/
def State.readOutcome (s : State) (a : Nat) : ReadOutcome :=
  if s.unclassified a then .clean else (classify (s.location a)).under s.settings.blankTolerance

/-- The data such a read hands on: corrected for CORRECTED, zero for a tolerated BLANK, raw otherwise. -/
def State.readData (s : State) (a : Nat) : Word :=
  match s.readOutcome a with
  | .corrected b => flipData (s.location a).data b
  | .blank => 0
  | .clean => (s.location a).data
  | .uncorrectable _ => (s.location a).data

end Sys2Proof.Machine
end

