-- ==== Sys2Proof/Machine/Stacks.lean ====
section
/-! DEFINITION. The stack assembler (06 sections 6.1 to 6.4): listing, closing and placing, delivery and spill. -/

namespace Sys2Proof.Machine

/-- The carry list is empty (06 R91). -/
def Shortfall.isEmpty (c : Shortfall) : Bool := c.entries.isEmpty && c.overflow == 0 && c.unordered == 0

/-- What the stack assembler is told of a label that leaves the queue (06 R92, R96). -/
structure MissingItem where
  /-- the record's serial -/
  serial    : Option Serial
  /-- the reason -/
  reason    : MissingReason
  /-- the defect class -/
  defect    : BitVec 4
  /-- the UNDECIDED indication -/
  undecided : Bool
  deriving DecidableEq, Repr

/-- A label listed as missing: an entry, one more in the overflow, or one more unordered (06 R95). -/
def Shortfall.list (c : Shortfall) (x : MissingItem) : Shortfall :=
  match x.serial with
  | some n =>
    if c.entries.length < Config.missingPlaces then
      { c with entries := c.entries ++ [⟨n, x.reason, x.defect, x.undecided⟩] }
    else { c with overflow := raiseHolding Config.countHold c.overflow }
  | none => { c with unordered := raiseHolding Config.countHold c.unordered }

/-- The labels a shortfall accounts for (06 R101). -/
def Shortfall.total (c : Shortfall) : Nat := c.entries.length + c.overflow + c.unordered

/-- A label listed in the open stack, or in the carry list if none is open (06 R95). -/
def LaneState.listMissing (x : LaneState) (m : MissingItem) : LaneState :=
  match x.openStack with
  | some k => { x with openStack := some { k with short := k.short.list m } }
  | none => { x with carry := x.carry.list m }

/-- A label listed as missing in its lane. -/
def State.listMissing (s : State) (l : Lane) (m : MissingItem) : State :=
  s.setLane l ((s.lane l).listMissing m)

/-! ## Closing (06 section 6.3) -/

/-- The stack record of an open stack (06 R100). -/
def OpenStack.record (k : OpenStack) (l : Lane) (why : CloseReason) : StackRecord :=
  { lane := l, tray := some k.tray, sequence := k.sequence, batch := some k.batch, reason := why, count := k.count,
    first := k.first, last := k.last, short := k.short }

/-- The stack record of count 0 built from a carry list (06 R100). -/
def Shortfall.record (c : Shortfall) (l : Lane) (sequence : Half) (why : CloseReason) : StackRecord :=
  { lane := l, tray := none, sequence := sequence, batch := none, reason := why, count := 0,
    first := none, last := none, short := c }

/-- The tray a stacker's change replaces (06 R89, R90). -/
def Stacker.changing : Stacker → OpenStack → Tray
  | .filling t, _ => t
  | .transferring t, _ => t
  | .notReady, k => k.tray

/-- The lane after a close took its open stack: TRAY pulses and the stacker is TRANSFERRING (06 R90, R98). -/
def LaneState.afterStackClose (x : LaneState) (k : OpenStack) : LaneState :=
  { x with openStack := none, trayPulse := true, stacker := .transferring (x.stacker.changing k) }

/-- The lane after a close took its carry list into a record of count 0 (06 R98). -/
def LaneState.afterCarryClose (x : LaneState) : LaneState :=
  { x with carry := Shortfall.empty, nextSequence := x.nextSequence + 1 }

/-- A built record placed in the holding list, or in the lane's parked slot with STACK_BACKLOG and STACK_PARKED
(06 R102). -/
def State.placeRecord (s : State) (r : StackRecord) : State :=
  if s.writer.holding.length < Config.holdingPlaces then
    { s with writer := { s.writer with holding := s.writer.holding ++ [r] } }
  else
    (s.setLane r.lane { s.lane r.lane with parked := some r }).giveRaise .stackBacklog
      { code := .stackParked, lane := some r.lane, value := some (r.sequence.setWidth 32) }

/-- A built record placed and STACK_CLOSED given (06 R98; order of the events: log 12). -/
def State.closeWith (s : State) (r : StackRecord) : State :=
  (s.placeRecord r).give
    { code := .stackClosed, lane := some r.lane, address := some r.reason.code,
      value := some (r.sequence.setWidth 32) }

/-- A close with a reason, without the lane fault that a parking raises (06 R98, R104). -/
def State.closeStack (s : State) (l : Lane) (why : CloseReason) : State :=
  match (s.lane l).openStack with
  | some k => (s.setLane l ((s.lane l).afterStackClose k)).closeWith (k.record l why)
  | none =>
    if (s.lane l).carry.isEmpty || (s.lane l).parked.isSome then s
    else
      (s.setLane l (s.lane l).afterCarryClose).closeWith
        ((s.lane l).carry.record l (s.lane l).nextSequence why)

/-- A close with this lane as it stands builds a record (06 R98, R104). -/
def LaneState.closeBuilds (x : LaneState) : Bool :=
  x.openStack.isSome || !(x.carry.isEmpty || x.parked.isSome)

/-- A close now parks its record: it builds one and the holding list is full (06 R102). -/
def State.closeParks (s : State) (l : Lane) : Bool :=
  (s.lane l).closeBuilds && decide (Config.holdingPlaces ≤ s.writer.holding.length)

/-! ## Delivery and spill (06 R93, R94) -/

/-- The lane with a stack open for a label: the open stack as it stands, or a new one that takes the next sequence
number, the FILLING tray and the whole carry list (06 R93 step 2). -/
def LaneState.withOpenStack (x : LaneState) (t : Tray) (batch target : Half) : LaneState × OpenStack :=
  match x.openStack with
  | some k => (x, k)
  | none =>
    ({ x with carry := Shortfall.empty, nextSequence := x.nextSequence + 1 },
      { sequence := x.nextSequence, tray := t, batch := batch, target := target, count := 0, first := none,
        last := none, short := x.carry })

/-- One more label in a stack (06 R93 step 3). -/
def OpenStack.deliver (k : OpenStack) (serial : Option Serial) : OpenStack :=
  { k with count := k.count + 1, first := k.first.or serial, last := serial.or k.last }

/-- A STACK label delivered into the lane's stack under the FILLING tray (06 R93 steps 2 and 3). -/
def LaneState.deliver (x : LaneState) (t : Tray) (batch target : Half) (serial : Option Serial) : LaneState :=
  let p := x.withOpenStack t batch target
  { p.1 with openStack := some (p.2.deliver serial) }

/-- The label spills: SPILL is listed and given with the stacker's state (06 R94). -/
def State.spill (s : State) (l : Lane) (m : MissingItem) : State :=
  (s.listMissing l { m with reason := .spill }).give
    { code := .spill, lane := some l, serial := m.serial,
      value := some (BitVec.ofNat 32 (s.lane l).stacker.code) }

end Sys2Proof.Machine
end

