-- ==== Sys2Proof/Machine/Rings.lean ====
section
/-! DEFINITION. The order fetcher's indices (03): release, rewind, and the discard of a lane's early verdicts
(04 R70) that goes with leaving service. -/

namespace Sys2Proof.Machine

/-- A departing record's slot released, if it holds an order (03 R52). -/
def LaneState.releaseFor (x : LaneState) (r : LabelRecord) : LaneState :=
  if r.holdsOrder then { x with release := x.release + 1 } else x

/-- The before-serial of the window's oldest position; `none` when the window holds no position (03 R57). -/
def LaneState.oldestBefore (x : LaneState) : Option (Option Serial) :=
  match x.window with
  | e :: _ => some e.before
  | [] => x.reservation.map (·.before)

/-- The lane with its window rewound (03 R55, R57). -/
def LaneState.rewound (x : LaneState) : LaneState :=
  { x with
    window := []
    reservation := none
    fetch := x.release + BitVec.ofNat 16 x.orderedCount
    previousSerial := x.oldestBefore.getD x.previousSerial }

/-- The lane's window rewound, with WINDOW_REWOUND when a position was discarded (03 R57). -/
def State.rewind (s : State) (l : Lane) : State :=
  let s1 := s.setLane l (s.lane l).rewound
  if (s.lane l).windowDepth = 0 then s1
  else s1.give
    { code := .windowRewound, lane := some l, address := some (s.lane l).rewound.fetch.toNat,
      value := some (BitVec.ofNat 32 (s.lane l).windowDepth) }

/-- The lane's early-table entries discarded, with EARLY_DISCARDED when there was one (04 R70). -/
def State.discardEarly (s : State) (l : Lane) : State :=
  let n := s.early.countP (fun e => e.lane == l)
  let s1 : State := { s with early := s.early.filter (fun e => e.lane != l) }
  if n = 0 then s1
  else s1.give { code := .earlyDiscarded, lane := some l, value := some (BitVec.ofNat 32 n) }

end Sys2Proof.Machine
end

