-- ==== Sys2Proof/Machine/Engine.lean ====
section
/-! DEFINITION. The engine controller's changes of state (07): lane faults, run-out, drain completion, the return to
STOPPED, the halt, and a lane's entry into ACTIVE. -/

namespace Sys2Proof.Machine

/-- The engine state changed. -/
def State.setEngine (s : State) (e : EngineState) : State := { s with engine := { s.engine with state := e } }

/-- A lane's service state changed. -/
def State.setService (s : State) (l : Lane) (v : Service) : State :=
  s.setLane l { s.lane l with service := v }

/-! ## Return to STOPPED (07 R116) -/

/-- No lane ACTIVE, none DRAINING, and no FAULTED lane with records queued. -/
def State.runOutDone (s : State) : Bool :=
  Lane.inOrder.all (fun l =>
    (s.lane l).service != .active && (s.lane l).service != .draining &&
      !((s.lane l).service.isFaulted && !(s.lane l).queue.isEmpty))

/-- A DRAINING engine tested for its return to STOPPED. -/
def State.testStopped (s : State) : State :=
  if s.engine.state = .draining ∧ s.runOutDone = true then
    (s.setEngine .stopped).give { code := .engineStopped }
  else s

/-- A RUNNING engine with no ACTIVE lane becomes DRAINING, and a DRAINING one is tested (07 R115, R120). -/
def State.settleEngine (s : State) : State :=
  (if s.engine.state = .running ∧ s.noLaneActive = true then s.setEngine .draining else s).testStopped

/-! ## Lane faults (07 R120) -/

/-- The class LANE_FAULT raised and LANE_FAULTED given. -/
def State.announceFault (s : State) (l : Lane) (c : FaultCause) : State :=
  s.giveRaise .laneFault { code := .laneFaulted, lane := some l, value := some (BitVec.ofNat 32 c.code) }

/-- A close in a lane that is FAULTED: a parking raises BACKLOG again, which leaves the first cause (06 R102,
07 R120). -/
def State.closeFaulted (s : State) (l : Lane) (why : CloseReason) : State :=
  if s.closeParks l then (s.closeStack l why).announceFault l .backlog else s.closeStack l why

/-- Run-out complete in a FAULTED lane: the LANE_FAULT close, then the test for STOPPED (02 R30, 06 R99, 07 R116). -/
def State.runOutComplete (s : State) (l : Lane) : State := (s.closeFaulted l .laneFault).testStopped

/-- The lane as a fault leaves it: FAULTED, every queued record flagged LANE_FAULT, GATE at REJECT. -/
def LaneState.faultedBy (x : LaneState) (c : FaultCause) : LaneState :=
  { x with service := .faulted c, queue := x.queue.map (·.flagLaneFault), gate := .reject }

/-- A lane fault raised to the engine controller (07 R120). -/
def State.laneFault (s : State) (l : Lane) (c : FaultCause) : State :=
  match (s.lane l).service with
  | .bypassed => s
  | .faulted _ => s.announceFault l c
  | .off | .active | .draining =>
    let s1 := (((s.setLane l ((s.lane l).faultedBy c)).announceFault l c).rewind l).discardEarly l
    let s2 := if (s1.lane l).queue.isEmpty then s1.runOutComplete l else s1
    s2.settleEngine

/-- A close that is not a HALT close: a parking raises the BACKLOG fault (06 R98, R102). -/
def State.closeAndFault (s : State) (l : Lane) (why : CloseReason) : State :=
  if s.closeParks l then (s.closeStack l why).laneFault l .backlog else s.closeStack l why

/-! ## Drain completion (07 R116) -/

/-- A lane's drain completion: OFF, early entries discarded, window rewound, DRAIN close, test for STOPPED. -/
def State.drainComplete (s : State) (l : Lane) : State :=
  ((((s.setService l .off).discardEarly l).rewind l).closeAndFault l .drain).testStopped

/-! ## Halt (07 R117, R118) -/

/-- What an abandoned record hands the stack assembler (02 R35, 06 R96). -/
def LabelRecord.abandonedItem (r : LabelRecord) : MissingItem :=
  { serial := r.serial, reason := .abandoned, defect := r.defect, undecided := r.flags.undecided }

/-- One record abandoned: its slot released, the label listed (02 R35). -/
def LaneState.abandonOne (x : LaneState) (r : LabelRecord) : LaneState :=
  let y := (x.releaseFor r).listMissing r.abandonedItem
  { y with departed := y.departed + 1 }

/-- The whole queue abandoned from head to tail (02 R35). -/
def LaneState.abandoned (x : LaneState) : LaneState :=
  { x.queue.foldl LaneState.abandonOne x with queue := [] }

/-- The queue abandoned, with QUEUE_ABANDONED when it held a record (02 R35). -/
def State.abandonQueue (s : State) (l : Lane) : State :=
  let s1 := s.setLane l (s.lane l).abandoned
  if (s.lane l).queue.isEmpty then s1
  else s1.give
    { code := .queueAbandoned, lane := some l, value := some (BitVec.ofNat 32 (s.lane l).queue.length) }

/-- The lane's outputs and stacker at a halt: KNIFE idle (05 R82), stacker NOT_READY (06 R88), GATE at REJECT
(05 R86), and OFF unless BYPASSED (07 R118). -/
def LaneState.haltedOutputs (x : LaneState) : LaneState :=
  { x with
    knifePulse := false
    stacker := .notReady
    gate := .reject
    service := if x.service = .bypassed then .bypassed else .off }

/-- One lane at the entry into HALTED, in the order of 07 R118. The rewind sets the previous serial back as 03 R57 says,
though 07 R118 names it among what a halt leaves: the model's choice (log 33). -/
def State.haltLane (s : State) (l : Lane) : State :=
  let s1 := (s.abandonQueue l).closeStack l .halt
  let s2 := s1.setLane l (s1.lane l).haltedOutputs
  if (s.lane l).service = .bypassed then s2 else (s2.rewind l).discardEarly l

/-- The summary class a halt cause raises (07 R117). -/
def State.raiseHalt (s : State) : HaltCause → State
  | .command => s
  | .safety => s.raiseClass .safetyStop none none none
  | .reverseLimit => s.raiseClass .reverseLimit none none none

/-- The engine enters HALTED for a cause (07 R117, R118). -/
def State.enterHalted (s : State) (c : HaltCause) : State :=
  let s1 : State := { s with engine := { s.engine with state := .halted, cause := some c } }
  let s2 := (s1.give { code := .engineHalted, value := some (BitVec.ofNat 32 c.code) }).raiseHalt c
  s2.forLanes State.haltLane

/-- A halt for a cause, not taken while the engine is HALTED (07 R117). -/
def State.takeHalt (s : State) (c : HaltCause) : State :=
  if s.engine.state = .halted then s else s.enterHalted c

/-- The reverse-limit condition: taken only while RUNNING or DRAINING (07 R117). -/
def State.reverseLimitCondition (s : State) : State :=
  if s.engineGoing then s.enterHalted .reverseLimit else s

/-! ## Entry into ACTIVE (07 R114) -/

/-- The lane as its entry into ACTIVE sets it: tracker SEEKING, no last bound serial, no misses. GATE stays where it
stands, also where that is not REJECT: the model's choice (log 32). -/
def LaneState.activated (x : LaneState) : LaneState :=
  { x with service := .active, tracker := Tracker.initial, lastBound := none, misses := 0 }

/-- A lane enters ACTIVE. -/
def State.activate (s : State) (l : Lane) : State := s.setLane l (s.lane l).activated

end Sys2Proof.Machine
end

