-- ==== Sys2Proof/Machine/Verdicts.lean ====
section
/-! DEFINITION. Verdict intake (04): precedence, matching, the early verdict table, and the taking of a verdict. -/

namespace Sys2Proof.Machine

/-- A verdict and class merged by precedence (04 R64). -/
def mergeVerdict (v : Verdict) (d : BitVec 4) (v' : Verdict) (d' : BitVec 4) : Verdict × BitVec 4 :=
  if v.rank < v'.rank then (v', d') else if v.rank = v'.rank then (v, d') else (v, d)

/-- A verdict merged into a label record. -/
def LabelRecord.merge (r : LabelRecord) (v : Verdict) (d : BitVec 4) : LabelRecord :=
  { r with verdict := (mergeVerdict r.verdict r.defect v d).1, defect := (mergeVerdict r.verdict r.defect v d).2 }

/-- A verdict merged into an early entry. -/
def EarlyEntry.merge (e : EarlyEntry) (v : Verdict) (d : BitVec 4) : EarlyEntry :=
  { e with code := (mergeVerdict e.code e.defect v d).1, defect := (mergeVerdict e.code e.defect v d).2 }

/-- A record matches a verdict's serial (04 R63). -/
def LabelRecord.isMatch (r : LabelRecord) (v : Serial20) : Bool := r.serial.any (fun n => low20 n == v)

/-- The first element that satisfies a test replaced by its image. -/
def updateFirst {α : Type} (p : α → Bool) (f : α → α) : List α → List α
  | [] => []
  | x :: xs => if p x then f x :: xs else x :: updateFirst p f xs

/-- A verdict is early by the lane's last bound serial (04 R67). -/
def LaneState.isEarly (x : LaneState) (v : Serial20) : Bool :=
  match x.lastBound with
  | none => true
  | some n => isForward v (low20 n)

/-- An entry belongs to a lane and serial. -/
def EarlyEntry.isFor (e : EarlyEntry) (l : Lane) (v : Serial20) : Bool := e.lane == l && e.serial == v

/-- The outcome of a verdict word (04 R62, R63, R65, R67, R68). -/
def State.verdictOutcome (s : State) (d : Word) : VerdictOutcome :=
  let l := verdictLane d
  let v := verdictSerial d
  if verdictCode d = .none ∨ s.inService l = false then .refused
  else if (s.lane l).queue.any (fun r => r.isMatch v && !r.closed) then .taken
  else if (s.lane l).queue.any (fun r => r.isMatch v) then .late
  else if (s.lane l).isEarly v then
    if s.early.any (fun e => e.isFor l v) || s.early.length < Config.earlyPlaces then .held else .full
  else .late

/-- A verdict's event body (04 R62, R65, R68). -/
def verdictEvent (code : EventCode) (d : Word) : EventBody :=
  { code := code, lane := some (verdictLane d), serial := some ((verdictSerial d).setWidth 32),
    value := some (BitVec.ofNat 32 (verdictCode d).code) }

/-- A verdict merged into the early table's entry for its lane and serial, or entered as a new one (04 R67). -/
def holdEarly (t : List EarlyEntry) (d : Word) : List EarlyEntry :=
  if t.any (fun e => e.isFor (verdictLane d) (verdictSerial d)) then
    updateFirst (fun e => e.isFor (verdictLane d) (verdictSerial d))
      (fun e => e.merge (verdictCode d) (verdictDefect d)) t
  else t ++ [⟨verdictLane d, verdictSerial d, verdictCode d, verdictDefect d⟩]

/-- The queue with a verdict merged into its first matching OPEN record (04 R63). -/
def LaneState.takeVerdict (x : LaneState) (d : Word) : LaneState :=
  let takes : LabelRecord → Bool := fun r => r.isMatch (verdictSerial d) && !r.closed
  { x with queue := updateFirst takes (·.merge (verdictCode d) (verdictDefect d)) x.queue }

/-- The change an outcome makes (04 sections 4.1 to 4.3). -/
def State.applyVerdict (s : State) (d : Word) : VerdictOutcome → State
  | .taken => s.setLane (verdictLane d) ((s.lane (verdictLane d)).takeVerdict d)
  | .held => { s with early := holdEarly s.early d }
  | .late => s.giveRaise .lateVerdict (verdictEvent .lateVerdict d)
  | .full => s.give (verdictEvent .earlyFull d)
  | .refused => s.give (verdictEvent .verdictRefused d)

/-- A verdict taken: its change made, and the word stored with its outcome (04 R61). -/
def State.takeVerdict (s : State) (a : Nat) (d : Word) : State :=
  (s.applyVerdict d (s.verdictOutcome d)).storeWord a (withOutcome d (s.verdictOutcome d))

/-! ## Early merge and stale eviction at binding (02 R26, 04 R69) -/

/-- The early entry that a new record with serial `n` takes. -/
def State.earlyFor (s : State) (l : Lane) (n : Serial) : Option EarlyEntry :=
  s.early.find? (fun e => e.isFor l (low20 n))

/-- An entry of the lane that is not forward of a newly bound serial. -/
def EarlyEntry.stale (e : EarlyEntry) (l : Lane) (n : Serial) : Bool :=
  e.lane == l && !isForward e.serial (low20 n)

/-- The entry for the bound serial removed, and every stale entry of the lane evicted with EARLY_STALE. -/
def State.evictEarly (s : State) (l : Lane) (n : Serial) : State :=
  let rest := s.early.filter (fun e => !e.isFor l (low20 n))
  let s1 : State := { s with early := rest.filter (fun e => !e.stale l n) }
  (rest.filter (fun e => e.stale l n)).foldl (fun t e =>
    t.give { code := .earlyStale, lane := some l, serial := some (e.serial.setWidth 32),
             value := some (BitVec.ofNat 32 e.code.code) }) s1

/-- The new record with its early verdict merged (02 R26). -/
def State.mergeEarly (s : State) (l : Lane) (n : Serial) (r : LabelRecord) : LabelRecord :=
  match s.earlyFor l n with
  | some e => r.merge e.code e.defect
  | none => r

end Sys2Proof.Machine
end

