-- ==== Sys2Proof/Machine/Labels.lean ====
section
/-! DEFINITION. Label starts (01 R9, 02 sections 2.3): binding, the new record, its targets and its events. -/

namespace Sys2Proof.Machine

/-- A label start (01 R9); its SPLICE flag is the SPLICE level when it is made. -/
structure LabelStart where
  /-- SENSED or SYNTHETIC -/
  origin      : Origin
  /-- the mark position -/
  mark        : WebPos
  /-- REG_FAULT -/
  regFault    : Bool
  /-- MARK_MISSING -/
  markMissing : Bool
  deriving DecidableEq, Repr

/-- What a label start binds (02 R21 to R24). -/
inductive Binding where
  | valid (e : WindowEntry)
  | faulty (e : WindowEntry) (why : OrderCheck)
  | starved
  | drain
  deriving DecidableEq, Repr

/-- The binding of a lane's next label start: an ACTIVE lane binds its oldest window position if that is a complete
entry; a DRAINING lane binds none (02 R21 to R24, 03 R50). -/
def LaneState.binding (x : LaneState) : Binding :=
  if x.service = .active then
    match x.window with
    | [] => .starved
    | e :: _ => match e.failed with
      | none => .valid e
      | some c => .faulty e c
  else .drain

/-- The bound entry, if any. -/
def Binding.entry : Binding → Option WindowEntry
  | .valid e => some e
  | .faulty e _ => some e
  | .starved => none
  | .drain => none

/-- The window after a binding took its oldest entry. -/
def Binding.windowAfter (b : Binding) (w : List WindowEntry) : List WindowEntry :=
  if b.entry.isSome then w.tail else w

/-- The serial the new record holds (02 R21, R22). -/
def Binding.serial : Binding → Option Serial
  | .valid e => some e.serial
  | .faulty e _ => if e.word0.outcome.trusted then some e.serial else none
  | .starved => none
  | .drain => none

/-- The batch the new record holds. -/
def Binding.batch : Binding → Option Half
  | .valid e => some e.batch
  | .faulty e _ => if e.word1.outcome.trusted then some e.batch else none
  | .starved => none
  | .drain => none

/-- END_OF_BATCH of the new record. -/
def Binding.endOfBatch : Binding → Bool
  | .valid e => e.endOfBatch
  | .faulty e _ => e.word1.outcome.trusted && e.endOfBatch
  | .starved => false
  | .drain => false

/-- SAMPLE_PULL of the new record. -/
def Binding.samplePull : Binding → Bool
  | .valid e => e.samplePull
  | .faulty _ _ => false
  | .starved => false
  | .drain => false

/-- VOID of the new record. -/
def Binding.void : Binding → Bool
  | .valid e => e.void
  | .faulty _ _ => false
  | .starved => false
  | .drain => false

/-- The stack target: a VALID order's override if it is not 0, else the lane default. -/
def Binding.target (b : Binding) (laneDefault : Half) : Half :=
  match b with
  | .valid e => if e.override = 0 then laneDefault else e.override
  | .faulty _ _ => laneDefault
  | .starved => laneDefault
  | .drain => laneDefault

/-- The trim: a VALID order's, else 0. -/
def Binding.trim : Binding → Byte
  | .valid e => e.trim
  | .faulty _ _ => 0
  | .starved => 0
  | .drain => 0

/-- The pitch used: a VALID order's, else the lane default (02 R27). -/
def Binding.pitch (b : Binding) (laneDefault : Half) : Half :=
  match b with
  | .valid e => e.pitch
  | .faulty _ _ => laneDefault
  | .starved => laneDefault
  | .drain => laneDefault

/-- The flags that the binding adds to those of the label start. -/
def Binding.flags (b : Binding) (f : LabelFlags) : LabelFlags :=
  match b with
  | .valid _ => f
  | .faulty _ c => { f with orderFault := some c }
  | .starved => { f with orderless := true }
  | .drain => { f with drain := true }

/-- The new record, with its pitch used and its four targets (02 R20 steps 1, 2 and 4, R28). -/
def newRecord (cfg : Settings) (l : Lane) (splice : Bool) (b : Binding) (t : LabelStart) : LabelRecord :=
  let trim := b.trim
  let cut := t.mark + wide cfg.dk + trimDistance trim
  { serial := b.serial, slot := b.entry.map (·.index), batch := b.batch,
    target := b.target (cfg.laneTarget.get l), trim := trim, endOfBatch := b.endOfBatch,
    samplePull := b.samplePull, void := b.void, origin := t.origin, mark := t.mark,
    pitch := b.pitch (cfg.lanePitch.get l),
    deadline := t.mark + wide cfg.dv, cut := cut, confirmLimit := cut + wide cfg.kc, gate := t.mark + wide cfg.dg,
    verdict := .none, defect := 0, closed := false,
    flags := b.flags { LabelFlags.empty with regFault := t.regFault, markMissing := t.markMissing, splice := splice },
    cutState := .waiting, due := Due.nothing }

/-- The address of a word of the slot that a ring index names (03 R39). -/
def MapEntry.slotAddress (e : MapEntry) (index : RingIndex) (k : Nat) : Nat :=
  e.base.toNat + Config.slotWords * (index.toNat % e.slots) + k

/-- One uncorrectable word of a bound entry re-offered and reported (09 R155). -/
def State.reofferWord (s : State) (l : Lane) (serial : Option Serial) (mark : WebPos) (a : Nat) (w : FetchedWord) :
    State :=
  match w.outcome with
  | .uncorrectable d =>
    ((s.offerUncorrectable (.fetch l) true a d).giveAt mark
      { code := .uncorrectable, lane := some l, serial := serial, address := some a,
        value := some (BitVec.ofNat 32 d.code) }).raiseClass .uncorrectable (some l) serial (some a)
  | .clean => s
  | .corrected _ => s
  | .blank => s

/-- The four words of a bound entry re-offered in word order (09 R155). -/
def State.reofferEntry (s : State) (l : Lane) (mark : WebPos) (serial : Option Serial) (e : WindowEntry) : State :=
  let ring := s.regions.orderRing.get l
  let s0 := s.reofferWord l serial mark (ring.slotAddress e.index 0) e.word0
  let s1 := s0.reofferWord l serial mark (ring.slotAddress e.index 1) e.word1
  let s2 := s1.reofferWord l serial mark (ring.slotAddress e.index 2) e.word2
  s2.reofferWord l serial mark (ring.slotAddress e.index 3) e.word3

/-- The events that binding raised (02 R20 step 7, R22, R23, 09 R155). -/
def State.bindingEvents (s : State) (l : Lane) (mark : WebPos) : Binding → State
  | .valid _ => s
  | .drain => s
  | .starved =>
    (s.giveAt mark { code := .orderStarved, lane := some l }).raiseClass .orderStarved (some l) none none
  | .faulty e c =>
    let serial := (Binding.faulty e c).serial
    let s1 := (s.giveAt mark
      { code := .orderFault, lane := some l, serial := serial, value := some (BitVec.ofNat 32 c.code) }).raiseClass
        .orderFault (some l) serial none
    if c = .check then s1.reofferEntry l mark serial e else s1

/-- Step 3 of 02 R20: the last bound serial set, the early verdict merged and stale entries evicted. -/
def State.bindSerial (s : State) (l : Lane) (r : LabelRecord) : State × LabelRecord :=
  match r.serial with
  | none => (s, r)
  | some n =>
    ((s.setLane l { s.lane l with lastBound := some n }).evictEarly l n, s.mergeEarly l n r)

/-- A label record created from a label start, with the answer to the tracker (02 R20). -/
def State.createRecord (s : State) (l : Lane) (t : LabelStart) : State × LabelRecord :=
  let b := (s.lane l).binding
  let s1 := s.setLane l { s.lane l with window := b.windowAfter (s.lane l).window }
  let p := s1.bindSerial l (newRecord s.settings l s.web.splice b t)
  let s2 := p.1.setLane l { p.1.lane l with queue := (p.1.lane l).queue ++ [p.2] }
  (s2.bindingEvents l t.mark b, p.2)

/-- The tracker's changes at the sequencer's answer (01 R9), with the consecutive-synthetic count. -/
def State.answerTracker (s : State) (l : Lane) (mark : WebPos) (pitch : Half) (synthetic : Nat) : State :=
  s.setLane l { s.lane l with tracker :=
    { tracked := some { lastMark := mark, pred := mark + wide pitch }, synthetic := synthetic, expiryDue := false } }

end Sys2Proof.Machine
end

