-- ==== Sys2Proof/Machine/Publication.lean ====
section
/-! DEFINITION. The part-owned words (12 section 12.2), status publication (11 R176, 12 R183) and the arbiter's
bookkeeping between steps (08 R138). -/

namespace Sys2Proof.Machine

/-- An optional serial as stored: zero when absent (12 R182). -/
def optSerial (x : Option Serial) : Word := x.getD 0

/-- A capture's status word without its detail field (offsets 0x0A0, 0x0A2). -/
def Capture.statusWord {δ : Type} (c : Capture δ) (detailField : δ → Word) : Word :=
  packBit 0 c.held |||
    match c.contents with
    | none => 0
    | some x =>
      packBit 1 true ||| packField 4 3 x.source.code ||| packField 8 2 x.source.laneNumber ||| detailField x.detail

/-- A capture's address word. -/
def Capture.addressWord {δ : Type} (c : Capture δ) : Word :=
  match c.contents with
  | none => 0
  | some x => packField 0 22 x.address

/-- The primary record's presence word (offset 0x0A9). -/
def primaryWord (p : Option PrimaryRecord) : Word :=
  match p with
  | none => 0
  | some x =>
    packBit 0 true ||| packField 4 4 x.cls.bit |||
      packBit 8 x.lane.isSome ||| packField 9 2 (x.lane.elim 0 Lane.number) |||
      packBit 11 x.serial.isSome ||| packBit 12 x.address.isSome

/-- A lane status word (12, "Lane status words"). -/
def LaneState.statusWord (x : LaneState) (k : Nat) : Word :=
  match k with
  | 0 =>
    packField 0 4 x.service.code ||| packField 4 4 x.service.causeCode ||| packBit 8 x.tracker.tracked.isSome |||
      packField 9 2 x.tracker.synthetic ||| packField 12 2 x.gate.code
  | 1 => x.tracker.tracked.elim 0 (·.lastMark)
  | 2 =>
    packField 0 8 x.queue.length ||| packField 8 8 x.orderedCount ||| packField 16 4 x.windowDepth |||
      packField 20 2 x.misses ||| packField 22 2 x.pendingConfirms.length
  | 3 => optSerial x.lastBound
  | 4 => packBit 0 x.lastBound.isSome ||| packBit 1 x.previousSerial.isSome
  | 5 => optSerial x.previousSerial
  | 6 => x.queue.head?.elim 0 (·.gate)
  | 7 =>
    packField 0 2 x.stacker.code ||| packField 2 1 x.stacker.trayCode ||| packBit 3 x.openStack.isSome |||
      packBit 4 x.parked.isSome ||| packField 8 4 x.carry.entries.length |||
      packField 16 16 (x.openStack.elim 0 (·.sequence.toNat))
  | 8 => x.openStack.elim 0 (fun k => packField 0 32 k.count)
  | _ => 0

/-- The lane and word of a lane status offset. -/
def laneOfStatus (off : Nat) : Lane := Lane.ofNumber ((off - 0x0D0) / 12)

/-- The value of a part-owned word as the part holds it (12 section 12.2). -/
def State.publishedWord (s : State) (off : Nat) : Word :=
  match off with
  | 0x000 => Config.partCode
  | 0x001 => Config.revision
  | 0x002 =>
    packField 0 2 s.engine.state.code ||| packField 4 2 (s.engine.cause.elim 0 HaltCause.code) |||
      packBit 8 s.engine.safe
  | 0x003 => s.web.position
  | 0x004 => packField 0 17 s.web.backlog
  | 0x005 => packBit 0 s.web.splice
  | 0x006 => packField 0 5 s.early.length ||| packField 8 3 s.writer.holding.length
  | 0x011 =>
    packField 0 8 s.engine.sequence.toNat ||| packField 8 8 s.engine.code.toNat |||
      packField 16 8 s.engine.result.code ||| packField 24 8 s.engine.detail.toNat
  | 0x024 =>
    packField 0 8 s.mem.sequence.toNat ||| packField 8 8 (s.mem.walk.elim 0 BitVec.toNat) |||
      packField 16 2 s.mem.state.code ||| packField 24 8 s.mem.result.code
  | 0x025 => packField 0 23 s.mem.progress
  | 0x026 => packField 0 23 s.mem.done
  | 0x027 => packField 0 23 s.mem.corrected
  | 0x028 => packField 0 23 s.mem.uncorrectable
  | 0x029 => s.mem.faultAddress.elim 0 (fun a => packField 0 22 a ||| packBit 31 true)
  | 0x02A =>
    s.mem.lastRefusal.elim 0 (fun p =>
      packField 0 8 p.1.toNat ||| packField 8 8 p.2.code ||| packBit 31 true)
  | 0x02B =>
    packField 0 3 s.mem.probe.outcome.probeCode ||| packField 8 6 s.mem.probe.bit |||
      packField 16 8 s.mem.probe.check.toNat
  | 0x02C => s.mem.probe.data
  | 0x081 => packField 0 16 (s.lane .l0).fetch.toNat
  | 0x082 => packField 0 16 (s.lane .l0).release.toNat
  | 0x085 => packField 0 16 (s.lane .l1).fetch.toNat
  | 0x086 => packField 0 16 (s.lane .l1).release.toNat
  | 0x089 => packField 0 16 (s.lane .l2).fetch.toNat
  | 0x08A => packField 0 16 (s.lane .l2).release.toNat
  | 0x08D => packField 0 16 (s.lane .l3).fetch.toNat
  | 0x08E => packField 0 16 (s.lane .l3).release.toNat
  | 0x090 => packField 0 16 s.writer.stackWrite.toNat
  | 0x092 => packField 0 16 s.writer.eventWrite.toNat
  | 0x0A0 => s.capture.correctable.statusWord (fun b => packField 16 6 b)
  | 0x0A1 => s.capture.correctable.addressWord
  | 0x0A2 => s.capture.uncorrectable.statusWord (fun d => packField 16 2 d.code)
  | 0x0A3 => s.capture.uncorrectable.addressWord
  | 0x0A4 => packField 0 16 s.capture.count
  | 0x0A5 => packField 0 13 s.summary.toNat
  | 0x0A6 => s.primary.elim 0 (fun p => optSerial p.serial)
  | 0x0A7 => s.primary.elim 0 (fun p => p.address.elim 0 (BitVec.ofNat 32))
  | 0x0A8 => s.primary.elim 0 (·.position)
  | 0x0A9 => primaryWord s.primary
  | _ => (s.lane (laneOfStatus off)).statusWord ((off - 0x0D0) % 12)

/-- The offsets of the part-owned words that the status writes keep, identity words aside, in address order
(11 R176, 12; lane offsets +9 to +11: log 16). -/
def publishedOffsets : List Nat :=
  [0x002, 0x003, 0x004, 0x005, 0x006, 0x011] ++
  [0x024, 0x025, 0x026, 0x027, 0x028, 0x029, 0x02A, 0x02B, 0x02C] ++
  [0x081, 0x082, 0x085, 0x086, 0x089, 0x08A, 0x08D, 0x08E, 0x090, 0x092] ++
  [0x0A0, 0x0A1, 0x0A2, 0x0A3, 0x0A4, 0x0A5, 0x0A6, 0x0A7, 0x0A8, 0x0A9] ++
  (List.range 48).map (· + 0x0D0)

/-- The stack and event write index words, which the record writer stores itself at the end of a publication. -/
def indexOffsets : List Nat := [0x090, 0x092]

/-- The publication set replaced. -/
def State.setPublication (s : State) (p : List Nat) : State := { s with writer := { s.writer with publication := p } }

/-- The words whose value differs between two states, in address order, those of `except` aside. -/
def changedWords (pre post : State) (except : List Nat) : List Nat :=
  publishedOffsets.filter (fun o => pre.publishedWord o != post.publishedWord o && !except.contains o)

/-- The words a step changed placed in the publication set, each entering only if it is not there (11 R176,
12 R183, log 9). -/
def State.publishExcept (pre post : State) (except : List Nat) : State :=
  post.setPublication (post.writer.publication ++
    (changedWords pre post except).filter (fun o => !post.writer.publication.contains o))

/-! ## The requests of the internal requesters -/

/-- A lane has a fetch read to make. -/
def LaneState.fetchPending (x : LaneState) : Bool :=
  x.reservation.any (fun r => decide (r.words.length < Config.slotWords))

/-- A ring is mapped and has room (06 R105, R106, 11 R179). -/
def MapEntry.takes (e : MapEntry) (write read : RingIndex) : Bool :=
  e.mapped && decide ((write - read).toNat < e.slots)

/-- There is a stack ring word to store: a record is held, and only its index word is left, or the ring is mapped and
has room (06 R106, log 11). -/
def State.stackWaiting (s : State) : Bool :=
  !s.writer.holding.isEmpty &&
    (decide (Config.stackRecordWords ≤ s.writer.stackWords) ||
      s.regions.stackRing.takes s.writer.stackWrite s.writer.stackRead)

/-- There is an event ring word to store: an event is queued, and only its index word is left, or the ring is mapped and
has room (11 R179, log 11). -/
def State.eventWaiting (s : State) : Bool :=
  !s.writer.events.isEmpty &&
    (decide (Config.eventRecordWords ≤ s.writer.eventWords) ||
      s.regions.eventRing.takes s.writer.eventWrite s.writer.eventRead)

/-- A kind of RECORD work is waiting. -/
def State.recordWaiting (s : State) : RecordKind → Bool
  | .stack => s.stackWaiting
  | .event => s.eventWaiting
  | .status => !s.writer.publication.isEmpty

/-- The kinds of RECORD work in rotation after the one served last (11 R176). -/
def RecordKind.rotationAfter : RecordKind → List RecordKind
  | .stack => [.event, .status, .stack]
  | .event => [.status, .stack, .event]
  | .status => [.stack, .event, .status]

/-- The kind of RECORD work to serve next (11 R176, log 8). -/
def State.nextRecord (s : State) : Option RecordKind := (s.writer.lastKind.rotationAfter).find? s.recordWaiting

/-- A kind of MEMCMD work is waiting (09 R152). -/
def State.memWaiting (s : State) : MemKind → Bool
  | .scrub => !s.scrubQueue.isEmpty
  | .walk => s.mem.state == .busy

/-- The kind of work that the memory command unit presents when it presents its next request: the one not served last
when both wait (09 R152). -/
def State.presentedMem (s : State) : Option MemKind :=
  (match s.mem.lastKind with
    | .scrub => [MemKind.walk, MemKind.scrub]
    | .walk => [MemKind.scrub, MemKind.walk]).find? s.memWaiting

/-- The kind of MEMCMD work to serve next: the one presented, while it waits; else the next to be presented (08 section
8.6: one request at a time; 09 R152). -/
def State.nextMem (s : State) : Option MemKind := (s.arbiter.memRequest.filter s.memWaiting).or s.presentedMem

/-- An internal requester has a request pending. -/
def State.requesting (s : State) : Internal → Bool
  | .fetch => Lane.inOrder.any (fun l => (s.lane l).fetchPending)
  | .record => s.nextRecord.isSome
  | .memcmd => s.nextMem.isSome

/-- A requester's bypass count. -/
def Arbiter.bypass (x : Arbiter) : Internal → Nat
  | .fetch => x.fetchBypass
  | .record => x.recordBypass
  | .memcmd => x.memcmdBypass

/-- The requests as they stand: a requester with none pending has bypass count 0 (08 R138), and the memory command unit
presents its next request, a request whose work no longer waits being withdrawn (09 R152, 10 R170, R171). -/
def State.settleRequests (s : State) : State :=
  { s with arbiter := { s.arbiter with
      fetchBypass := if s.requesting .fetch then s.arbiter.fetchBypass else 0
      recordBypass := if s.requesting .record then s.arbiter.recordBypass else 0
      memcmdBypass := if s.requesting .memcmd then s.arbiter.memcmdBypass else 0
      memRequest := s.nextMem } }

/-- The port back to FREE with the lock flag clear (08 R138, R140). -/
def State.freePort (s : State) : State := { s with arbiter := { s.arbiter with grant := none, lock := false } }

/-- The end of a step: changed words placed in the publication set, the port FREE, the requests settled. -/
def State.commitExcept (pre post : State) (except : List Nat) : State :=
  (State.publishExcept pre post except).freePort.settleRequests

/-- The end of a step with no word excepted. -/
def State.commit (pre post : State) : State := State.commitExcept pre post []

end Sys2Proof.Machine
end

