-- ==== Sys2Proof/Machine/WebPosition.lean ====
section
/-! DEFINITION. The web family (01): encoder transitions, position arrivals, SPLICE, and the marks and mark-window
expiries of the mark trackers. -/

namespace Sys2Proof.Machine

/-- A block's step on its own state, ended by the publication of what it changed (11 R176). -/
def State.act (s : State) (f : State → State) : State := State.commit s (f s)

/-! ## Position arrivals (01 R5) -/

/-- The targets of a record that a position reaches, marked as reached. -/
def LabelRecord.reach (r : LabelRecord) (p : WebPos) : LabelRecord :=
  { r with due :=
    { deadline := r.due.deadline || r.deadline == p
      cut := r.due.cut || r.cut == p
      confirmLimit := r.due.confirmLimit || r.confirmLimit == p
      gate := r.due.gate || r.gate == p } }

/-- The position of a tracker's expiry target (01 R5). -/
def Tracked.expiryAt (t : Tracked) (w : Half) : WebPos := t.pred + wide w

/-- A tracker whose expiry target, pending while the lane is in service, a position reaches. -/
def Tracker.reach (k : Tracker) (serving : Bool) (w : Half) (p : WebPos) : Tracker :=
  { k with expiryDue := k.expiryDue || (serving && k.tracked.any (fun t => t.expiryAt w == p)) }

/-- The lane's targets that the web position reaches. -/
def State.reachLane (s : State) (l : Lane) : State :=
  let x := s.lane l
  s.setLane l { x with
    queue := x.queue.map (·.reach s.web.position)
    tracker := x.tracker.reach (s.inService l) s.settings.w s.web.position }

/-- A forward tick (01 R3). -/
def State.forwardTick (s : State) : State :=
  if s.web.backlog = 0 then
    ({ s with web := { s.web with position := s.web.position + 1 } }).forLanes State.reachLane
  else { s with web := { s.web with backlog := s.web.backlog - 1 } }

/-- A reverse tick (01 R4). -/
def State.reverseTick (s : State) : State :=
  let n := raiseHolding Config.backlogHold s.web.backlog
  let s1 : State := { s with web := { s.web with backlog := n } }
  if s.settings.reverseLimit.toNat < n then s1.reverseLimitCondition else s1

/-- The next pair in the forward order 00, 10, 11, 01 (01 section 1.1). -/
def nextPair : Bool × Bool → Bool × Bool
  | (false, false) => (true, false)
  | (true, false) => (true, true)
  | (true, true) => (false, true)
  | (false, true) => (false, false)

/-- The effect of a transition to a new pair of levels (01 R2); a pair equal to the reference is no transition
(log 23). -/
def State.encoderTransition (s : State) (a b : Bool) : State :=
  let reference := (s.web.refA, s.web.refB)
  let s1 : State := { s with web := { s.web with refA := a, refB := b } }
  if (a, b) = reference then s
  else if (a, b) = nextPair reference then s1.forwardTick
  else if nextPair (a, b) = reference then s1.reverseTick
  else s1.give { code := .encoderDoubleStep }

/-- ENCODER_TRANSITION (01 R2). -/
def execEncoderTransition (a b : Bool) (s : State) : Host.Outcome State Fault Refusal :=
  .next (s.act (·.encoderTransition a b))

/-! ## Splices (01 section 1.2) -/

/-- A record whose mark position plus pitch used is forward of `p` flagged SPLICE (02 R29). -/
def LabelRecord.splicedAt (r : LabelRecord) (p : WebPos) : LabelRecord :=
  if isForward (r.mark + wide r.pitch) p then r.flagSplice else r

/-- The splice announcement to a lane (02 R29). -/
def State.announceSplice (s : State) (l : Lane) : State :=
  s.setLane l { s.lane l with queue := (s.lane l).queue.map (·.splicedAt s.web.position) }

/-- A rise of SPLICE (01 R6). -/
def State.spliceRise (s : State) : State :=
  if s.web.splice then s
  else
    (({ s with web := { s.web with splice := true } }).forLanes State.announceSplice).give { code := .spliceStart }

/-- SPLICE_START (01 R6). -/
def execSpliceStart (s : State) : Host.Outcome State Fault Refusal := .next (s.act State.spliceRise)

/-- A fall of SPLICE (01 R7). -/
def State.spliceFall (s : State) : State := { s with web := { s.web with splice := false } }

/-- SPLICE_FALL (01 R7). -/
def execSpliceFall (s : State) : Host.Outcome State Fault Refusal := .next (s.act State.spliceFall)

/-! ## Marks (01 section 1.3) -/

/-- The first mark of a lane in SEEKING (01 R12). -/
def State.acceptFirst (s : State) (l : Lane) : State :=
  let p := s.createRecord l { origin := .sensed, mark := s.web.position, regFault := false, markMissing := false }
  p.1.answerTracker l s.web.position p.2.pitch 0

/-- A mark is off-register: the lower edge of the window is forward of it (01 R13). -/
def Tracked.offRegister (t : Tracked) (w : Half) (m : WebPos) : Bool := isForward (t.pred - wide w) m

/-- A mark accepted in TRACKING, with OFF_REGISTER when it lies before the window (01 R13). -/
def State.acceptTracked (s : State) (l : Lane) (t : Tracked) : State :=
  let m := s.web.position
  let off := t.offRegister s.settings.w m
  let p := s.createRecord l { origin := .sensed, mark := m, regFault := off, markMissing := false }
  let s1 := p.1.answerTracker l m p.2.pitch 0
  if off then
    s1.giveAt m { code := .offRegister, lane := some l, serial := p.2.serial, value := some (m - t.pred) }
  else s1

/-- A mark event of a lane in service with no backlog (01 R11 to R13). -/
def State.measureMark (s : State) (l : Lane) : State :=
  match (s.lane l).tracker.tracked with
  | none => s.acceptFirst l
  | some t =>
    let d := s.web.position - t.lastMark
    if d.toNat < s.settings.pmin.toNat then
      s.give { code := .spuriousMark, lane := some l, value := some d }
    else s.acceptTracked l t

/-- A pulse on a lane's MARK input (01 R10). -/
def State.markPulse (s : State) (l : Lane) : State :=
  if !s.inService l then s
  else if s.web.backlog ≠ 0 then
    s.give { code := .markBacklog, lane := some l, value := some (BitVec.ofNat 32 s.web.backlog) }
  else s.measureMark l

/-- MARK_EVENT (01 R10). -/
def execMarkEvent (l : Lane) (s : State) : Host.Outcome State Fault Refusal := .next (s.act (·.markPulse l))

/-- The reached expiry of a lane no longer waiting to be taken. -/
def State.dropExpiry (s : State) (l : Lane) : State :=
  s.setLane l { s.lane l with tracker := { (s.lane l).tracker with expiryDue := false } }

/-- A mark-window expiry (01 R14 steps 1 to 5), with the lane fault of a third synthetic label (01 R15). -/
def State.expire (s : State) (l : Lane) (t : Tracked) : State :=
  let n := (s.lane l).tracker.synthetic + 1
  let p := s.createRecord l { origin := .synthetic, mark := t.pred, regFault := false, markMissing := true }
  let s1 := p.1.answerTracker l t.pred p.2.pitch n
  let s2 := s1.giveAt t.pred
    { code := .markMissing, lane := some l, serial := p.2.serial, value := some (BitVec.ofNat 32 n) }
  if n = 3 then s2.laneFault l .trackingLost else s2

/-- The lane's reached expiry taken; void where none is waiting or the lane is not in service (01 R14, R16, log 4). -/
def State.takeExpiry (s : State) (l : Lane) : State :=
  if !(s.lane l).tracker.expiryDue then s
  else if !s.inService l then s.dropExpiry l
  else match (s.lane l).tracker.tracked with
    | none => s.dropExpiry l
    | some t => s.expire l t

/-- MARK_WINDOW_EXPIRY (01 R14). -/
def execMarkWindowExpiry (l : Lane) (s : State) : Host.Outcome State Fault Refusal := .next (s.act (·.takeExpiry l))

end Sys2Proof.Machine
end

