-- ==== Sys2Proof/Machine/Actuators.lean ====
section
/-! DEFINITION. The family of a label's targets and actuators: deadlines (04 R71), knives and gates (05), the gate
event (02 R32) and the stacker's lines (06). -/

namespace Sys2Proof.Machine

/-- A record's marks of reached targets replaced. -/
def LabelRecord.setDue (r : LabelRecord) (d : Due) : LabelRecord := { r with due := d }

/-- A lane's queue replaced. -/
def State.setQueue (s : State) (l : Lane) (q : List LabelRecord) : State :=
  s.setLane l { s.lane l with queue := q }

/-! ## Deadlines (04 R71) -/

/-- The verdict the undecided policy gives. -/
def UndecidedPolicy.verdict : UndecidedPolicy → Verdict
  | .reject => .reject
  | .pass => .good

/-- A record at its deadline event: the policy's verdict if it has none, and CLOSED. -/
def LabelRecord.close (r : LabelRecord) (p : UndecidedPolicy) : LabelRecord :=
  let r1 := { r with closed := true, due := { r.due with deadline := false } }
  if r.verdict = .none then
    { r1 with verdict := p.verdict, defect := 0, flags := { r.flags with undecided := true } }
  else r1

/-- The deadline event of the lane's oldest record with its deadline reached; none waiting has no effect (log 4). -/
def State.takeDeadline (s : State) (l : Lane) : State :=
  match (s.lane l).queue.find? (·.due.deadline) with
  | none => s
  | some r =>
    let policy := s.settings.undecidedPolicy
    let s1 := s.setQueue l (updateFirst (·.due.deadline) (·.close policy) (s.lane l).queue)
    if r.verdict = .none then
      s1.give { code := .verdictUndecided, lane := some l, serial := r.serial,
                value := some (BitVec.ofNat 32 policy.verdict.code) }
    else s1

/-- DEADLINE_EVENT (04 R71). -/
def execDeadlineEvent (l : Lane) (s : State) : Host.Outcome State Fault Refusal := .next (s.act (·.takeDeadline l))

/-! ## Knives (05 section 5.1) -/

/-- A cut of the lane is permitted (05 R76). -/
def State.cutPermitted (s : State) (l : Lane) : Bool :=
  s.engineGoing &&
    ((s.lane l).service == .active || (s.lane l).service == .draining || (s.lane l).service == .off) &&
    !s.engine.safe

/-- A record at its cut event: FIRED, or INHIBITED with LANE_FAULT where the lane is FAULTED (05 R76). -/
def LabelRecord.atCut (r : LabelRecord) (permitted faulted : Bool) : LabelRecord :=
  let r1 := { r with due := { r.due with cut := false } }
  if r.cutState ≠ .waiting then r1
  else if permitted then { r1 with cutState := .fired }
  else { r1 with cutState := .inhibited, flags := { r.flags with laneFault := r.flags.laneFault || faulted } }

/-- The cut event of the lane's oldest record with its cut position reached (05 R76, R77). -/
def State.takeCut (s : State) (l : Lane) : State :=
  match (s.lane l).queue.find? (·.due.cut) with
  | none => s
  | some r =>
    let permitted := s.cutPermitted l
    let faulted := (s.lane l).service.isFaulted
    s.setLane l { s.lane l with
      queue := updateFirst (·.due.cut) (·.atCut permitted faulted) (s.lane l).queue
      knifePulse := (s.lane l).knifePulse || (permitted && r.cutState == .waiting) }

/-- CUT_EVENT (05 R76). -/
def execCutEvent (l : Lane) (s : State) : Host.Outcome State Fault Refusal := .next (s.act (·.takeCut l))

/-- The KNIFE output idle (05 R77). -/
def State.endKnifePulse (s : State) (l : Lane) : State := s.setLane l { s.lane l with knifePulse := false }

/-- KNIFE_PULSE_END (05 R77). -/
def execKnifePulseEnd (l : Lane) (s : State) : Host.Outcome State Fault Refusal :=
  .next (s.act (·.endKnifePulse l))

/-- A pulse on a lane's KDONE input (05 R78). -/
def State.kdonePulse (s : State) (l : Lane) : State :=
  let fired : LabelRecord → Bool := fun r => r.cutState == .fired
  if (s.lane l).pendingConfirms.isEmpty then s.give { code := .kdoneStray, lane := some l }
  else s.setLane l { s.lane l with
    queue := updateFirst fired (fun r => { r with cutState := .confirmed }) (s.lane l).queue
    misses := 0 }

/-- KDONE (05 R78). -/
def execKdone (l : Lane) (s : State) : Host.Outcome State Fault Refusal := .next (s.act (·.kdonePulse l))

/-- A record missed at its confirm limit: MISSED and UNCUT (05 R79). -/
def LabelRecord.miss (r : LabelRecord) : LabelRecord :=
  { r with cutState := .missed, flags := { r.flags with uncut := true } }

/-- The record's confirm limit no longer waiting to be taken. -/
def LabelRecord.dropConfirm (r : LabelRecord) : LabelRecord := r.setDue { r.due with confirmLimit := false }

/-- The queue after the confirm-limit event of its first record with that target reached: a FIRED record is missed and
its follower flagged JOINED (05 R79, 02 R31). -/
def confirmQueue : List LabelRecord → List LabelRecord
  | [] => []
  | r :: rs =>
    if r.due.confirmLimit then
      if r.cutState = .fired then
        r.dropConfirm.miss :: (match rs with
          | [] => []
          | f :: fs => f.flagJoined :: fs)
      else r.dropConfirm :: rs
    else r :: confirmQueue rs

/-- The confirm-limit event of the lane's oldest record with that target reached (05 R79, R80). A miss with the count
already at 2 in a lane that is not FAULTED raises KNIFE again: the model's choice (log 31). -/
def State.takeConfirmLimit (s : State) (l : Lane) : State :=
  match (s.lane l).queue.find? (·.due.confirmLimit) with
  | none => s
  | some r =>
    let s1 := s.setQueue l (confirmQueue (s.lane l).queue)
    if r.cutState = .fired then
      let n := raiseHolding 2 (s.lane l).misses
      let s2 := s1.setLane l { s1.lane l with misses := n }
      let s3 := if n = 2 ∧ (s.lane l).service.isFaulted = false then s2.laneFault l .knife else s2
      s3.give { code := .knifeMissed, lane := some l, serial := r.serial, value := some (BitVec.ofNat 32 n) }
    else s1

/-- CONFIRM_LIMIT_EVENT (05 R79). -/
def execConfirmLimitEvent (l : Lane) (s : State) : Host.Outcome State Fault Refusal :=
  .next (s.act (·.takeConfirmLimit l))

/-! ## Gates (05 section 5.2) and the gate event (02 R32) -/

/-- A record's fate (05 R83): STACK, or REJECT or SAMPLE with the missing reason. -/
inductive Fate where
  | stack
  | reject (why : MissingReason)
  | sample
  deriving DecidableEq, Repr

/-- The gate controller's decision: the tests of 05 R83 in their order. -/
def LabelRecord.fate (r : LabelRecord) : Fate :=
  if r.flags.anyFault then .reject .fault
  else if r.void then .reject .void
  else if r.verdict = .reject then .reject .reject
  else if r.verdict = .sample ∨ r.samplePull = true then .sample
  else .stack

/-- The item that a gated record hands over, with a missing reason (06 R92). -/
def LabelRecord.item (r : LabelRecord) (why : MissingReason) : MissingItem :=
  { serial := r.serial, reason := why, defect := r.defect, undecided := r.flags.undecided }

/-- The GATE output set (05 R85). -/
def State.setGate (s : State) (l : Lane) (g : Gate) : State := s.setLane l { s.lane l with gate := g }

/-- The batch test of 06 R93: a stack is open and its batch differs from the label's. -/
def LaneState.batchDiffers (x : LaneState) (batch : Option Half) : Bool :=
  x.openStack.any (fun k => some k.batch != batch)

/-- A STACK label taken by the assembler: delivered or spilled, with GATE set from the answer (06 R93, R94,
05 R85). -/
def State.takeStackLabel (s : State) (l : Lane) (r : LabelRecord) : State :=
  match (s.lane l).stacker with
  | .filling t =>
    if (s.lane l).batchDiffers r.batch then
      ((s.closeAndFault l .batchChange).spill l (r.item .spill)).setGate l .reject
    else
      (s.setLane l ((s.lane l).deliver t (r.batch.getD 0) r.target r.serial)).setGate l .stack
  | .notReady => (s.spill l (r.item .spill)).setGate l .reject
  | .transferring _ => (s.spill l (r.item .spill)).setGate l .reject

/-- The item of a gate event taken by the assembler (06 R92 steps 1 and 2). -/
def State.takeItem (s : State) (l : Lane) (r : LabelRecord) : State :=
  match r.fate with
  | .stack => s.takeStackLabel l r
  | .reject why => (s.listMissing l (r.item why)).setGate l .reject
  | .sample => (s.listMissing l (r.item .sample)).setGate l .sample

/-- The close tests after a gate event's item (06 R97). -/
def State.testClose (s : State) (l : Lane) (r : LabelRecord) : State :=
  if r.endOfBatch then s.closeAndFault l .batchEnd
  else if (s.lane l).openStack.any (fun k => k.count == k.target.toNat) then s.closeAndFault l .count
  else s

/-- Step 5 of 02 R32: drain completion or run-out complete, where these now hold. -/
def State.afterGate (s : State) (l : Lane) : State :=
  if (s.lane l).service = .draining ∧ (s.lane l).orderedCount = 0 then s.drainComplete l
  else if (s.lane l).service.isFaulted = true ∧ (s.lane l).queue.isEmpty = true then s.runOutComplete l
  else s

/-- The lane with its head record gone and its slot released (02 R32 steps 2 and 3). -/
def LaneState.withoutHead (x : LaneState) (r : LabelRecord) : LaneState :=
  { x.releaseFor r with queue := x.queue.tail, departed := x.departed + 1 }

/-- The gate event of the head record, where its gate position is reached (02 R32). -/
def State.takeGate (s : State) (l : Lane) : State :=
  match (s.lane l).queue with
  | [] => s
  | r :: _ =>
    if r.due.gate then
      (((s.setLane l ((s.lane l).withoutHead r)).takeItem l r).testClose l r).afterGate l
    else s

/-- GATE_EVENT (02 R32). -/
def execGateEvent (l : Lane) (s : State) : Host.Outcome State Fault Refusal := .next (s.act (·.takeGate l))

/-! ## The stacker's lines (06 section 6.1) -/

/-- A pulse on a lane's TRAY-READY input (06 R89). -/
def State.trayReadyPulse (s : State) (l : Lane) : State :=
  match (s.lane l).stacker with
  | .notReady => s.setLane l { s.lane l with stacker := .filling .a }
  | .transferring t => s.setLane l { s.lane l with stacker := .filling t.other }
  | .filling _ => s.give { code := .trayReadyStray, lane := some l }

/-- TRAY_READY (06 R89). -/
def execTrayReady (l : Lane) (s : State) : Host.Outcome State Fault Refusal := .next (s.act (·.trayReadyPulse l))

/-- The TRAY output idle (06 R90). -/
def State.endTrayPulse (s : State) (l : Lane) : State := s.setLane l { s.lane l with trayPulse := false }

/-- TRAY_PULSE_END (06 R90). -/
def execTrayPulseEnd (l : Lane) (s : State) : Host.Outcome State Fault Refusal := .next (s.act (·.endTrayPulse l))

/-! ## SAFE (07 R109, R117) -/

/-- A rise of SAFE: the level taken, and a halt with cause SAFETY (07 R117). -/
def State.safeRise (s : State) : State :=
  if s.engine.safe then s
  else ({ s with engine := { s.engine with safe := true } }).takeHalt .safety

/-- SAFE_RISE (07 R117). -/
def execSafeRise (s : State) : Host.Outcome State Fault Refusal := .next (s.act State.safeRise)

/-- A fall of SAFE: the level alone (07 R117). -/
def State.safeFall (s : State) : State := { s with engine := { s.engine with safe := false } }

/-- SAFE_FALL (07 R109). -/
def execSafeFall (s : State) : Host.Outcome State Fault Refusal := .next (s.act State.safeFall)

end Sys2Proof.Machine
end

