-- ==== Sys2Proof/Machine/Grants.lean ====
section
/-! DEFINITION. The arbiter's choice (08 R138, R139) and the work of the internal requesters at a grant: order fetches
(03 section 3.3), record words (06 section 6.5, 11 sections 11.3 and 11.5), scrubs (09 R152) and walk words (10). -/

namespace Sys2Proof.Machine

/-! ## The arbiter's choice (08 R138) -/

/-- The internal requesters in rotation after the one served last. -/
def Internal.rotationAfter : Internal → List Internal
  | .fetch => [.record, .memcmd, .fetch]
  | .record => [.memcmd, .fetch, .record]
  | .memcmd => [.fetch, .record, .memcmd]

/-- The port can make a grant: it is FREE, not locked, and the start-up image is written (08 R138, R141). -/
def State.portReady (s : State) : Bool :=
  s.arbiter.grant == none && !s.arbiter.lock && !s.arbiter.imageWriting

/-- The internal requester that goes before HOST: the first in rotation with a request pending and its bypass count at
the limit (08 R138, choice 1). -/
def State.owed (s : State) : Option Internal :=
  s.arbiter.lastServed.rotationAfter.find?
    (fun r => s.requesting r && decide (Config.bypassLimit ≤ s.arbiter.bypass r))

/-- The internal requester granted when HOST has no request pending (08 R138, choices 1 and 3). -/
def State.internalChoice (s : State) : Option Internal :=
  s.owed.or (s.arbiter.lastServed.rotationAfter.find? s.requesting)

/-- The requester is the one to be granted now. -/
def State.inTurn (s : State) (r : Internal) : Bool := s.portReady && s.internalChoice == some r

/-- A requester's bypass count set to 0 at its grant. -/
def Arbiter.clearBypass (x : Arbiter) : Internal → Arbiter
  | .fetch => { x with fetchBypass := 0 }
  | .record => { x with recordBypass := 0 }
  | .memcmd => { x with memcmdBypass := 0 }

/-- The grant made to an internal requester (08 R138); the memory command unit's request ends with its grant. -/
def State.grantInternal (s : State) (r : Internal) : State :=
  { s with arbiter := { s.arbiter.clearBypass r with
      grant := some (.part r)
      lastServed := r
      memRequest := if r = .memcmd then none else s.arbiter.memRequest } }

/-- The grant made to HOST: the bypass count of every internal requester with a request pending rises (08 R138). -/
def State.grantHost (s : State) : State :=
  let up (r : Internal) (n : Nat) : Nat := if s.requesting r then raiseHolding Config.bypassLimit n else n
  { s with arbiter := { s.arbiter with
      grant := some .host
      fetchBypass := up .fetch s.arbiter.fetchBypass
      recordBypass := up .record s.arbiter.recordBypass
      memcmdBypass := up .memcmd s.arbiter.memcmdBypass } }

/-- The lock flag set at the read of a locked sequence (08 R140). -/
def State.lockPort (s : State) : State := { s with arbiter := { s.arbiter with lock := true } }

/-! ## Fetching (03 section 3.3) -/

/-- The conditions of a fetch start (03 R46). -/
def LaneState.canFetch (x : LaneState) : Bool :=
  x.service == .active && decide (x.windowDepth < Config.windowPositions) && x.reservation.isNone &&
    x.put != x.fetch

/-- A fetch begun where its conditions hold (03 R46). -/
def State.startFetch (s : State) (l : Lane) : State :=
  let x := s.lane l
  if x.canFetch then
    s.setLane l { x with
      reservation := some { index := x.fetch, before := x.previousSerial, words := [] }
      fetch := x.fetch + 1 }
  else s

/-- FETCH_START (03 R46). -/
def execFetchStart (l : Lane) (s : State) : Host.Outcome State Fault Refusal := .next (s.act (·.startFetch l))

/-- The reservation turned into a window entry once its four words are read (03 R48, R49). -/
def LaneState.completeFetch (x : LaneState) (r : Reservation) (pmin : Half) : LaneState :=
  match r.words with
  | [w0, w1, w2, w3] =>
    let e : WindowEntry :=
      { index := r.index, word0 := w0, word1 := w1, word2 := w2, word3 := w3, before := r.before, failed := none }
    { x with
      window := x.window ++ [{ e with failed := e.firstFailure x.previousSerial pmin }]
      reservation := none
      previousSerial := if w0.outcome.trusted then some w0.data else x.previousSerial }
  | _ => { x with reservation := some r }

/-- What a fetch read's outcome reports (03 R47, 09 R151, R153). -/
def State.reportFetch (s : State) (l : Lane) (a : Nat) : ReadOutcome → State
  | .clean => s
  | .blank => s
  | .corrected b => (s.detectCorrectable (.fetch l) a b).offerScrub a
  | .uncorrectable d => s.offerUncorrectable (.fetch l) false a d

/-- The lane whose fetch read is granted next (08 R139). -/
def State.fetchLane (s : State) : Option Lane :=
  s.arbiter.lastLane.rotationAfter.find? (fun l => (s.lane l).fetchPending)

/-- One word of a lane's reservation read (03 R47). -/
def State.readSlotWord (s : State) (l : Lane) (r : Reservation) : State :=
  let a := (s.regions.orderRing.get l).slotAddress r.index r.words.length
  let o := s.readOutcome a
  let r1 : Reservation := { r with words := r.words ++ [{ outcome := o, data := s.readData a }] }
  let s1 := s.reportFetch l a o
  s1.setLane l ((s1.lane l).completeFetch r1 s.settings.pmin)

/-- The work of a FETCH grant. -/
def State.fetchWork (s : State) : State :=
  match s.fetchLane with
  | none => s
  | some l =>
    match (s.lane l).reservation with
    | none => s
    | some r => ({ s with arbiter := { s.arbiter with lastLane := l } }).readSlotWord l r

/-! ## Record words (12 sections 12.5 to 12.7) -/

/-- A missing entry's second word. -/
def MissingEntry.reasonWord (e : MissingEntry) : Word :=
  packField 0 4 e.reason.code ||| packField 4 4 e.defect.toNat ||| packBit 8 e.undecided

/-- Word `k` of a stack record (12 section 12.5). -/
def StackRecord.word (r : StackRecord) (k : Nat) : Word :=
  match k with
  | 0 =>
    packField 0 2 r.lane.number ||| packBit 2 r.tray.isSome ||| packField 3 1 (r.tray.elim 0 Tray.code) |||
      packField 4 4 r.reason.code ||| packBit 8 r.batch.isSome ||| packBit 9 r.first.isSome |||
      packField 16 16 r.sequence.toNat
  | 1 => packField 0 16 (r.batch.elim 0 BitVec.toNat) ||| packField 16 16 r.count
  | 2 => optSerial r.first
  | 3 => optSerial r.last
  | 4 => packField 0 4 r.short.entries.length ||| packField 16 16 r.short.overflow
  | 5 => packField 0 16 r.short.unordered
  | 6 => 0
  | 7 => 0
  | k =>
    match r.short.entries[(k - 8) / 2]? with
    | none => 0
    | some e => if k % 2 = 0 then e.serial else e.reasonWord

/-- The detail bits that word 2 of an UNCORRECTABLE event carries (12 section 12.6). -/
def Event.detailBits (e : Event) : Word :=
  if e.code = .uncorrectable then packField 22 2 (e.value.elim 0 BitVec.toNat) else 0

/-- Word `k` of an event record (12 section 12.6). -/
def Event.word (e : Event) (k : Nat) : Word :=
  match k with
  | 0 =>
    packField 0 16 e.sequence.toNat ||| packField 16 8 e.code.code ||| packField 24 2 e.code.severity.code |||
      packField 26 2 (e.lane.elim 0 Lane.number) ||| packBit 28 e.lane.isSome ||| packBit 29 e.serial.isSome |||
      packBit 30 e.address.isSome
  | 1 =>
    match e.serial, e.address with
    | some n, _ => n
    | none, some _ => e.value.getD 0
    | none, none => 0
  | 2 =>
    match e.address with
    | some a => packField 0 22 a ||| e.detailBits
    | none => e.value.getD 0
  | 3 => e.position
  | _ => 0

/-- The address of word `k` of the record slot a write index names. -/
def MapEntry.recordAddress (e : MapEntry) (words : Nat) (index : RingIndex) (k : Nat) : Nat :=
  e.base.toNat + words * (index.toNat % e.slots) + k

/-- The kind of RECORD work served now is remembered (11 R176). -/
def State.servedRecord (s : State) (k : RecordKind) : State := { s with writer := { s.writer with lastKind := k } }

/-- A word of the head stack record stored; after the last the write index advances (06 R106, log 10). It is stored at its
slot address whatever the class of that address: the model's choice (log 35; beyond the last address: log 25). -/
def State.storeStackWord (s : State) (r : StackRecord) : State :=
  let k := s.writer.stackWords
  let s1 := s.storeWord (s.regions.stackRing.recordAddress Config.stackRecordWords s.writer.stackWrite k) (r.word k)
  { s1 with writer := { s1.writer with
      stackWords := k + 1
      stackWrite := if k + 1 = Config.stackRecordWords then s.writer.stackWrite + 1 else s.writer.stackWrite } }

/-- The labels a stack record accounts for (06 R101). -/
def StackRecord.labels (r : StackRecord) : Nat := r.count + r.short.total

/-- The lowest-numbered lane whose parked slot is occupied (06 R103). -/
def State.parkedLane (s : State) : Option Lane := Lane.inOrder.find? (fun l => (s.lane l).parked.isSome)

/-- Room in the holding list taken by the lowest lane's parked record (06 R103). -/
def State.unpark (s : State) : State :=
  match s.parkedLane with
  | none => s
  | some l =>
    match (s.lane l).parked with
    | none => s
    | some r =>
      let s1 := s.setLane l { s.lane l with parked := none }
      { s1 with writer := { s1.writer with holding := s1.writer.holding ++ [r] } }

/-- The stack write index word stored: the head record leaves the holding list and a parked record takes its room
(06 R103, R106). -/
def State.completeStack (s : State) (r : StackRecord) : State :=
  let s1 := s.storeWord (pageAddress 0x090) (s.publishedWord 0x090)
  let s2 : State := { s1 with writer := { s1.writer with stackWords := 0, holding := s1.writer.holding.tail } }
  let s3 := s2.setLane r.lane
    { s2.lane r.lane with written := (s2.lane r.lane).written + r.labels }
  s3.unpark

/-- A word of the head event stored; after the last the write index advances (11 R179, log 10). Where an unlocked map puts
the slot in the control page (08 R127: class CONTROL) or in another region, no rule says what the store does; it is stored
over the word there, an identity word included: the model's choice (log 35; beyond the last address: log 25). -/
def State.storeEventWord (s : State) (e : Event) : State :=
  let k := s.writer.eventWords
  let s1 := s.storeWord (s.regions.eventRing.recordAddress Config.eventRecordWords s.writer.eventWrite k) (e.word k)
  { s1 with writer := { s1.writer with
      eventWords := k + 1
      eventWrite := if k + 1 = Config.eventRecordWords then s.writer.eventWrite + 1 else s.writer.eventWrite } }

/-- The event write index word stored: the head event leaves the queue (11 R179). -/
def State.completeEvent (s : State) : State :=
  let s1 := s.storeWord (pageAddress 0x092) (s.publishedWord 0x092)
  { s1 with writer := { s1.writer with eventWords := 0, events := s1.writer.events.tail } }

/-- The head word of the publication set stored with its value as it stands (11 R176). -/
def State.storeStatusWord (s : State) : State :=
  match s.writer.publication with
  | [] => s
  | o :: rest => (s.storeWord (pageAddress o) (s.publishedWord o)).setPublication rest

/-- The stack work of a RECORD grant. -/
def State.stackWork (s : State) : State :=
  match s.writer.holding with
  | [] => s
  | r :: _ => if s.writer.stackWords < Config.stackRecordWords then s.storeStackWord r else s.completeStack r

/-- The event work of a RECORD grant. -/
def State.eventWork (s : State) : State :=
  match s.writer.events with
  | [] => s
  | e :: _ => if s.writer.eventWords < Config.eventRecordWords then s.storeEventWord e else s.completeEvent

/-- The work of a RECORD grant of a kind. -/
def State.recordWork (s : State) : RecordKind → State
  | .stack => (s.servedRecord .stack).stackWork
  | .event => (s.servedRecord .event).eventWork
  | .status => (s.servedRecord .status).storeStatusWord

/-! ## Scrubs (09 R152) -/

/-- The kind of MEMCMD work served now is remembered. -/
def State.servedMem (s : State) (k : MemKind) : State := { s with mem := { s.mem with lastKind := k } }

/-- A scrub's locked re-read of an address, and its write-back where it is CORRECTED. -/
def State.scrubAddress (s : State) (a : Nat) : State :=
  let x := s.location a
  match (classify x).under s.settings.blankTolerance with
  | .clean => s
  | .blank => s
  | .corrected b => (s.storeWord a (flipData x.data b)).detectCorrectable .scrub a b
  | .uncorrectable d => s.consumeUncorrectable .scrub a d

/-- The work of a scrub grant: the head address leaves the queue; an EXEMPT one makes no memory cycle. -/
def State.scrubWork (s : State) : State :=
  match s.scrubQueue with
  | [] => s
  | a :: rest =>
    let s1 : State := { s with scrubQueue := rest }
    if s.addressClass a = .exempt then s1 else s1.lockPort.scrubAddress a

/-! ## Walk words (10 sections 10.2 to 10.4) -/

/-- The code of VERIFY (10 R159). -/
def verifyCode : Byte := 0x01
/-- The code of CLEAR. -/
def clearCode : Byte := 0x02

/-- The memory command unit replaced. -/
def State.setMem (s : State) (m : MemUnit) : State := { s with mem := m }

/-- The walk past the word at the progress index, complete after the last word of its range (10 R163). -/
def MemUnit.advance (m : MemUnit) : MemUnit :=
  let m1 := { m with progress := m.progress + 1 }
  if m.progress + 1 = m.start + m.count then { m1 with state := .idle, result := .done } else m1

/-- The walk stopped with a result, the progress index staying at the word. -/
def MemUnit.stop (m : MemUnit) (r : MemResult) : MemUnit := { m with state := .idle, result := r }

/-- The counts of a VERIFY word that was corrected. -/
def MemUnit.countCorrected (m : MemUnit) : MemUnit := { m with done := m.done + 1, corrected := m.corrected + 1 }

/-- The counts and fault address of an uncorrectable VERIFY word (10 R164, R165). -/
def MemUnit.countUncorrectable (m : MemUnit) : MemUnit :=
  { m with done := m.done + 1, uncorrectable := m.uncorrectable + 1, faultAddress := some m.progress }

/-- An uncorrectable VERIFY word: the first word of the range is passed over, a later one stops the walk (10 R165). -/
def MemUnit.verifyFault (m : MemUnit) : MemUnit :=
  let m1 := m.countUncorrectable
  if m.progress = m.start then m1.advance else m1.stop .stoppedAtFault

/-- One VERIFY word (10 R164, R165). -/
def State.verifyAt (s : State) (a : Nat) : State :=
  let x := s.location a
  let clean : MemUnit := { s.mem with done := s.mem.done + 1 }
  if s.addressClass a = .exempt then s.setMem s.mem.advance
  else match (classify x).under s.settings.blankTolerance with
    | .clean => s.lockPort.setMem clean.advance
    | .blank => s.lockPort.setMem clean.advance
    | .corrected b =>
      ((s.lockPort.storeWord a (flipData x.data b)).detectCorrectable .verify a b).setMem s.mem.countCorrected.advance
    | .uncorrectable d => (s.lockPort.consumeUncorrectable .verify a d).setMem s.mem.verifyFault

/-- An address that a CLEAR may not write (10 R166). -/
def State.clearForbidden (s : State) (a : Nat) : Bool :=
  match s.addressClass a with
  | .control => true
  | .stackRing => true
  | .eventRing => true
  | .orderSlot l _ => !((s.lane l).service == .off || (s.lane l).service == .bypassed)
  | .verdict => false
  | .exempt => false
  | .plain => false

/-- One CLEAR word (10 R167). -/
def State.clearAt (s : State) (a : Nat) : State :=
  if s.clearForbidden a then s.setMem (s.mem.stop .refusedRegion)
  else (s.lockPort.storeWord a s.mem.fill).setMem { s.mem with done := s.mem.done + 1 }.advance

/-- The work of a walk grant: the word at the progress index. -/
def State.walkWork (s : State) : State :=
  if s.mem.walk = some verifyCode then s.verifyAt s.mem.progress
  else if s.mem.walk = some clearCode then s.clearAt s.mem.progress
  else s

/-- The work of a MEMCMD grant of a kind. -/
def State.memWork (s : State) : MemKind → State
  | .scrub => (s.servedMem .scrub).scrubWork
  | .walk => (s.servedMem .walk).walkWork

/-! ## A grant from its making to its end -/

/-- The memory command status word moved to the tail of the publication set when a walk word changed the state or the
result (10 R160): after every other word that the walk word changed, which is the model's choice (log 34). -/
def State.statusLast (pre post : State) : State :=
  if pre.mem.state ≠ post.mem.state ∨ pre.mem.result ≠ post.mem.result then
    post.setPublication (post.writer.publication.filter (· != 0x024) ++ [0x024])
  else post

/-- A FETCH grant. -/
def State.serveFetch (s : State) : State := State.commit s (s.grantInternal .fetch).fetchWork

/-- A RECORD grant of a kind; the index words are the record writer's own (log 10). -/
def State.serveRecord (s : State) (k : RecordKind) : State :=
  State.commitExcept s ((s.grantInternal .record).recordWork k) indexOffsets

/-- A MEMCMD grant of a kind. -/
def State.serveMem (s : State) (k : MemKind) : State :=
  State.statusLast s (State.commit s ((s.grantInternal .memcmd).memWork k))

/-- A grant to an internal requester for the work it presents. -/
def State.serve (s : State) : Internal → State
  | .fetch => s.serveFetch
  | .record => s.nextRecord.elim s s.serveRecord
  | .memcmd => s.nextMem.elim s s.serveMem

/-- The internal grants owed before HOST: those whose bypass count is at the limit, one after the other (08 R138). -/
def State.serveOwed : Nat → State → State
  | 0, s => s
  | n + 1, s =>
    match s.owed with
    | none => s
    | some r => State.serveOwed n (s.serve r)

/-- The state at the next HOST grant: after the internal grants owed before it (log 5). -/
def State.beforeHost (s : State) : State := State.serveOwed 3 s

/-! ## The grant commands -/

/-- FETCH_READ (03 R47): a FETCH grant, where FETCH is in turn (log 7). -/
def execFetchRead (s : State) : Host.Outcome State Fault Refusal :=
  .next (if s.inTurn .fetch then s.serveFetch else s)

/-- RECORD is in turn with work of a kind, at its index word or not. -/
def State.recordInTurn (s : State) (k : RecordKind) : Bool := s.inTurn .record && s.nextRecord == some k

/-- STACK_RECORD_WORD (06 R106). -/
def execStackRecordWord (s : State) : Host.Outcome State Fault Refusal :=
  .next (if s.recordInTurn .stack ∧ s.writer.stackWords < Config.stackRecordWords then s.serveRecord .stack else s)

/-- STACK_PUBLICATION_COMPLETE (06 R103). -/
def execStackPublicationComplete (s : State) : Host.Outcome State Fault Refusal :=
  .next (if s.recordInTurn .stack ∧ Config.stackRecordWords ≤ s.writer.stackWords then s.serveRecord .stack else s)

/-- EVENT_RECORD_WORD (11 R179). -/
def execEventRecordWord (s : State) : Host.Outcome State Fault Refusal :=
  .next (if s.recordInTurn .event ∧ s.writer.eventWords < Config.eventRecordWords then s.serveRecord .event else s)

/-- EVENT_PUBLICATION_COMPLETE (11 R179). -/
def execEventPublicationComplete (s : State) : Host.Outcome State Fault Refusal :=
  .next (if s.recordInTurn .event ∧ Config.eventRecordWords ≤ s.writer.eventWords then s.serveRecord .event else s)

/-- STATUS_PUBLICATION (11 R176). -/
def execStatusPublication (s : State) : Host.Outcome State Fault Refusal :=
  .next (if s.recordInTurn .status then s.serveRecord .status else s)

/-- MEMCMD is in turn with work of a kind. -/
def State.memInTurn (s : State) (k : MemKind) : Bool := s.inTurn .memcmd && s.nextMem == some k

/-- SCRUB (09 R152). -/
def execScrub (s : State) : Host.Outcome State Fault Refusal :=
  .next (if s.memInTurn .scrub then s.serveMem .scrub else s)

/-- VERIFY_WORD (10 R164). -/
def execVerifyWord (s : State) : Host.Outcome State Fault Refusal :=
  .next (if s.memInTurn .walk ∧ s.mem.walk = some verifyCode then s.serveMem .walk else s)

/-- CLEAR_WORD (10 R167). -/
def execClearWord (s : State) : Host.Outcome State Fault Refusal :=
  .next (if s.memInTurn .walk ∧ s.mem.walk = some clearCode then s.serveMem .walk else s)

end Sys2Proof.Machine
end

