-- ==== Sys2Proof/Machine/EngineCommands.lean ====
section
/-! DEFINITION. What the engine commands do (07 sections 7.2 to 7.7). -/

namespace Sys2Proof.Machine

/-- The result of an engine command with its detail byte (07 R111, 12). -/
structure Reply where
  /-- the result -/
  result : EngineResult
  /-- the detail byte -/
  detail : Byte
  deriving DecidableEq, Repr

/-- A reply whose detail is zero. -/
def Reply.plain (r : EngineResult) : Reply := ⟨r, 0⟩

/-- DONE with a mask of lanes as detail. -/
def Reply.doneLanes (ls : List Lane) : Reply := ⟨.done, BitVec.ofNat 8 (lanesMask ls)⟩

/-- A refusal that names a lane. -/
def Reply.lane (r : EngineResult) (l : Lane) : Reply := ⟨r, BitVec.ofNat 8 l.number⟩

/-- REFUSED_CHECK with the check's number and, for a check per lane, the lane (12). -/
def Reply.check (n : Nat) (l : Option Lane) : Reply :=
  ⟨.refusedCheck, BitVec.ofNat 8 (n + 16 * l.elim 0 Lane.number)⟩

/-! ## RUN (07 R112, R113) -/

/-- A lane named by RUN is eligible. -/
def LaneState.eligible (x : LaneState) : Bool :=
  x.service == .off && x.queue.isEmpty && x.parked.isNone

/-- The eligible lanes of a mask. -/
def State.eligibleLanes (s : State) (mask : Byte) : List Lane := (maskLanes mask).filter (fun l => (s.lane l).eligible)

/-- Check 2 for a lane: its order ring is mapped. -/
def State.ringCheck (s : State) (l : Lane) : Bool := (s.regions.orderRing.get l).mapped

/-- Check 10 for a lane: its default pitch is at least Pmin. -/
def State.pitchCheck (s : State) (l : Lane) : Bool :=
  decide (s.settings.pmin.toNat ≤ (s.settings.lanePitch.get l).toNat)

/-- The geometry checks 5 to 9 with their numbers (07 R113). -/
def Settings.geometryFailure (c : Settings) : Option Nat :=
  if ¬ c.dv.toNat + 64 < c.dk.toNat then some 5
  else if ¬ c.dk.toNat + 63 + c.kc.toNat < c.dg.toNat then some 6
  else if ¬ c.kc.toNat < c.pmin.toNat then some 7
  else if ¬ 23 * c.pmin.toNat ≥ c.dg.toNat then some 8
  else if ¬ c.w.toNat < c.dv.toNat then some 9
  else none

/-- The first RUN check that fails for the eligible lanes (07 R113). -/
def State.runFailure (s : State) (ls : List Lane) : Option Reply :=
  if !s.regions.locked then some (.check 1 none)
  else match ls.find? (fun l => !s.ringCheck l) with
    | some l => some (.check 2 (some l))
    | none =>
      if !s.regions.stackRing.mapped then some (.check 3 none)
      else if !s.regions.eventRing.mapped then some (.check 4 none)
      else match s.settings.geometryFailure with
        | some n => some (.check n none)
        | none => match ls.find? (fun l => !s.pitchCheck l) with
          | some l => some (.check 10 (some l))
          | none => if s.engine.safe then some (.check 11 none) else none

/-- RUN (07 R112). -/
def State.commandRun (s : State) (mask : Byte) : State × Reply :=
  if s.engine.state = .halted ∨ s.engine.state = .draining then (s, .plain .refusedState)
  else
    let ls := s.eligibleLanes mask
    if ls.isEmpty then (s, .plain .noLane)
    else match s.runFailure ls with
      | some r => (s, r)
      | none => (ls.foldl State.activate (s.setEngine .running), .doneLanes ls)

/-! ## DRAIN (07 R115) -/

/-- One ACTIVE lane becomes DRAINING, its drain completing at once where its ordered count is 0. -/
def State.drainLane (s : State) (l : Lane) : State :=
  let s1 := s.setService l .draining
  if (s1.lane l).orderedCount = 0 then s1.drainComplete l else s1

/-- DRAIN (07 R115). -/
def State.commandDrain (s : State) (mask : Byte) : State × Reply :=
  if s.engine.state = .stopped ∨ s.engine.state = .halted then (s, .plain .refusedState)
  else
    let ls := (maskLanes mask).filter (fun l => (s.lane l).service == .active)
    if ls.isEmpty then (s, .plain .noLane)
    else ((ls.foldl State.drainLane s).settleEngine, .doneLanes ls)

/-! ## The other commands -/

/-- HALT (07 R117). -/
def State.commandHalt (s : State) : State × Reply := (s.takeHalt .command, .plain .done)

/-- CLEAR_HALT (07 R119). -/
def State.commandClearHalt (s : State) : State × Reply :=
  if s.engine.state ≠ .halted then (s, .plain .refusedState)
  else if s.engine.safe then (s, .plain .refusedSafe)
  else (s.setEngine .stopped, .plain .done)

/-- CLOSE_STACK (07 R123): nothing where no stack is open. -/
def State.commandCloseStack (s : State) (l : Lane) : State × Reply :=
  (if (s.lane l).openStack.isSome then s.closeAndFault l .host else s, .plain .done)

/-- The refusal of CLEAR_LANE, by the cases of 07 R121 in their order. -/
def State.clearLaneRefusal (s : State) (l : Lane) : Option Reply :=
  if !(s.lane l).service.isFaulted then some (.plain .refusedState)
  else if !(s.lane l).queue.isEmpty then some (.lane .refusedQueue l)
  else if (s.lane l).parked.isSome then some (.lane .refusedParked l)
  else if s.engine.state = .running ∧ s.ringCheck l = false then some (.check 2 (some l))
  else if s.engine.state = .running ∧ s.pitchCheck l = false then some (.check 10 (some l))
  else none

/-- CLEAR_LANE (07 R121). -/
def State.commandClearLane (s : State) (l : Lane) : State × Reply :=
  match s.clearLaneRefusal l with
  | some r => (s, r)
  | none =>
    (if s.engine.state = .running then s.activate l else (s.setService l .off).testStopped, .plain .done)

/-- BYPASS (07 R122). -/
def State.commandBypass (s : State) (l : Lane) : State × Reply :=
  if (s.lane l).service = .off then ((s.setService l .bypassed).setGate l .reject, .plain .done)
  else (s, .plain .refusedState)

/-- UNBYPASS (07 R122). -/
def State.commandUnbypass (s : State) (l : Lane) : State × Reply :=
  if (s.lane l).service = .bypassed then (s.setService l .off, .plain .done) else (s, .plain .refusedState)

/-- A command carried out, its operand valid for its code (07 R110, tests 2 to 4). -/
def State.engineAction (s : State) (code operand : Byte) : State × Reply :=
  let l := Lane.ofNumber operand.toNat
  let forMask (r : State × Reply) := if maskValid operand then r else (s, .plain .refusedOperand)
  let forLane (r : State × Reply) := if operand.toNat < 4 then r else (s, .plain .refusedOperand)
  match code.toNat with
  | 1 => forMask (s.commandRun operand)
  | 2 => forMask (s.commandDrain operand)
  | 3 => s.commandHalt
  | 4 => s.commandClearHalt
  | 5 => forLane (s.commandCloseStack l)
  | 6 => forLane (s.commandClearLane l)
  | 7 => forLane (s.commandBypass l)
  | 8 => forLane (s.commandUnbypass l)
  | _ => (s, .plain .refusedCode)

/-- The command status after a command (07 R111). -/
def State.recordReply (s : State) (code : Byte) (r : Reply) : State :=
  { s with engine := { s.engine with
      sequence := s.engine.sequence + 1
      code := code
      result := r.result
      detail := r.detail } }

/-- COMMAND_REFUSED for every result but DONE (07 R110). -/
def State.announceReply (s : State) (code : Byte) (r : Reply) : State :=
  if r.result = .done then s
  else s.give
    { code := .commandRefused, address := some code.toNat, value := some (BitVec.ofNat 32 r.result.code) }

/-- One engine command: a full-word write of the cell (07 R110). -/
def State.engineCommand (s : State) (d : Word) : State :=
  if complementMatches d then
    let p := s.engineAction (cellCode d) (cellOperand d)
    (p.1.announceReply (cellCode d) p.2).recordReply (cellCode d) p.2
  else
    (s.give { code := .commandIntegrity, value := some d }).recordReply (cellCode d) (.plain .refusedIntegrity)

end Sys2Proof.Machine
end

