-- ==== Sys2Proof/Machine/MemoryCommands.lean ====
section
/-! DEFINITION. What the memory commands do (10): taking, refusing, probing, suspending, resuming, aborting. -/

namespace Sys2Proof.Machine

/-- A refusal or a NOT_BUSY answer recorded: in the last-refusal field while a walk stands, else in the walk command
and result fields (10 R159). -/
def MemUnit.refuse (m : MemUnit) (code : Byte) (r : MemResult) : MemUnit :=
  if m.state = .idle then { m with walk := some code, result := r }
  else { m with lastRefusal := some (code, r) }

/-- The operands are in range (10 R161). -/
def MemUnit.operandsValid (m : MemUnit) : Bool :=
  decide (1 ≤ m.opCount.toNat) && decide (m.opCount.toNat ≤ 65536) && decide (m.opStart.toNat ≤ 4194303) &&
    decide (m.opStart.toNat + m.opCount.toNat ≤ Config.memoryWords)

/-- A walk begun with the operands latched (10 R162). -/
def MemUnit.beginWalk (m : MemUnit) (code : Byte) : MemUnit :=
  { m with
    start := m.opStart.toNat
    count := m.opCount.toNat
    fill := m.opFill
    walk := some code
    result := .none
    progress := m.opStart.toNat
    done := 0
    corrected := 0
    uncorrectable := 0
    faultAddress := none
    state := .busy }

/-- Some address of the operand range may not be cleared (10 R166). -/
def State.rangeForbidden (s : State) : Bool :=
  (List.range s.mem.opCount.toNat).any (fun i => s.clearForbidden (s.mem.opStart.toNat + i))

/-- VERIFY or CLEAR, by its code (10 R162, R166). -/
def State.commandWalk (s : State) (code : Byte) : MemUnit :=
  match s.mem.state with
  | .busy => s.mem.refuse code .refusedBusy
  | .suspended => s.mem.refuse code .refusedSuspended
  | .idle =>
    if !s.mem.operandsValid then s.mem.refuse code .refusedOperand
    else if code == clearCode && s.rangeForbidden then s.mem.refuse code .refusedRegion
    else s.mem.beginWalk code

/-- CHECK_PROBE with an operand byte (10 R168). -/
def MemUnit.checkProbe (m : MemUnit) (operand : Byte) : MemUnit :=
  let x : Location := ⟨m.opFill, operand⟩
  { m with probe :=
    { outcome := classify x
      data := handedOn x
      bit := match classify x with
        | .corrected b => b
        | .clean => 0
        | .blank => 0
        | .uncorrectable _ => 0
      check := checkByte m.opFill } }

/-- SUSPEND (10 R169). -/
def MemUnit.commandSuspend (m : MemUnit) (code : Byte) : MemUnit :=
  if m.state = .busy then { m with state := .suspended } else m.refuse code .notBusy

/-- RESUME (10 R169). -/
def MemUnit.commandResume (m : MemUnit) (code : Byte) : MemUnit :=
  match m.state with
  | .suspended => { m with state := .busy }
  | .busy => m.refuse code .refusedBusy
  | .idle => m.refuse code .notBusy

/-- ABORT (10 R170). -/
def MemUnit.commandAbort (m : MemUnit) (code : Byte) : MemUnit :=
  if m.state = .idle then m.refuse code .notBusy else m.stop .aborted

/-- A memory command's effect on the unit, by its code (10 R159). -/
def State.memoryAction (s : State) (code operand : Byte) : MemUnit :=
  match code.toNat with
  | 1 => s.commandWalk code
  | 2 => s.commandWalk code
  | 3 => s.mem.checkProbe operand
  | 4 => s.mem.commandSuspend code
  | 5 => s.mem.commandResume code
  | 6 => s.mem.commandAbort code
  | _ => s.mem.refuse code .refusedCode

/-- One memory command: a full-word write of the cell, which advances the status sequence (10 R159). -/
def State.memoryCommand (s : State) (d : Word) : State :=
  let m := s.memoryAction (cellCode d) (cellOperand d)
  s.setMem { m with sequence := s.mem.sequence + 1 }

end Sys2Proof.Machine
end

