-- ==== Sys2Proof/Machine/ControlPage.lean ====
section
/-! DEFINITION. The control words the host writes (08 R131, 11 sections 11.1 and 11.2, 09 R149, R156, 03 R43,
06 R107): which word an offset is, and what a full-word write to it does. -/

namespace Sys2Proof.Machine

/-! ## The words of the page (12 section 12.2) -/

/-- A control word by its ownership kind and its rule. -/
inductive ControlWord where
  | partOwned
  | reserved
  | engineCell
  | memoryCell
  | operandStart
  | operandCount
  | operandFill
  | setting (x : Setting)
  | mapEntry (e : MapEntryName)
  | mapLock
  | put (l : Lane)
  | stackRead
  | eventRead
  | acknowledge
  | window (n : WindowName) (k : WindowWord)
  deriving DecidableEq, Repr

/-- The word at an offset of the control page (12 section 12.2). -/
def controlWord (off : Nat) : ControlWord :=
  match off with
  | 0x010 => .engineCell
  | 0x020 => .memoryCell
  | 0x021 => .operandStart
  | 0x022 => .operandCount
  | 0x023 => .operandFill
  | 0x040 => .setting .verdictDeadline
  | 0x041 => .setting .knifeDistance
  | 0x042 => .setting .gateDistance
  | 0x043 => .setting .confirmDistance
  | 0x044 => .setting .minimumPitch
  | 0x045 => .setting .registrationWindow
  | 0x046 => .setting (.lanePitch .l0)
  | 0x047 => .setting (.lanePitch .l1)
  | 0x048 => .setting (.lanePitch .l2)
  | 0x049 => .setting (.lanePitch .l3)
  | 0x04A => .setting (.laneTarget .l0)
  | 0x04B => .setting (.laneTarget .l1)
  | 0x04C => .setting (.laneTarget .l2)
  | 0x04D => .setting (.laneTarget .l3)
  | 0x04E => .setting .reverseLimit
  | 0x04F => .setting .undecidedPolicy
  | 0x050 => .setting .checkMode
  | 0x051 => .setting .blankTolerance
  | 0x052 => .setting .reportingMode
  | 0x053 => .setting .correctableThreshold
  | 0x054 => .setting .attentionMask
  | 0x060 => .mapEntry (.orderRing .l0)
  | 0x061 => .mapEntry (.orderRing .l1)
  | 0x062 => .mapEntry (.orderRing .l2)
  | 0x063 => .mapEntry (.orderRing .l3)
  | 0x064 => .mapEntry .stackRing
  | 0x065 => .mapEntry .eventRing
  | 0x066 => .mapEntry .verdictCells
  | 0x067 => .mapLock
  | 0x080 => .put .l0
  | 0x084 => .put .l1
  | 0x088 => .put .l2
  | 0x08C => .put .l3
  | 0x091 => .stackRead
  | 0x093 => .eventRead
  | 0x0AA => .acknowledge
  | 0x0C0 => .window .w0 .base
  | 0x0C1 => .window .w0 .baseComplement
  | 0x0C2 => .window .w0 .size
  | 0x0C3 => .window .w0 .sizeComplement
  | 0x0C4 => .window .w1 .base
  | 0x0C5 => .window .w1 .baseComplement
  | 0x0C6 => .window .w1 .size
  | 0x0C7 => .window .w1 .sizeComplement
  | _ => if off ≤ 0x001 ∨ publishedOffsets.contains off = true then .partOwned else .reserved

/-- The offset of a setting's word. -/
def settingOffset : Setting → Nat
  | .verdictDeadline => 0x040
  | .knifeDistance => 0x041
  | .gateDistance => 0x042
  | .confirmDistance => 0x043
  | .minimumPitch => 0x044
  | .registrationWindow => 0x045
  | .lanePitch l => 0x046 + l.number
  | .laneTarget l => 0x04A + l.number
  | .reverseLimit => 0x04E
  | .undecidedPolicy => 0x04F
  | .checkMode => 0x050
  | .blankTolerance => 0x051
  | .reportingMode => 0x052
  | .correctableThreshold => 0x053
  | .attentionMask => 0x054

/-- The offset of a map entry's word. -/
def mapOffset : MapEntryName → Nat
  | .orderRing l => 0x060 + l.number
  | .stackRing => 0x064
  | .eventRing => 0x065
  | .verdictCells => 0x066

/-- The offset of a lane's put word. -/
def putOffset (l : Lane) : Nat := 0x080 + 4 * l.number

/-- A window's number. -/
def windowNumber : WindowName → Nat
  | .w0 => 0
  | .w1 => 1

/-- The offset of an exemption-window word. -/
def windowOffset (n : WindowName) (k : WindowWord) : Nat :=
  0x0C0 + 4 * windowNumber n +
    match k with
    | .base => 0
    | .baseComplement => 1
    | .size => 2
    | .sizeComplement => 3

/-! ## How a control write ends -/

/-- The host cycle ended, with the data of a read. -/
def State.endHost (s : State) (ok : Bool) (data : Option Word) : State := { s with hostEnd := some ⟨ok, data⟩ }

/-- A write ended OK. -/
def State.endOk (s : State) : State := s.endHost true none

/-- A write ended ERROR. -/
def State.endError (s : State) : State := s.endHost false none

/-- A word stored at an offset of the page, the cycle ended OK. -/
def State.storeControl (s : State) (off : Nat) (d : Word) : State := (s.storeWord (pageAddress off) d).endOk

/-- A setting, map or lock write refused: event and class SETTING_REFUSED (11 R172). -/
def State.refuseSetting (s : State) (off : Nat) (d : Word) : State :=
  s.giveRaise .settingRefused { code := .settingRefused, address := some (pageAddress off), value := some d }

/-- A write refused with ERROR and the class PROTECTION. -/
def State.refuseProtected (s : State) (b : EventBody) : State := (s.giveRaise .protection b).endError

/-! ## Settings (11 R172, 09 R147) -/

/-- The 16-bit field of a setting word. -/
def settingField (d : Word) : Half := d.extractLsb' 0 16

/-- A geometry setting (11 R172). -/
def isGeometry : Setting → Bool
  | .verdictDeadline => true
  | .knifeDistance => true
  | .gateDistance => true
  | .confirmDistance => true
  | .minimumPitch => true
  | .registrationWindow => true
  | .lanePitch _ => true
  | .laneTarget _ => false
  | .reverseLimit => true
  | .undecidedPolicy => false
  | .checkMode => false
  | .blankTolerance => false
  | .reportingMode => false
  | .correctableThreshold => false
  | .attentionMask => false

/-- A field value brought into a range. -/
def clampHalf (lo hi : Nat) (v : Half) : Half := BitVec.ofNat 16 (clampNat lo hi v.toNat)

/-- The policy of a code. -/
def policyOfCode (n : Nat) : Option UndecidedPolicy :=
  match n with
  | 0 => some .reject
  | 1 => some .pass
  | _ => none

/-- The check mode of a code. -/
def checkModeOfCode (n : Nat) : Option CheckMode :=
  match n with
  | 0 => some .off
  | 1 => some .check
  | 2 => some .checkScrub
  | _ => none

/-- The blank tolerance of a code. -/
def toleranceOfCode (n : Nat) : Option Bool :=
  match n with
  | 0 => some false
  | 1 => some true
  | _ => none

/-- The reporting mode of a code. -/
def reportingOfCode (n : Nat) : Option ReportingMode :=
  match n with
  | 0 => some .silent
  | 1 => some .severe
  | 2 => some .faults
  | 3 => some .label
  | 4 => some .all
  | _ => none

/-- A setting's written field as the working copy takes it and the word memory receives; `none` where the enumeration
test refuses it (11 R172 tests 2 to 4). -/
def Settings.take (c : Settings) (x : Setting) (d : Word) : Option (Settings × Word) :=
  let v := settingField d
  let ranged (lo hi : Nat) (f : Half → Settings) : Option (Settings × Word) :=
    some (f (clampHalf lo hi v), (clampHalf lo hi v).setWidth 32)
  match x with
  | .verdictDeadline => ranged 1 65535 (fun y => { c with dv := y })
  | .knifeDistance => ranged 1 65535 (fun y => { c with dk := y })
  | .gateDistance => ranged 1 65535 (fun y => { c with dg := y })
  | .confirmDistance => ranged 1 65535 (fun y => { c with kc := y })
  | .minimumPitch => ranged 128 65535 (fun y => { c with pmin := y })
  | .registrationWindow => ranged 1 255 (fun y => { c with w := y })
  | .lanePitch l => ranged 128 65535 (fun y => { c with lanePitch := c.lanePitch.set l y })
  | .laneTarget l => ranged 1 9999 (fun y => { c with laneTarget := c.laneTarget.set l y })
  | .reverseLimit => ranged 0 65535 (fun y => { c with reverseLimit := y })
  | .undecidedPolicy => (policyOfCode v.toNat).map (fun p => ({ c with undecidedPolicy := p }, v.setWidth 32))
  | .checkMode =>
    let m := (checkModeOfCode v.toNat).getD .checkScrub
    some ({ c with checkMode := m }, BitVec.ofNat 32 m.code)
  | .blankTolerance => (toleranceOfCode v.toNat).map (fun p => ({ c with blankTolerance := p }, v.setWidth 32))
  | .reportingMode => (reportingOfCode v.toNat).map (fun p => ({ c with reportingMode := p }, v.setWidth 32))
  | .correctableThreshold => ranged 0 65535 (fun y => { c with correctableThreshold := y })
  | .attentionMask => some ({ c with attentionMask := d.extractLsb' 0 13 }, (d.extractLsb' 0 13).setWidth 32)

/-- The scrub queue after a setting is taken: emptied by a check mode other than CHECK_SCRUB (09 R147). -/
def State.settleScrub (s : State) (x : Setting) : State :=
  if x = .checkMode ∧ s.settings.checkMode ≠ .checkScrub then { s with scrubQueue := [] } else s

/-- A full-word write to a setting word (11 R172). -/
def State.writeSetting (s : State) (x : Setting) (d : Word) : State :=
  if isGeometry x && s.engine.state != .stopped then (s.refuseSetting (settingOffset x) d).endOk
  else match s.settings.take x d with
    | none => (s.refuseSetting (settingOffset x) d).endOk
    | some (c, w) => (State.settleScrub { s with settings := c } x).storeControl (settingOffset x) w

/-! ## The region map and its lock (11 R174, R175) -/

/-- A map word's entry with its size clamped. -/
def mapEntryOf (lo hi : Nat) (d : Word) : MapEntry :=
  { base := mapBase d, size := BitVec.ofNat 4 (clampNat lo hi (mapSize d).toNat) }

/-- The entry a map write takes and the word memory receives. -/
def takenEntry (e : MapEntryName) (d : Word) : MapEntry :=
  match e with
  | .orderRing _ => mapEntryOf 2 10 d
  | .stackRing => mapEntryOf 3 10 d
  | .eventRing => mapEntryOf 4 12 d
  | .verdictCells => { base := mapBase d, size := 0 }

/-- The working map with an entry replaced. -/
def RegionMap.withEntry (m : RegionMap) (e : MapEntryName) (x : MapEntry) : RegionMap :=
  match e with
  | .orderRing l => { m with orderRing := m.orderRing.set l x }
  | .stackRing => { m with stackRing := x }
  | .eventRing => { m with eventRing := x }
  | .verdictCells => { m with verdictCells := x.base }

/-- A lane's indices at a map write to its order ring: fetch and release become put, previous serial absent
(03 R45). -/
def LaneState.ringReset (x : LaneState) : LaneState :=
  { x with fetch := x.put, release := x.put, previousSerial := none }

/-- The words of a record stored so far once its ring is mapped anew: a record not yet stored whole begins again, and one
stored whole still owes its index word (log 11). -/
def wordsAfterMapping (words stored : Nat) : Nat := if stored < words then 0 else stored

/-- The stack ring's indices reset (06 R108, log 11). -/
def Writer.resetStackRing (w : Writer) : Writer :=
  { w with stackWrite := w.stackRead, stackWords := wordsAfterMapping Config.stackRecordWords w.stackWords }

/-- The event ring's indices reset (11 R179, log 11). -/
def Writer.resetEventRing (w : Writer) : Writer :=
  { w with eventWrite := w.eventRead, eventWords := wordsAfterMapping Config.eventRecordWords w.eventWords }

/-- The further effect of a map write on the ring it maps (11 R174). -/
def State.resetRing (s : State) (e : MapEntryName) : State :=
  match e with
  | .orderRing l => s.setLane l (s.lane l).ringReset
  | .stackRing => { s with writer := s.writer.resetStackRing }
  | .eventRing => { s with writer := s.writer.resetEventRing }
  | .verdictCells => s

/-- An exemption window by name. -/
def State.exemptWindow (s : State) : WindowName → ExemptWindow
  | .w0 => s.window0
  | .w1 => s.window1

/-- An exemption window replaced. -/
def State.setExemptWindow (s : State) (n : WindowName) (w : ExemptWindow) : State :=
  match n with
  | .w0 => { s with window0 := w }
  | .w1 => { s with window1 := w }

/-- A window re-evaluated after a map write: an active one that overlaps a mapped region becomes inactive
(09 R150). -/
def State.recheckWindow (s : State) (n : WindowName) : State :=
  let w := s.exemptWindow n
  if w.active && w.overlapsMapped s.regions then
    (s.setExemptWindow n { w with active := false }).give
      { code := .exemptWindowCleared, address := some w.base.toNat, value := some (BitVec.ofNat 32 (windowNumber n)) }
  else s

/-- A full-word write to a map entry (11 R174). -/
def State.writeMap (s : State) (e : MapEntryName) (d : Word) : State :=
  if s.regions.locked || s.engine.state != .stopped then (s.refuseSetting (mapOffset e) d).endOk
  else
    let x := takenEntry e d
    let s1 : State := { s with regions := s.regions.withEntry e x }
    (((s1.resetRing e).recheckWindow .w0).recheckWindow .w1).storeControl (mapOffset e) x.word

/-- The lock word as memory receives it. -/
def RegionMap.lockWord (m : RegionMap) : Word := packBit 0 m.locked

/-- A full-word write to the map lock (11 R175). -/
def State.writeLock (s : State) (d : Word) : State :=
  let s1 :=
    if d = 1 then
      if s.regions.locked then s
      else if s.regions.lockable then { s with regions := { s.regions with locked := true } }
      else s.refuseSetting 0x067 d
    else if d = 0 then s
    else s.refuseSetting 0x067 d
  s1.storeControl 0x067 s1.regions.lockWord

/-! ## Exemption windows (09 R149) -/

/-- A window with one of its four words written. -/
def ExemptWindow.withWord (w : ExemptWindow) (k : WindowWord) (d : Word) : ExemptWindow :=
  match k with
  | .base => { w with base := d }
  | .baseComplement => { w with baseComplement := d }
  | .size => { w with size := d }
  | .sizeComplement => { w with sizeComplement := d }

/-- A full-word write to an exemption-window word (09 R149). -/
def State.writeWindow (s : State) (n : WindowName) (k : WindowWord) (d : Word) : State :=
  let w := (s.exemptWindow n).withWord k d
  let v := w.evaluate s.regions
  let s1 := s.setExemptWindow n { w with active := v == .active }
  (if v = .refused then s1.refuseSetting (windowOffset n k) d else s1).storeControl (windowOffset n k) d

/-! ## Ring indices (03 R43, 06 R107, 11 R179) -/

/-- The index field of an index word. -/
def indexField (d : Word) : RingIndex := d.extractLsb' 0 16

/-- A put write is taken: the ring is mapped, no put claims an unreleased slot or withdraws a fetched one (03 R43). -/
def State.putTaken (s : State) (l : Lane) (p : RingIndex) : Bool :=
  let x := s.lane l
  let ring := s.regions.orderRing.get l
  ring.mapped && decide ((p - x.release).toNat ≤ ring.slots) &&
    decide ((p - x.fetch).toNat ≤ (p - x.release).toNat)

/-- A full-word write to a lane's put word (03 R43). -/
def State.writePut (s : State) (l : Lane) (d : Word) : State :=
  let p := indexField d
  if s.putTaken l p then
    (s.setLane l { s.lane l with put := p }).storeControl (putOffset l) (p.setWidth 32)
  else s.refuseProtected
    { code := .putRefused, lane := some l, address := some (pageAddress (putOffset l)),
      value := some (p.setWidth 32) }

/-- A read index write is taken: it lies from the read index up to the write index (06 R107). -/
def readIndexTaken (read write n : RingIndex) : Bool := decide ((n - read).toNat ≤ (write - read).toNat)

/-- A full-word write to the stack read index (06 R107). -/
def State.writeStackRead (s : State) (d : Word) : State :=
  let n := indexField d
  if readIndexTaken s.writer.stackRead s.writer.stackWrite n then
    ({ s with writer := { s.writer with stackRead := n } }).storeControl 0x091 (n.setWidth 32)
  else s.refuseProtected
    { code := .stackReadRefused, address := some (pageAddress 0x091), value := some (n.setWidth 32) }

/-- A full-word write to the event read index (11 R179). -/
def State.writeEventRead (s : State) (d : Word) : State :=
  let n := indexField d
  if readIndexTaken s.writer.eventRead s.writer.eventWrite n then
    ({ s with writer := { s.writer with eventRead := n } }).storeControl 0x093 (n.setWidth 32)
  else s.refuseProtected
    { code := .eventReadRefused, address := some (pageAddress 0x093), value := some (n.setWidth 32) }

/-! ## The acknowledge cell (09 R156, 11 R181) -/

/-- The summary bits an acknowledge clears. -/
def ackClasses (d : Word) : BitVec 13 := d.extractLsb' 0 13

/-- The primary record after an acknowledge: absent if its class is among those cleared (11 R181). -/
def ackPrimary (p : Option PrimaryRecord) (classes : BitVec 13) : Option PrimaryRecord :=
  p.filter (fun r => !classes.getLsbD r.cls.bit)

/-- Error capture after an acknowledge (09 R156). -/
def ErrorCapture.acknowledge (c : ErrorCapture) (d : Word) : ErrorCapture :=
  { correctable := if d.getLsbD 16 then Capture.empty else c.correctable
    uncorrectable := if d.getLsbD 17 then Capture.empty else c.uncorrectable
    count := if d.getLsbD 18 then 0 else c.count }

/-- The acknowledge actions of a written value, taken together (09 R156). -/
def State.acknowledge (s : State) (d : Word) : State :=
  { s with
    summary := s.summary &&& ~~~ ackClasses d
    primary := ackPrimary s.primary (ackClasses d)
    capture := s.capture.acknowledge d }

/-! ## A full-word write to the control page (08 R131) -/

/-- A write refused with PROTECTION_BLOCK (08 R132). -/
def State.blockWrite (s : State) (lane : Option Lane) (a : Nat) : State :=
  s.refuseProtected { code := .protectionBlock, lane := lane, address := some a }

/-- A full-word write to a control word, by its kind. -/
def State.writeControl (s : State) (off : Nat) (d : Word) : State :=
  match controlWord off with
  | .partOwned => s.blockWrite none (pageAddress off)
  | .reserved => s.storeControl off 0
  | .engineCell => (s.engineCommand d).storeControl off 0
  | .memoryCell => (s.memoryCommand d).storeControl off 0
  | .operandStart => (s.setMem { s.mem with opStart := d }).storeControl off d
  | .operandCount => (s.setMem { s.mem with opCount := d }).storeControl off d
  | .operandFill => (s.setMem { s.mem with opFill := d }).storeControl off d
  | .setting x => s.writeSetting x d
  | .mapEntry e => s.writeMap e d
  | .mapLock => s.writeLock d
  | .put l => s.writePut l d
  | .stackRead => s.writeStackRead d
  | .eventRead => s.writeEventRead d
  | .acknowledge => (s.acknowledge d).storeControl off 0
  | .window n k => s.writeWindow n k d

end Sys2Proof.Machine
end

