-- ==== Sys2Proof/Machine/HostPath.lean ====
section
/-! DEFINITION. The pass-through path (08): host reads, full-word and partial writes, merges, the host cycle from its
presentation to its end, and the meaning of every command that is a host cycle. -/

namespace Sys2Proof.Machine

/-! ## Reads (08 R133) -/

/-- What a host read's outcome does beside returning data. -/
def State.reportHostRead (s : State) (a : Nat) : ReadOutcome → State
  | .clean => s
  | .blank => s
  | .corrected b => (s.detectCorrectable .hostRead a b).offerScrub a
  | .uncorrectable d => s.consumeUncorrectable .hostRead a d

/-- An outcome ends the cycle OK. -/
def ReadOutcome.endsOk : ReadOutcome → Bool
  | .clean => true
  | .blank => true
  | .corrected _ => true
  | .uncorrectable _ => false

/-- A host read at its grant (08 R133). -/
def State.hostRead (s : State) (a : Nat) : State :=
  (s.reportHostRead a (s.readOutcome a)).endHost (s.readOutcome a).endsOk (some (s.readData a))

/-! ## Full-word writes (08 R129) -/

/-- A full-word host write at its grant, by the class of its address. -/
def State.hostWrite (s : State) (a : Nat) (d : Word) : State :=
  match s.addressClass a with
  | .plain => (s.storeWord a d).endOk
  | .exempt => (s.storeWord a d).endOk
  | .orderSlot l slot => if s.slotProtected l slot then s.blockWrite (some l) a else (s.storeWord a d).endOk
  | .verdict => (s.takeVerdict a d).endOk
  | .stackRing => s.blockWrite none a
  | .eventRing => s.blockWrite none a
  | .control => s.writeControl (a - Config.pageBase) d

/-! ## Partial writes and merges (08 R130, R135 to R137) -/

/-- One byte lane of a merge: the host's byte where it is enabled. -/
def mergeLane (old new : Word) (be : BitVec 4) (i : Nat) : Byte :=
  if be.getLsbD i then new.extractLsb' (8 * i) 8 else old.extractLsb' (8 * i) 8

/-- The enabled bytes of the host's data put into other data. -/
def mergeBytes (old new : Word) (be : BitVec 4) : Word :=
  mergeLane old new be 3 ++ mergeLane old new be 2 ++ mergeLane old new be 1 ++ mergeLane old new be 0

/-- A checked merge (08 R135), or a poison merge where the read is uncorrectable (08 R136). -/
def State.checkedMerge (s : State) (a : Nat) (d : Word) (be : BitVec 4) : State :=
  let w := mergeBytes (s.readData a) d be
  match s.readOutcome a with
  | .clean => ((s.lockPort.storeWord a w)).endOk
  | .blank => ((s.lockPort.storeWord a w)).endOk
  | .corrected b => ((s.lockPort.storeWord a w).detectCorrectable .hostWrite a b).endOk
  | .uncorrectable x =>
    ((s.lockPort.storeLocation a (poisonedLocation w)).consumeUncorrectable .hostWrite a x).endError

/-- A raw merge: the location's own check byte stays (08 R137). -/
def State.rawMerge (s : State) (a : Nat) (d : Word) (be : BitVec 4) : State :=
  (s.lockPort.storeLocation a ⟨mergeBytes (s.location a).data d be, (s.location a).check⟩).endOk

/-- A partial write refused with PARTIAL_REFUSED (08 R130). -/
def State.refusePartial (s : State) (a : Nat) (be : BitVec 4) : State :=
  s.refuseProtected { code := .partialRefused, address := some a, value := some (be.setWidth 32) }

/-- A partial host write at its grant, by the class of its address (08 R130). -/
def State.hostPartialWrite (s : State) (a : Nat) (d : Word) (be : BitVec 4) : State :=
  match s.addressClass a with
  | .plain => s.checkedMerge a d be
  | .orderSlot l slot => if s.slotProtected l slot then s.blockWrite (some l) a else s.checkedMerge a d be
  | .exempt => s.rawMerge a d be
  | .verdict => s.refusePartial a be
  | .control => s.refusePartial a be
  | .stackRing => s.blockWrite none a
  | .eventRing => s.blockWrite none a

/-! ## A host cycle (08 R126) -/

/-- A host cycle's work under its grant. A write with all four byte enables is a full-word write (00). -/
def State.hostWork (s : State) : HostCycle → State
  | .read a => s.hostRead a.toNat
  | .write a d => s.hostWrite a.toNat d
  | .partialWrite a d be => if isPartial be then s.hostPartialWrite a.toNat d be else s.hostWrite a.toNat d

/-- A host cycle granted: its work whole under the HOST grant (08 R126, R138). -/
def State.takeCycle (s : State) (c : HostCycle) : State := State.commit s (s.grantHost.hostWork c)

/-- A host cycle presented: taken after the internal grants owed before it, or held in wait while the port makes no
grant (08 R126, R138, R141; logs 5 and 6). -/
def State.hostCycle (s : State) (c : HostCycle) : State :=
  if s.portReady then s.beforeHost.takeCycle c
  else if s.hostPort.isSome then s
  else { s with hostPort := some c }

/-- A full-word write to an offset of the control page. -/
def State.pageWrite (s : State) (off : Nat) (d : Word) : State :=
  s.hostCycle (.write (BitVec.ofNat 22 (pageAddress off)) d)

/-! ## The commands -/

/-- HOST_READ (08 R133). -/
def execHostRead (a : Address) (s : State) : Host.Outcome State Fault Refusal := .next (s.hostCycle (.read a))

/-- HOST_WRITE (08 R129). -/
def execHostWrite (a : Address) (d : Word) (s : State) : Host.Outcome State Fault Refusal :=
  .next (s.hostCycle (.write a d))

/-- HOST_PARTIAL_WRITE (08 R130). -/
def execHostPartialWrite (a : Address) (d : Word) (be : BitVec 4) (s : State) : Host.Outcome State Fault Refusal :=
  .next (s.hostCycle (.partialWrite a d be))

/-- VERDICT (04 R61). -/
def execVerdict (a : Address) (d : Word) (s : State) : Host.Outcome State Fault Refusal :=
  .next (s.hostCycle (.write a d))

/-- PUT_WRITE (03 R43). -/
def execPutWrite (l : Lane) (d : Word) (s : State) : Host.Outcome State Fault Refusal :=
  .next (s.pageWrite (putOffset l) d)

/-- STACK_READ_INDEX_WRITE (06 R107). -/
def execStackReadIndexWrite (d : Word) (s : State) : Host.Outcome State Fault Refusal := .next (s.pageWrite 0x091 d)

/-- EVENT_READ_INDEX_WRITE (11 R179). -/
def execEventReadIndexWrite (d : Word) (s : State) : Host.Outcome State Fault Refusal := .next (s.pageWrite 0x093 d)

/-- RUN (07 R112). -/
def execRun (operand : Byte) (complement : Half) (s : State) : Host.Outcome State Fault Refusal :=
  .next (s.pageWrite 0x010 (engineWord 0x01 operand complement))

/-- DRAIN (07 R115). -/
def execDrain (operand : Byte) (complement : Half) (s : State) : Host.Outcome State Fault Refusal :=
  .next (s.pageWrite 0x010 (engineWord 0x02 operand complement))

/-- HALT (07 R117). -/
def execHalt (operand : Byte) (complement : Half) (s : State) : Host.Outcome State Fault Refusal :=
  .next (s.pageWrite 0x010 (engineWord 0x03 operand complement))

/-- CLEAR_HALT (07 R119). -/
def execClearHalt (operand : Byte) (complement : Half) (s : State) : Host.Outcome State Fault Refusal :=
  .next (s.pageWrite 0x010 (engineWord 0x04 operand complement))

/-- CLOSE_STACK (07 R123). -/
def execCloseStack (operand : Byte) (complement : Half) (s : State) : Host.Outcome State Fault Refusal :=
  .next (s.pageWrite 0x010 (engineWord 0x05 operand complement))

/-- CLEAR_LANE (07 R121). -/
def execClearLane (operand : Byte) (complement : Half) (s : State) : Host.Outcome State Fault Refusal :=
  .next (s.pageWrite 0x010 (engineWord 0x06 operand complement))

/-- BYPASS (07 R122). -/
def execBypass (operand : Byte) (complement : Half) (s : State) : Host.Outcome State Fault Refusal :=
  .next (s.pageWrite 0x010 (engineWord 0x07 operand complement))

/-- UNBYPASS (07 R122). -/
def execUnbypass (operand : Byte) (complement : Half) (s : State) : Host.Outcome State Fault Refusal :=
  .next (s.pageWrite 0x010 (engineWord 0x08 operand complement))

/-- REFUSED_CODE (07 R110). -/
def execRefusedCode (code operand : Byte) (complement : Half) (s : State) : Host.Outcome State Fault Refusal :=
  .next (s.pageWrite 0x010 (engineWord code operand complement))

/-- VERIFY (10 R162). -/
def execVerify (rest : BitVec 24) (s : State) : Host.Outcome State Fault Refusal :=
  .next (s.pageWrite 0x020 (memoryWord 0x01 rest))

/-- CLEAR (10 R166). -/
def execClear (rest : BitVec 24) (s : State) : Host.Outcome State Fault Refusal :=
  .next (s.pageWrite 0x020 (memoryWord 0x02 rest))

/-- CHECK_PROBE (10 R168). -/
def execCheckProbe (rest : BitVec 24) (s : State) : Host.Outcome State Fault Refusal :=
  .next (s.pageWrite 0x020 (memoryWord 0x03 rest))

/-- SUSPEND (10 R169). -/
def execSuspend (rest : BitVec 24) (s : State) : Host.Outcome State Fault Refusal :=
  .next (s.pageWrite 0x020 (memoryWord 0x04 rest))

/-- RESUME (10 R169). -/
def execResume (rest : BitVec 24) (s : State) : Host.Outcome State Fault Refusal :=
  .next (s.pageWrite 0x020 (memoryWord 0x05 rest))

/-- ABORT (10 R170). -/
def execAbort (rest : BitVec 24) (s : State) : Host.Outcome State Fault Refusal :=
  .next (s.pageWrite 0x020 (memoryWord 0x06 rest))

/-- MEMCMD_REFUSED_CODE (10 R159). -/
def execMemcmdRefusedCode (code : Byte) (rest : BitVec 24) (s : State) : Host.Outcome State Fault Refusal :=
  .next (s.pageWrite 0x020 (memoryWord code rest))

/-- CLEAR_SUMMARY (11 R181). -/
def execClearSummary (d : Word) (s : State) : Host.Outcome State Fault Refusal := .next (s.pageWrite 0x0AA d)

/-- RELEASE_CORRECTABLE_CAPTURE (09 R156). -/
def execReleaseCorrectableCapture (d : Word) (s : State) : Host.Outcome State Fault Refusal :=
  .next (s.pageWrite 0x0AA d)

/-- RELEASE_UNCORRECTABLE_CAPTURE (09 R156). -/
def execReleaseUncorrectableCapture (d : Word) (s : State) : Host.Outcome State Fault Refusal :=
  .next (s.pageWrite 0x0AA d)

/-- CLEAR_CORRECTABLE_COUNT (09 R156). -/
def execClearCorrectableCount (d : Word) (s : State) : Host.Outcome State Fault Refusal := .next (s.pageWrite 0x0AA d)

/-- SETTING_WRITE (11 R172). -/
def execSettingWrite (x : Setting) (d : Word) (s : State) : Host.Outcome State Fault Refusal :=
  .next (s.pageWrite (settingOffset x) d)

/-- CHECK_MODE_WRITE (09 R147). -/
def execCheckModeWrite (d : Word) (s : State) : Host.Outcome State Fault Refusal := .next (s.pageWrite 0x050 d)

/-- MAP_WRITE (11 R174). -/
def execMapWrite (e : MapEntryName) (d : Word) (s : State) : Host.Outcome State Fault Refusal :=
  .next (s.pageWrite (mapOffset e) d)

/-- MAP_LOCK (11 R175). -/
def execMapLock (d : Word) (s : State) : Host.Outcome State Fault Refusal := .next (s.pageWrite 0x067 d)

/-- EXEMPTION_WINDOW_WRITE (09 R149). -/
def execExemptionWindowWrite (n : WindowName) (k : WindowWord) (d : Word) (s : State) :
    Host.Outcome State Fault Refusal :=
  .next (s.pageWrite (windowOffset n k) d)

end Sys2Proof.Machine
end

