-- ==== Sys2Proof/Machine/PowerReset.lean ====
section
/-! DEFINITION. The power and reset family: POWER_ON (11 R177 and every chapter's reset rule),
START_UP_IMAGE_COMPLETE (08 R141) and LINE_RESET (08 R142). -/

namespace Sys2Proof.Machine

/-- The web position unit after a reset with the given lines (01 R1). -/
def Web.atReset (i : InputLines) : Web :=
  { position := 0, backlog := 0, splice := i.splice, refA := i.encA, refB := i.encB }

/-- SAFE sampled as a reset ends: a high level is taken as a rise (07 R109). -/
def State.sampleSafe (s : State) (i : InputLines) : State := if i.safe then s.safeRise else s

/-! ## Power-on -/

/-- The state that power-on sets, before SAFE is sampled; the start-up image is still to be written (08 R141). -/
def State.poweredOn (s : State) (i : InputLines) : State :=
  { State.reset with
    pending := s.pending
    web := Web.atReset i
    powerCycle := s.powerCycle + 1
    arbiter := { Arbiter.initial with imageWriting := true } }

/-- POWER_ON (11 R177). -/
def execPowerOn (i : InputLines) (s : State) : Host.Outcome State Fault Refusal :=
  .next (State.commit (s.poweredOn i) ((s.poweredOn i).sampleSafe i))

/-! ## Line reset -/

/-- A lane after line reset: a BYPASSED lane stays so, put is kept and becomes fetch and release, and everything else
is as after power-on (01 R8, 02 R18, R37, 03 R45, R58, 05 R75, R86, 06 R88, R90, R91, R108, 07 R109). -/
def LaneState.lineReset (x : LaneState) : LaneState :=
  { LaneState.initial with
    service := if x.service = .bypassed then .bypassed else .off
    put := x.put
    fetch := x.put
    release := x.put }

/-- The memory command unit after line reset (10 R170, 09 R152; the status sequence: log 15). -/
def MemUnit.lineReset (m : MemUnit) : MemUnit :=
  { m with state := .idle, result := .reset, lastRefusal := none, lastKind := .walk }

/-- The record writer after line reset (06 R108, 11 R176, R178, R179). -/
def Writer.lineReset (w : Writer) : Writer :=
  { holding := [], stackWrite := w.stackRead, stackRead := w.stackRead, stackWords := 0, events := [],
    eventSequence := w.eventSequence, eventWrite := w.eventRead, eventRead := w.eventRead, eventWords := 0,
    publication := publishedOffsets, lastKind := .status }

/-- The engine controller after line reset, before SAFE is sampled (07 R109, R111). -/
def Engine.lineReset : Engine := { Engine.initial with result := .reset }

/-- The state that line reset sets, before SAFE is sampled. -/
def State.lineReset (s : State) (i : InputLines) : State :=
  { s with
    web := Web.atReset i
    lanes := ⟨s.lanes.l0.lineReset, s.lanes.l1.lineReset, s.lanes.l2.lineReset, s.lanes.l3.lineReset⟩
    early := []
    engine := Engine.lineReset
    arbiter := Arbiter.initial
    scrubQueue := []
    mem := s.mem.lineReset
    writer := s.writer.lineReset }

/-- Line reset taken: the state it sets, SAFE sampled, and ERROR for a host merge it cut (08 R142). -/
def State.takeLineReset (s : State) (i : InputLines) (mergeCut : Bool) : State :=
  let s1 := s.lineReset i
  let s2 := State.commit s1 (s1.sampleSafe i)
  if mergeCut then s2.endError else s2

/-- LINE_RESET (08 R142); during the image write it waits for the image (08 R141). -/
def execLineReset (i : InputLines) (mergeCut : Bool) (s : State) : Host.Outcome State Fault Refusal :=
  .next (if s.arbiter.imageWriting then { s with arbiter := { s.arbiter with resetWaiting := true } }
    else s.takeLineReset i mergeCut)

/-! ## The start-up image complete (08 R141) -/

/-- The SPLICE word placed in the publication set where SPLICE is high and the word is not there (01 R1). -/
def State.publishSplice (s : State) : State :=
  if s.web.splice && !s.writer.publication.contains 0x005 then
    s.setPublication (s.writer.publication ++ [0x005])
  else s

/-- The arbiter FREE with the image written. -/
def State.imageDone (s : State) : State :=
  (({ s with arbiter := { s.arbiter with imageWriting := false, resetWaiting := false } }).publishSplice).settleRequests

/-- A RESET asserted during the image write and still asserted is taken. -/
def State.takeWaitingReset (s : State) (waiting : Bool) (reset : Option InputLines) : State :=
  match reset with
  | some i => if waiting then s.takeLineReset i false else s
  | none => s

/-- The host cycle held in wait is granted. -/
def State.takeHeldCycle (s : State) : State :=
  match s.hostPort with
  | some c => ({ s with hostPort := none }).hostCycle c
  | none => s

/-- START_UP_IMAGE_COMPLETE (08 R141): the arbiter is FREE, a waiting RESET is taken, then a held host cycle is
granted (log 6). Without an image being written it has no effect. -/
def execStartUpImageComplete (reset : Option InputLines) (s : State) : Host.Outcome State Fault Refusal :=
  .next (if s.arbiter.imageWriting then
      (s.imageDone.takeWaitingReset s.arbiter.resetWaiting reset).takeHeldCycle
    else s)

end Sys2Proof.Machine
end

