-- ==== Sys2Proof/Machine/Dispatch.lean ====
section
/-! DEFINITION. The meaning of every command: one arm per constructor, each one call. -/

namespace Sys2Proof.Machine

def exec (i : Instr) (s : State) : Host.Outcome State Fault Refusal :=
  match i with
  | .powerOn lines => Sys2Proof.Machine.execPowerOn lines s
  | .startUpImageComplete reset => Sys2Proof.Machine.execStartUpImageComplete reset s
  | .lineReset lines mergeCut => Sys2Proof.Machine.execLineReset lines mergeCut s
  | .encoderTransition encA encB => Sys2Proof.Machine.execEncoderTransition encA encB s
  | .spliceStart => Sys2Proof.Machine.execSpliceStart s
  | .spliceFall => Sys2Proof.Machine.execSpliceFall s
  | .markEvent l => Sys2Proof.Machine.execMarkEvent l s
  | .markWindowExpiry l => Sys2Proof.Machine.execMarkWindowExpiry l s
  | .deadlineEvent l => Sys2Proof.Machine.execDeadlineEvent l s
  | .cutEvent l => Sys2Proof.Machine.execCutEvent l s
  | .confirmLimitEvent l => Sys2Proof.Machine.execConfirmLimitEvent l s
  | .knifePulseEnd l => Sys2Proof.Machine.execKnifePulseEnd l s
  | .kdone l => Sys2Proof.Machine.execKdone l s
  | .gateEvent l => Sys2Proof.Machine.execGateEvent l s
  | .trayReady l => Sys2Proof.Machine.execTrayReady l s
  | .trayPulseEnd l => Sys2Proof.Machine.execTrayPulseEnd l s
  | .safeRise => Sys2Proof.Machine.execSafeRise s
  | .safeFall => Sys2Proof.Machine.execSafeFall s
  | .hostRead a => Sys2Proof.Machine.execHostRead a s
  | .hostWrite a d => Sys2Proof.Machine.execHostWrite a d s
  | .hostPartialWrite a d be => Sys2Proof.Machine.execHostPartialWrite a d be s
  | .verdict a d => Sys2Proof.Machine.execVerdict a d s
  | .putWrite l d => Sys2Proof.Machine.execPutWrite l d s
  | .stackReadIndexWrite d => Sys2Proof.Machine.execStackReadIndexWrite d s
  | .eventReadIndexWrite d => Sys2Proof.Machine.execEventReadIndexWrite d s
  | .run operand complement => Sys2Proof.Machine.execRun operand complement s
  | .drain operand complement => Sys2Proof.Machine.execDrain operand complement s
  | .halt operand complement => Sys2Proof.Machine.execHalt operand complement s
  | .clearHalt operand complement => Sys2Proof.Machine.execClearHalt operand complement s
  | .closeStack operand complement => Sys2Proof.Machine.execCloseStack operand complement s
  | .clearLane operand complement => Sys2Proof.Machine.execClearLane operand complement s
  | .bypass operand complement => Sys2Proof.Machine.execBypass operand complement s
  | .unbypass operand complement => Sys2Proof.Machine.execUnbypass operand complement s
  | .refusedCode code operand complement => Sys2Proof.Machine.execRefusedCode code operand complement s
  | .verify rest => Sys2Proof.Machine.execVerify rest s
  | .clear rest => Sys2Proof.Machine.execClear rest s
  | .checkProbe rest => Sys2Proof.Machine.execCheckProbe rest s
  | .suspend rest => Sys2Proof.Machine.execSuspend rest s
  | .resume rest => Sys2Proof.Machine.execResume rest s
  | .abort rest => Sys2Proof.Machine.execAbort rest s
  | .memcmdRefusedCode code rest => Sys2Proof.Machine.execMemcmdRefusedCode code rest s
  | .verifyWord => Sys2Proof.Machine.execVerifyWord s
  | .clearWord => Sys2Proof.Machine.execClearWord s
  | .scrub => Sys2Proof.Machine.execScrub s
  | .clearSummary d => Sys2Proof.Machine.execClearSummary d s
  | .releaseCorrectableCapture d => Sys2Proof.Machine.execReleaseCorrectableCapture d s
  | .releaseUncorrectableCapture d => Sys2Proof.Machine.execReleaseUncorrectableCapture d s
  | .clearCorrectableCount d => Sys2Proof.Machine.execClearCorrectableCount d s
  | .settingWrite x d => Sys2Proof.Machine.execSettingWrite x d s
  | .checkModeWrite d => Sys2Proof.Machine.execCheckModeWrite d s
  | .mapWrite e d => Sys2Proof.Machine.execMapWrite e d s
  | .mapLock d => Sys2Proof.Machine.execMapLock d s
  | .exemptionWindowWrite n k d => Sys2Proof.Machine.execExemptionWindowWrite n k d s
  | .fetchStart l => Sys2Proof.Machine.execFetchStart l s
  | .fetchRead => Sys2Proof.Machine.execFetchRead s
  | .stackRecordWord => Sys2Proof.Machine.execStackRecordWord s
  | .stackPublicationComplete => Sys2Proof.Machine.execStackPublicationComplete s
  | .eventRecordWord => Sys2Proof.Machine.execEventRecordWord s
  | .eventPublicationComplete => Sys2Proof.Machine.execEventPublicationComplete s
  | .statusPublication => Sys2Proof.Machine.execStatusPublication s

end Sys2Proof.Machine
end

