-- ==== Sys2Proof/Safety.lean ====
section
/-! DEFINITION. What statements about this block are said with: what every step may change beside its own effect, when
HOST is granted next, and the invariants of the block (bounds, rings, lanes, the account of labels). -/

namespace Sys2Proof.Machine

/-! ## The frame of a step -/

/-- `s` but for the bookkeeping that every step settles at its end, taken from `t`: the publication set (11 R176), the
three bypass counts and the memory command unit's request (08 R138, 09 R152), and the port FREE with its lock flag clear (08 R138, R140). An equation
`t = (s with some fields changed).bookkeptAs t` says that nothing else changed. -/
def State.bookkeptAs (s t : State) : State :=
  { s with
    writer := { s.writer with publication := t.writer.publication }
    arbiter := { s.arbiter with
      grant := none
      lock := false
      fetchBypass := t.arbiter.fetchBypass
      recordBypass := t.arbiter.recordBypass
      memcmdBypass := t.arbiter.memcmdBypass
      memRequest := t.arbiter.memRequest } }

/-- Every location of job memory reads in `t` as in `s`. -/
def State.sameMemory (s t : State) : Prop := ∀ a : Nat, t.location a = s.location a

/-- Every location of job memory but the one at `a` reads in `t` as in `s`, and the one at `a` holds `x`. -/
def State.storedOnly (s t : State) (a : Nat) (x : Location) : Prop :=
  t.location a = x ∧ ∀ b : Nat, b ≠ a → t.location b = s.location b

/-- A host cycle presented now is granted at once: the port can make a grant and no internal requester is owed one
before HOST (08 R138). -/
def State.hostNext (s : State) : Prop := s.portReady = true ∧ s.owed = none

/-- `s` but for what the label and lane blocks own, taken from `t`: the lanes, the early verdict table, the engine
controller, error capture, the fault summary with the primary record, the holding list and the event queue. Web
position, settings, map, windows, memory, memory commands, scrub queue, ring indices and host port are those of `s`. -/
def State.labelWorkAs (s t : State) : State :=
  { s with
    lanes := t.lanes
    early := t.early
    engine := t.engine
    capture := t.capture
    summary := t.summary
    primary := t.primary
    writer := { s.writer with
      holding := t.writer.holding
      events := t.writer.events
      eventSequence := t.writer.eventSequence } }

/-- `s` with other records in the holding list. -/
def State.holdingAs (s : State) (h : List StackRecord) : State := { s with writer := { s.writer with holding := h } }

/-- The state after an engine command ended with a result: the status word advanced, the command cell zero in memory,
the host cycle OK (07 R110, R111). -/
def State.afterEngineCommand (s : State) (code : Byte) (r : EngineResult) (detail : Byte) : State :=
  let s1 : State := { s with engine := { s.engine with
    sequence := s.engine.sequence + 1, code := code, result := r, detail := detail } }
  (s1.storeWord (pageAddress 0x010) 0).endOk

/-- The state after a memory command left the unit as `m`: the sequence advanced, the command cell zero in memory, the
host cycle OK (10 R159). -/
def State.afterMemoryCommand (s : State) (m : MemUnit) : State :=
  ((s.setMem { m with sequence := s.mem.sequence + 1 }).storeWord (pageAddress 0x020) 0).endOk

/-- The complement field of an engine command with a matching complement (07 R110). -/
def matching (code operand : Byte) : Half := ~~~ (operand ++ code : Half)

/-! ## The bounds the manual gives -/

/-- The bounds of the parts that all lanes share: event queue (11 R178), holding list (06 R102), scrub queue
(09 R151), early verdict table (04 R66), correctable count (09 R157), reverse backlog (01 R4), words of a record in
progress (06 R106, 11 R179), bypass counts (08 R138). -/
def State.bounded (s : State) : Prop :=
  s.writer.events.length ≤ 8 ∧ s.writer.holding.length ≤ 4 ∧ s.scrubQueue.length ≤ 4 ∧ s.scrubQueue.Nodup ∧
  s.early.length ≤ 16 ∧ s.capture.count ≤ 65535 ∧ s.web.backlog ≤ 65536 ∧
  s.writer.stackWords ≤ 32 ∧ s.writer.eventWords ≤ 4 ∧
  s.arbiter.fetchBypass ≤ 4 ∧ s.arbiter.recordBypass ≤ 4 ∧ s.arbiter.memcmdBypass ≤ 4

/-- The publication set names each part-owned word at most once, and no other word (11 R176). -/
def State.publicationSet (s : State) : Prop :=
  s.writer.publication.Nodup ∧ ∀ o ∈ s.writer.publication, o ∈ publishedOffsets

/-- No two entries of the early verdict table have one lane and serial (04 R66). -/
def State.earlyDistinct (s : State) : Prop := (s.early.map (fun e => (e.lane, e.serial))).Nodup

/-- The port is FREE with its lock flag clear (08 R138, R140). -/
def State.portAtRest (s : State) : Prop := s.arbiter.grant = none ∧ s.arbiter.lock = false

/-! ## Rings (03) -/

/-- A lane's indices hold together (03 R42), and its orders are those from release up to fetch, each in the window or
bound to one queued record (03 R53). -/
def LaneState.ringHolds (x : LaneState) (slots : Nat) : Prop :=
  (x.fetch - x.release).toNat ≤ (x.put - x.release).toNat ∧ (x.put - x.release).toNat ≤ slots ∧
  (x.fetch - x.release).toNat = x.orderedCount + x.windowDepth

/-- Every lane's ring holds. -/
def State.ringsHold (s : State) : Prop := ∀ l : Lane, (s.lane l).ringHolds (s.regions.orderRing.get l).slots

/-! ## Lanes -/

/-- A service state in which a lane can be in service (01 R10). -/
def Service.serves (v : Service) : Prop := v = .active ∨ v = .draining

/-- What holds of a lane by itself.
`orderless`: a queued record without an order is ORDERLESS or DRAIN (02 R23, R24).
`flagged`: every record queued in a lane that cannot be in service carries a fault flag (05 R76, R86).
`faulted`: every record queued in a FAULTED lane carries LANE_FAULT (02 R30).
`noOrder`: an OFF or BYPASSED lane's records hold no order (02 R34).
`noWindow`: the window of a lane that cannot be in service is empty (03 R58).
`filling`: a stack is open only while the stacker is FILLING (06 R91), with the carry list empty (06 R98).
`closed`: an OFF or BYPASSED lane has no open stack.
`ranOut`: a FAULTED lane whose queue is empty has no open stack (06 R99).
`parked`: a lane with an occupied parked slot has no open stack and cannot be in service; the record is its own
(06 R102, R104).
`synthetic`: the consecutive-synthetic count is at most 3, and below 3 where the lane can be in service
(01 R8, R15). -/
structure LaneState.sound (x : LaneState) (l : Lane) : Prop where
  orderless : ∀ r ∈ x.queue, r.slot = none → r.flags.orderless = true ∨ r.flags.drain = true
  flagged   : ¬ x.service.serves → ∀ r ∈ x.queue, r.flags.anyFault = true
  faulted   : x.service.isFaulted = true → ∀ r ∈ x.queue, r.flags.laneFault = true
  noOrder   : x.service = .off ∨ x.service = .bypassed → ∀ r ∈ x.queue, r.slot = none
  noWindow  : ¬ x.service.serves → x.window = [] ∧ x.reservation = none
  filling   : ∀ k, x.openStack = some k → x.stacker = .filling k.tray ∧ x.carry.isEmpty = true
  closed    : x.service = .off ∨ x.service = .bypassed → x.openStack = none
  ranOut    : x.service.isFaulted = true → x.queue = [] → x.openStack = none
  parked    : ∀ r, x.parked = some r → x.openStack = none ∧ ¬ x.service.serves ∧ r.lane = l
  synthetic : x.tracker.synthetic ≤ 3 ∧ (x.service.serves → x.tracker.synthetic ≤ 2)

/-- A lane as it stands while the map has not been locked since power-on: no label has started in it. -/
def LaneState.untouched (x : LaneState) : Prop :=
  (x.service = .off ∨ x.service = .bypassed) ∧ x.queue = [] ∧ x.window = [] ∧ x.reservation = none ∧
  x.openStack = none ∧ x.carry.isEmpty = true ∧ x.parked = none

/-- What holds of the engine and the lanes together.
`lanes`: each lane is sound.
`stopped`: under a STOPPED or HALTED engine no lane is ACTIVE or DRAINING (07 section 7.1).
`draining`: under a DRAINING engine no lane is ACTIVE (07 section 7.1).
`running`: under a RUNNING engine some lane is ACTIVE (07 R115, R120).
`halted`: under a HALTED engine every queue is empty and no lane is FAULTED (07 R118).
`gates`: GATE stands at REJECT under a HALTED engine and in a FAULTED or BYPASSED lane (05 R86).
`early`: the early verdict table holds no entry for a lane that is not ACTIVE or DRAINING (04 R66).
`unlocked`: while the map is not locked no label has started (07 R113, check 1). -/
structure State.sound (s : State) : Prop where
  lanes    : ∀ l, (s.lane l).sound l
  stopped  : s.engine.state = .stopped ∨ s.engine.state = .halted → ∀ l, ¬ (s.lane l).service.serves
  draining : s.engine.state = .draining → ∀ l, (s.lane l).service ≠ .active
  running  : s.engine.state = .running → ∃ l, (s.lane l).service = .active
  halted   : s.engine.state = .halted → ∀ l, (s.lane l).queue = [] ∧ (s.lane l).service.isFaulted = false
  gates    : ∀ l, s.engine.state = .halted ∨ (s.lane l).service.isFaulted = true ∨
               (s.lane l).service = .bypassed → (s.lane l).gate = .reject
  early    : ∀ e ∈ s.early, (s.lane e.lane).service.serves
  unlocked : s.regions.locked = false → ∀ l, (s.lane l).untouched

/-! ## The account of labels (06 R101) -/

/-- The labels that an open stack accounts for. -/
def OpenStack.labels (k : OpenStack) : Nat := k.count + k.short.total

/-- The labels of a lane in the records of a list. -/
def labelsHeld (l : Lane) (rs : List StackRecord) : Nat :=
  ((rs.filter (fun r => r.lane == l)).map StackRecord.labels).sum

/-- The labels a lane's records, written, held and parked, its open stack and its carry list account for. -/
def State.accountedFor (s : State) (l : Lane) : Nat :=
  (s.lane l).written + labelsHeld l s.writer.holding + (s.lane l).parked.elim 0 StackRecord.labels +
    (s.lane l).openStack.elim 0 OpenStack.labels + (s.lane l).carry.total

/-- Every label that has left a lane's queue is accounted for, while no count of the lane can have saturated. -/
def State.accountHolds (s : State) : Prop :=
  ∀ l : Lane, (s.lane l).departed ≤ 65535 → s.accountedFor l = (s.lane l).departed

/-- Neither count of a shortfall has reached 65,535 (06 R95, R101). -/
def Shortfall.unsaturated (c : Shortfall) : Prop := c.overflow < 65535 ∧ c.unordered < 65535

/-- No missing overflow and no unordered count of a lane, in its held and parked records, its open stack and its carry
list, has reached 65,535: while this holds the account is exact (06 R101). -/
def State.unsaturated (s : State) (l : Lane) : Prop :=
  (∀ r ∈ s.writer.holding, r.lane = l → r.short.unsaturated) ∧
  (∀ r, (s.lane l).parked = some r → r.short.unsaturated) ∧
  (∀ k, (s.lane l).openStack = some k → k.short.unsaturated) ∧ (s.lane l).carry.unsaturated

/-! ## Events and the publication set -/

/-- `s` with events given one after the other, each with its web position (11 R178). -/
def State.giveEach (s : State) (es : List (WebPos × EventBody)) : State := es.foldl (fun u e => u.giveAt e.1 e.2) s

/-- The part-owned words whose value differs between two states, by rising address (11 R176, 12 R183, log 9). -/
def State.wordsChanged (s t : State) : List Nat := publishedOffsets.filter (fun o => s.publishedWord o != t.publishedWord o)

/-- The publication set of `s` with words appended in order, each only if it is not there already (11 R176). -/
def State.publicationWith (s : State) (os : List Nat) : List Nat :=
  s.writer.publication ++ os.filter (fun o => !s.writer.publication.contains o)

/-- A command that is a host cycle, whatever it writes. -/
def hostCycleRow : Instr → Bool
  | .powerOn _ | .startUpImageComplete _ | .lineReset _ _ | .encoderTransition _ _ | .spliceStart | .spliceFall
  | .markEvent _ | .markWindowExpiry _ | .deadlineEvent _ | .cutEvent _ | .confirmLimitEvent _ | .knifePulseEnd _
  | .kdone _ | .gateEvent _ | .trayReady _ | .trayPulseEnd _ | .safeRise | .safeFall
  | .verifyWord | .clearWord | .scrub | .fetchStart _ | .fetchRead | .stackRecordWord | .stackPublicationComplete
  | .eventRecordWord | .eventPublicationComplete | .statusPublication => false
  | _ => true

/-- A command of the power and reset family. -/
def resetRow : Instr → Bool
  | .powerOn _ | .startUpImageComplete _ | .lineReset _ _ => true
  | _ => false

/-- A command that is a grant to an internal requester. -/
def grantRow : Instr → Bool
  | .verifyWord | .clearWord | .scrub | .fetchRead | .stackRecordWord | .stackPublicationComplete
  | .eventRecordWord | .eventPublicationComplete | .statusPublication => true
  | _ => false

/-- `x` is the first element of `l` that satisfies `p`. -/
def firstIn {α : Type} (l : List α) (p : α → Prop) (x : α) : Prop :=
  p x ∧ ∃ before rest, l = before ++ x :: rest ∧ ∀ y ∈ before, ¬ p y

/-! ## Grants -/

/-- The row that a grant to an internal requester runs, for the work that the requester presents (11 R176, 09 R152). -/
def State.grantRow (s : State) : Internal → Instr
  | .fetch => .fetchRead
  | .record =>
    match s.nextRecord with
    | some .stack => if s.writer.stackWords < 32 then .stackRecordWord else .stackPublicationComplete
    | some .event => if s.writer.eventWords < 4 then .eventRecordWord else .eventPublicationComplete
    | _ => .statusPublication
  | .memcmd => if s.nextMem = some .scrub then .scrub else if s.mem.walk = some 0x02 then .clearWord else .verifyWord

/-- The requests as every step settles them: a requester with no request pending has a bypass count of 0 (08 R138), and
the memory command unit has presented the request that it makes next (09 R152). -/
def State.requestsSettled (s : State) : Prop :=
  (∀ r, s.requesting r = false → s.arbiter.bypass r = 0) ∧ s.arbiter.memRequest = s.nextMem

/-- A walk under way or suspended is a VERIFY or a CLEAR (10 R162, R169). -/
def State.walkKnown (s : State) : Prop :=
  s.mem.state ≠ .idle → s.mem.walk = some 0x01 ∨ s.mem.walk = some 0x02

/-! ## What larger steps leave -/

/-- The stack record that a close of a lane builds, if it builds one (06 R98, R100, R104). -/
def LaneState.closedRecord (x : LaneState) (l : Lane) (why : CloseReason) : Option StackRecord :=
  match x.openStack with
  | some k => some
      { lane := l, tray := some k.tray, sequence := k.sequence, batch := some k.batch, reason := why, count := k.count,
        first := k.first, last := k.last, short := k.short }
  | none =>
    if x.carry.isEmpty = true ∨ x.parked ≠ none then none
    else some
      { lane := l, tray := none, sequence := x.nextSequence, batch := none, reason := why, count := 0,
        first := none, last := none, short := x.carry }

/-- The lane after a close that built a record: its open stack gone, with a TRAY pulse and the stacker TRANSFERRING from
the tray it was filling, or its carry list gone and a sequence number taken (06 R90, R98). -/
def LaneState.closed (x : LaneState) : LaneState :=
  match x.openStack with
  | some k => { x with
      openStack := none
      trayPulse := true
      stacker := .transferring (match x.stacker with
        | .filling t => t
        | .transferring t => t
        | .notReady => k.tray) }
  | none => { x with carry := { entries := [], overflow := 0, unordered := 0 }, nextSequence := x.nextSequence + 1 }

/-- The shortfall that a halt's record takes, or that stays: what the open stack, or else the carry list, held, with every
abandoned label listed in queue order (06 R96). -/
def LaneState.shortAtHalt (x : LaneState) : Shortfall :=
  x.queue.foldl (fun c r => c.list ⟨r.serial, .abandoned, r.defect, r.flags.undecided⟩)
    (match x.openStack with
      | some k => k.short
      | none => x.carry)

/-- The stack record that a lane's HALT close builds, if it builds one (06 R98, R99, R104). -/
def LaneState.haltRecord (x : LaneState) (l : Lane) : Option StackRecord :=
  match x.openStack with
  | some k => some
      { lane := l, tray := some k.tray, sequence := k.sequence, batch := some k.batch, reason := .halt, count := k.count,
        first := k.first, last := k.last, short := x.shortAtHalt }
  | none =>
    if x.shortAtHalt.isEmpty = true ∨ x.parked ≠ none then none
    else some
      { lane := l, tray := none, sequence := x.nextSequence, batch := none, reason := .halt, count := 0,
        first := none, last := none, short := x.shortAtHalt }

/-- The records that the HALT closes of some lanes build, in their order. -/
def State.haltRecords (s : State) (ls : List Lane) : List StackRecord := ls.filterMap (fun l => (s.lane l).haltRecord l)

/-- A HALT close of the lane finds the holding list full: the records of the lower lanes go before its own (06 R102). -/
def State.haltParks (s : State) (l : Lane) : Prop :=
  4 ≤ s.writer.holding.length + (s.haltRecords (Lane.inOrder.take l.number)).length

/-- What a halt for a cause leaves of a lane (02 R35, 03 R55, 05 R77, R86, 06 R88, R90, R96, R99, 07 R118; previous
serial: log 33). -/
def LaneState.haltedFrom (y x : LaneState) (l : Lane) (parks : Prop) : Prop :=
  y.queue = [] ∧ y.openStack = none ∧ y.stacker = .notReady ∧ y.gate = .reject ∧ y.knifePulse = false ∧
  y.service = (if x.service = .bypassed then .bypassed else .off) ∧
  y.release = x.release + BitVec.ofNat 16 x.orderedCount ∧ y.put = x.put ∧
  (x.service ≠ .bypassed → y.window = [] ∧ y.reservation = none ∧ y.fetch = y.release ∧
    y.previousSerial = x.oldestBefore.getD x.previousSerial) ∧
  (x.service = .bypassed → y.window = x.window ∧ y.reservation = x.reservation ∧ y.fetch = x.fetch ∧
    y.previousSerial = x.previousSerial) ∧
  y.trayPulse = (x.trayPulse || x.openStack.isSome) ∧ y.misses = x.misses ∧ y.tracker = x.tracker ∧
  y.lastBound = x.lastBound ∧ y.departed = x.departed + x.queue.length ∧ y.written = x.written ∧
  (x.openStack ≠ none → y.carry = x.carry ∧ y.nextSequence = x.nextSequence) ∧
  (x.openStack = none → x.haltRecord l = none → y.carry = x.shortAtHalt ∧ y.nextSequence = x.nextSequence) ∧
  (x.openStack = none → x.haltRecord l ≠ none →
    y.carry.isEmpty = true ∧ y.nextSequence = x.nextSequence + 1) ∧
  (∀ r, x.haltRecord l = some r → parks → y.parked = some r) ∧
  ((x.haltRecord l = none ∨ ¬ parks) → y.parked = x.parked)

/-- A report: an event given, and with a class the class raised with what the event carries (11 R178, R180). -/
def State.report (s : State) (r : Option SummaryClass × EventBody) : State :=
  match r.1 with
  | none => s.give r.2
  | some c => s.giveRaise c r.2

/-- The class that a halt cause raises (07 R117). -/
def HaltCause.raises : HaltCause → Option SummaryClass
  | .command => none
  | .safety => some .safetyStop
  | .reverseLimit => some .reverseLimit

/-- The reports of a lane at a halt, in order (02 R35, 06 R98, R102, 03 R57, 04 R70; their order: log 12). -/
def State.haltReports (s : State) (l : Lane) (parks : Bool) : List (Option SummaryClass × EventBody) :=
  let x := s.lane l
  (if x.queue.isEmpty then []
    else [(none, { code := .queueAbandoned, lane := some l, value := some (BitVec.ofNat 32 x.queue.length) })]) ++
  (match x.haltRecord l with
    | none => []
    | some r =>
      (if parks then
        [(some .stackBacklog, { code := .stackParked, lane := some l, value := some (r.sequence.setWidth 32) })]
      else []) ++
      [(none,
        { code := .stackClosed, lane := some l, address := some 7, value := some (r.sequence.setWidth 32) })]) ++
  (if x.service = .bypassed then []
    else
      (if x.windowDepth = 0 then []
        else [(none, { code := .windowRewound, lane := some l,
                       address := some (x.release + BitVec.ofNat 16 x.orderedCount).toNat,
                       value := some (BitVec.ofNat 32 x.windowDepth) })]) ++
      (if s.early.countP (fun e => e.lane == l) = 0 then []
        else [(none, { code := .earlyDiscarded, lane := some l,
                       value := some (BitVec.ofNat 32 (s.early.countP (fun e => e.lane == l))) })]))

/-- What a halt for a cause leaves (07 R117, R118): every lane halted, the HALT records in the holding list or parked, the
early entries of every lane made OFF discarded, STOPREQ asserted; the events given, and the fault summary and primary
record as the reports leave them; error capture as it was. -/
def State.haltedFrom (t s : State) (c : HaltCause) : Prop :=
  t.engine.state = .halted ∧ t.engine.cause = some c ∧ t.stopReq = true ∧
  (∀ l, (t.lane l).haltedFrom (s.lane l) l (s.haltParks l)) ∧
  t.writer.holding = s.writer.holding ++ (s.haltRecords Lane.inOrder).take (4 - s.writer.holding.length) ∧
  t.early = s.early.filter (fun e => (s.lane e.lane).service == .bypassed) ∧
  (∀ parks : Lane → Bool, (∀ l, parks l = true ↔ s.haltParks l) →
    let u := ((c.raises, { code := .engineHalted, value := some (BitVec.ofNat 32 c.code) }) ::
      Lane.inOrder.flatMap (fun l => s.haltReports l (parks l))).foldl State.report s
    t.writer.events = u.writer.events ∧ t.writer.eventSequence = u.writer.eventSequence ∧
    t.summary = u.summary ∧ t.primary = u.primary) ∧
  t.capture = s.capture ∧
  (c = .safety → t.summary.getLsbD 0 = true) ∧ (c = .reverseLimit → t.summary.getLsbD 1 = true) ∧
  (∀ l, s.haltParks l → (s.lane l).haltRecord l ≠ none → t.summary.getLsbD 4 = true)

/-- The serial that the lane's next label start binds (02 R21, R22). -/
def LaneState.bindsSerial (x : LaneState) : Option Serial :=
  match x.window with
  | [] => none
  | e :: _ => if x.service = .active ∧ (e.failed = none ∨ e.word0.outcome.trusted = true) then some e.serial else none

/-- The EARLY_STALE events of a label start that binds a serial (04 R69), in table order (log 12). -/
def State.staleEvents (s : State) (l : Lane) (n : Serial) : List (WebPos × EventBody) :=
  (s.early.filter (fun x => x.lane == l && x.serial != low20 n && !isForward x.serial (low20 n))).map (fun x =>
    (s.web.position, { code := .earlyStale, lane := some l, serial := some (x.serial.setWidth 32),
                       value := some (BitVec.ofNat 32 x.code.code) }))

/-- The early verdict table after a label start of a lane: the entry of the serial it binds is gone, and so is every entry
of the lane that is not forward of it (02 R26, 04 R69). -/
def State.earlyAfterStart (s : State) (l : Lane) : List EarlyEntry :=
  match (s.lane l).bindsSerial with
  | none => s.early
  | some n => s.early.filter (fun x => x.lane != l || isForward x.serial (low20 n))

/-- The early verdict and defect class that a label start of a lane takes: those held for the serial it binds (02 R26). -/
def State.earlyHeld (s : State) (l : Lane) : Verdict × BitVec 4 :=
  match (s.lane l).bindsSerial with
  | none => (.none, 0)
  | some n => (s.early.find? (fun x => x.lane == l && x.serial == low20 n)).elim (.none, 0)
      (fun x => (x.code, x.defect))

/-- A word of a bound entry that fails CHECK, re-offered where it was uncorrectable: the capture, the event at the mark and
the class (09 R155; the raise's position: log 13). -/
def State.wordReoffered (s : State) (l : Lane) (mark : WebPos) (n : Option Serial) (a : Nat) (w : FetchedWord) : State :=
  match w.outcome with
  | .uncorrectable d =>
    ((s.offerUncorrectable (.fetch l) true a d).giveAt mark
      { code := .uncorrectable, lane := some l, serial := n, address := some a,
        value := some (match d with | .multi => 1 | .poison => 2 | .blank => 3) }).raiseClass
      .uncorrectable (some l) n (some a)
  | _ => s

/-- The EARLY_STALE events of a label start given, where it binds a serial. -/
def State.staleReported (s : State) (l : Lane) : State :=
  match (s.lane l).bindsSerial with
  | none => s
  | some n => s.giveEach (s.staleEvents l n)

/-- What a label start of a lane gives and raises with its mark position, before the tracker's own event (02 R20 to R24,
09 R155, 04 R69): nothing but EARLY_STALE for a VALID order or a DRAIN record, ORDER_STARVED where the window has no
complete entry, ORDER_FAULT with its cause for a faulty order. -/
def State.startReported (s : State) (l : Lane) (mark : WebPos) : State :=
  let x := s.lane l
  let s1 := s.staleReported l
  match x.window with
  | [] => if x.service = .active then
      (s1.giveAt mark { code := .orderStarved, lane := some l }).raiseClass .orderStarved (some l) none none
    else s1
  | e :: _ => match e.failed with
    | none => s1
    | some c => if x.service = .active then
        let n := x.bindsSerial
        let base := (s.regions.orderRing.get l).base.toNat + 4 * (e.index.toNat % 2 ^ (s.regions.orderRing.get l).size.toNat)
        let s2 := (s1.giveAt mark { code := .orderFault, lane := some l, serial := n,
                                    value := some (BitVec.ofNat 32 c.code) }).raiseClass .orderFault (some l) n none
        if c = .check then
          (((s2.wordReoffered l mark n base e.word0).wordReoffered l mark n (base + 1) e.word1).wordReoffered l mark n
            (base + 2) e.word2).wordReoffered l mark n (base + 3) e.word3
        else s2
      else s1

/-- What a label start leaves of its lane (01 R9, 02 R20 to R28): one record more at the tail of the queue, with the
label start's origin, mark and flags, the early verdict held for it, its four targets, the order that the lane binds, and
the tracker answered. -/
def LaneState.startedFrom (y x : LaneState) (cfg : Settings) (l : Lane) (t : LabelStart) (splice : Bool)
    (held : Verdict × BitVec 4) (synthetic : Nat) : Prop :=
  ∃ r : LabelRecord, y.queue = x.queue ++ [r] ∧ (r.verdict, r.defect) = held ∧
    r.origin = t.origin ∧ r.mark = t.mark ∧ r.closed = false ∧ r.cutState = .waiting ∧
    r.flags.regFault = t.regFault ∧ r.flags.markMissing = t.markMissing ∧ r.flags.splice = splice ∧
    r.flags.laneFault = false ∧ r.flags.uncut = false ∧ r.flags.joined = false ∧ r.flags.undecided = false ∧
    r.deadline = t.mark + wide cfg.dv ∧ r.cut = t.mark + wide cfg.dk + trimDistance r.trim ∧
    r.confirmLimit = r.cut + wide cfg.kc ∧ r.gate = t.mark + wide cfg.dg ∧
    y.tracker = { tracked := some ⟨t.mark, t.mark + wide r.pitch⟩, synthetic := synthetic, expiryDue := false } ∧
    y.lastBound = r.serial.or x.lastBound ∧
    (x.service ≠ .active → y.window = x.window ∧ r.slot = none ∧ r.serial = none ∧ r.batch = none ∧
      r.flags.drain = true ∧ r.flags.orderless = false ∧ r.flags.orderFault = none ∧
      r.endOfBatch = false ∧ r.samplePull = false ∧ r.void = false ∧
      r.target = cfg.laneTarget.get l ∧ r.trim = 0 ∧ r.pitch = cfg.lanePitch.get l) ∧
    (x.service = .active → x.window = [] → y.window = [] ∧ r.slot = none ∧ r.serial = none ∧ r.batch = none ∧
      r.flags.drain = false ∧ r.flags.orderless = true ∧ r.flags.orderFault = none ∧
      r.endOfBatch = false ∧ r.samplePull = false ∧ r.void = false ∧
      r.target = cfg.laneTarget.get l ∧ r.trim = 0 ∧ r.pitch = cfg.lanePitch.get l) ∧
    (∀ e rest, x.service = .active → x.window = e :: rest → e.failed = none → y.window = rest ∧
      r.slot = some e.index ∧ r.serial = some e.serial ∧ r.batch = some e.batch ∧
      r.flags.drain = false ∧ r.flags.orderless = false ∧ r.flags.orderFault = none ∧
      r.endOfBatch = e.endOfBatch ∧ r.samplePull = e.samplePull ∧ r.void = e.void ∧
      r.target = (if e.override = 0 then cfg.laneTarget.get l else e.override) ∧ r.trim = e.trim ∧
      r.pitch = e.pitch) ∧
    (∀ e rest why, x.service = .active → x.window = e :: rest → e.failed = some why → y.window = rest ∧
      r.slot = some e.index ∧
      r.serial = (if e.word0.outcome.trusted = true then some e.serial else none) ∧
      r.batch = (if e.word1.outcome.trusted = true then some e.batch else none) ∧
      r.flags.drain = false ∧ r.flags.orderless = false ∧ r.flags.orderFault = some why ∧
      r.endOfBatch = (e.word1.outcome.trusted && e.endOfBatch) ∧ r.samplePull = false ∧ r.void = false ∧
      r.target = cfg.laneTarget.get l ∧ r.trim = 0 ∧ r.pitch = cfg.lanePitch.get l)

/-- What does not change in a lane at a label start. -/
def LaneState.startKeeps (y x : LaneState) : Prop :=
  y = { x with queue := y.queue, window := y.window, lastBound := y.lastBound, tracker := y.tracker }

/-- A FAULTED lane as its fault leaves it (02 R30, 03 R55, 05 R86, 07 R120): `q` is its queue at the fault. -/
def LaneState.faultedFrom (y x : LaneState) (q : List LabelRecord) (c : FaultCause) : Prop :=
  y.service = .faulted c ∧ y.queue = q.map (·.flagLaneFault) ∧ y.gate = .reject ∧ y.window = [] ∧
  y.reservation = none ∧ y.release = x.release ∧ y.put = x.put ∧
  y.fetch = x.release + BitVec.ofNat 16 (q.countP (·.holdsOrder)) ∧ y.knifePulse = x.knifePulse

/-- No lane but `l` is ACTIVE or DRAINING, or FAULTED with records queued. -/
def State.othersDone (s : State) (l : Lane) : Prop :=
  ∀ m, m ≠ l → (s.lane m).service ≠ .active ∧ (s.lane m).service ≠ .draining ∧
    ((s.lane m).service.isFaulted = true → (s.lane m).queue = [])

/-- The engine after a fault of lane `l` that was in `s` neither FAULTED nor BYPASSED (07 R116, R120): a RUNNING engine
with no ACTIVE lane left is DRAINING, and a DRAINING one whose lanes have run out is STOPPED; the rest as it was. -/
def State.engineAfterFault (t s : State) (l : Lane) : Prop :=
  t.engine = { s.engine with state := t.engine.state } ∧
  (s.engine.state = .stopped → t.engine.state = .stopped) ∧ (s.engine.state = .halted → t.engine.state = .halted) ∧
  (s.engine.state = .running → (∃ m, m ≠ l ∧ (s.lane m).service = .active) → t.engine.state = .running) ∧
  ((s.engine.state = .draining ∨ s.engine.state = .running ∧ ∀ m, m ≠ l → (s.lane m).service ≠ .active) →
    (s.othersDone l ∧ (t.lane l).queue = [] → t.engine.state = .stopped) ∧
    (¬ (s.othersDone l ∧ (t.lane l).queue = []) → t.engine.state = .draining))

/-! ## Tables that statements spell out -/

/-- What a read that is classified finds (09 R145, R148): its outcome and the data handed on. -/
def State.readsChecked (s : State) (a : Nat) (o : ReadOutcome) (d : Word) : Prop :=
  match classify (s.location a) with
  | .clean => o = .clean ∧ d = (s.location a).data
  | .corrected b => o = .corrected b ∧ d = flipData (s.location a).data b
  | .blank =>
    if s.settings.blankTolerance = true then o = .blank ∧ d = 0
    else o = .uncorrectable .blank ∧ d = (s.location a).data
  | .uncorrectable x => o = .uncorrectable x ∧ d = (s.location a).data

/-- What a read by host, merge or fetch finds: unclassified in check mode OFF and at an EXEMPT address (09 R147). -/
def State.reads (s : State) (a : Nat) (o : ReadOutcome) (d : Word) : Prop :=
  ((s.settings.checkMode = .off ∨ s.addressClass a = .exempt) → o = .clean ∧ d = (s.location a).data) ∧
  (s.settings.checkMode ≠ .off → s.addressClass a ≠ .exempt → s.readsChecked a o d)

/-- An order check passes (03 R48), against the previous serial and the minimum pitch. -/
def WindowEntry.passes (e : WindowEntry) (previous : Option Serial) (pmin : Half) : OrderCheck → Prop
  | .check => ∀ w ∈ [e.word0, e.word1, e.word2, e.word3], ∀ x, w.outcome ≠ .uncorrectable x
  | .sequence => ∀ p, previous = some p → isForward e.word0.data p = true
  | .pitch => pmin.toNat ≤ (e.word2.data.extractLsb' 0 16).toNat
  | .target => (e.word2.data.extractLsb' 16 16).toNat ≤ 9999
  | .trim => -64 ≤ (e.word3.data.extractLsb' 0 8).toInt ∧ (e.word3.data.extractLsb' 0 8).toInt ≤ 63
  | .reserved => e.word1.data.extractLsb' 19 13 = 0#13 ∧ e.word3.data.extractLsb' 8 24 = 0#24

/-- A RUN check, by its number (07 R113), for the lanes that are `named`. -/
def State.runCheck (s : State) (named : Lane → Prop) : Nat → Prop
  | 1 => s.regions.locked = true
  | 2 => ∀ l, named l → (s.regions.orderRing.get l).base ≠ 0
  | 3 => s.regions.stackRing.base ≠ 0
  | 4 => s.regions.eventRing.base ≠ 0
  | 5 => s.settings.dv.toNat + 64 < s.settings.dk.toNat
  | 6 => s.settings.dk.toNat + 63 + s.settings.kc.toNat < s.settings.dg.toNat
  | 7 => s.settings.kc.toNat < s.settings.pmin.toNat
  | 8 => s.settings.dg.toNat ≤ 23 * s.settings.pmin.toNat
  | 9 => s.settings.w.toNat < s.settings.dv.toNat
  | 10 => ∀ l, named l → s.settings.pmin.toNat ≤ (s.settings.lanePitch.get l).toNat
  | 11 => s.engine.safe = false
  | _ => True

/-- A lane that a RUN names and that is eligible (07 R112). -/
def State.runsLane (s : State) (mask : Byte) (l : Lane) : Prop :=
  mask.getLsbD l.number = true ∧ (s.lane l).service = .off ∧ (s.lane l).queue = [] ∧ (s.lane l).parked = none

/-- An address that a mapped region of the region map holds (11 section 11.2). -/
def RegionMap.holds (m : RegionMap) (e : MapEntryName) (a : Nat) : Prop :=
  let region (base size : Nat) : Prop := base ≠ 0 ∧ base ≤ a ∧ a < base + size
  match e with
  | .orderRing l => region (m.orderRing.get l).base.toNat (4 * 2 ^ (m.orderRing.get l).size.toNat)
  | .stackRing => region m.stackRing.base.toNat (32 * 2 ^ m.stackRing.size.toNat)
  | .eventRing => region m.eventRing.base.toNat (4 * 2 ^ m.eventRing.size.toNat)
  | .verdictCells => region m.verdictCells.toNat 16

/-- An exemption window's range meets a mapped region. -/
def ExemptWindow.meets (w : ExemptWindow) (m : RegionMap) : Prop :=
  ∃ (e : MapEntryName) (a : Nat), w.base.toNat ≤ a ∧ a < w.base.toNat + w.size.toNat ∧ m.holds e a

/-- An address that a CLEAR may write (10 R166). -/
def State.clearable (s : State) (a : Nat) : Prop :=
  s.addressClass a ≠ .control ∧ s.addressClass a ≠ .stackRing ∧ s.addressClass a ≠ .eventRing ∧
  ∀ l k, s.addressClass a = .orderSlot l k → (s.lane l).service = .off ∨ (s.lane l).service = .bypassed

end Sys2Proof.Machine
end

