-- ==== Sys2Proof/Certificates/Slice0/Obligations.lean ====
section
/-! DEFINITION. The statements for the provers. `bookkeptAs t` in an equation for the next state `t` says that beside
what the equation writes out only the publication set, the bypass counts and the port's return to FREE may differ. -/

open Sys2Proof Sys2Proof.Machine

/-! ## The machine -/

/-- A step takes the command at the front of the queue and runs it on the state with the queue's rest. -/
def Obligations.StepTakesFrontCommand : Prop :=
  ∀ (c : Instr) (rest : List Instr) (s : State),
    step { s with pending := c :: rest } = exec c { s with pending := rest }

/-- No command stops the machine: every one ends in a next state, and its step takes nothing else from the queue; a step
with an empty queue changes nothing (the model's choice, log 19). -/
def Obligations.EveryCommandEndsInANextState : Prop :=
  (∀ (c : Instr) (s : State), ∃ t, exec c s = .next t ∧ t.pending = s.pending) ∧
  (∀ s : State, s.pending = [] → step s = .next s)

/-- The values that the manual states for power-on, in the state after reset. -/
def Obligations.ResetHoldsPowerOnValues : Prop :=
  State.reset.web.position = 0 ∧ State.reset.web.backlog = 0 ∧
  (∀ l, (State.reset.lane l).service = .off ∧ (State.reset.lane l).tracker.tracked = none ∧
    (State.reset.lane l).tracker.synthetic = 0 ∧ (State.reset.lane l).queue = [] ∧
    (State.reset.lane l).lastBound = none ∧ (State.reset.lane l).put = 0 ∧ (State.reset.lane l).fetch = 0 ∧
    (State.reset.lane l).release = 0 ∧ (State.reset.lane l).window = [] ∧ (State.reset.lane l).reservation = none ∧
    (State.reset.lane l).previousSerial = none ∧ (State.reset.lane l).misses = 0 ∧
    (State.reset.lane l).knifePulse = false ∧ (State.reset.lane l).gate = .reject ∧
    (State.reset.lane l).stacker = .notReady ∧ (State.reset.lane l).openStack = none ∧
    (State.reset.lane l).carry.isEmpty = true ∧ (State.reset.lane l).nextSequence = 1 ∧
    (State.reset.lane l).parked = none) ∧
  State.reset.early = [] ∧ State.reset.engine.state = .stopped ∧ State.reset.engine.cause = none ∧
  State.reset.engine.sequence = 0 ∧ State.reset.engine.code = 0 ∧ State.reset.engine.result = .none ∧
  State.reset.arbiter.grant = none ∧ State.reset.arbiter.lastServed = .memcmd ∧ State.reset.arbiter.lastLane = .l3 ∧
  State.reset.scrubQueue = [] ∧ State.reset.capture.correctable = Capture.empty ∧
  State.reset.capture.uncorrectable = Capture.empty ∧ State.reset.capture.count = 0 ∧
  State.reset.mem.state = .idle ∧ State.reset.mem.walk = none ∧ State.reset.mem.result = .none ∧
  State.reset.settings.dv = 2000 ∧ State.reset.settings.dk = 3000 ∧ State.reset.settings.dg = 4800 ∧
  State.reset.settings.kc = 200 ∧ State.reset.settings.pmin = 300 ∧ State.reset.settings.w = 40 ∧
  (∀ l, State.reset.settings.lanePitch.get l = 600 ∧ State.reset.settings.laneTarget.get l = 500) ∧
  State.reset.settings.reverseLimit = 1000 ∧ State.reset.settings.undecidedPolicy = .reject ∧
  State.reset.settings.checkMode = .checkScrub ∧ State.reset.settings.blankTolerance = false ∧
  State.reset.settings.reportingMode = .label ∧ State.reset.settings.correctableThreshold = 0 ∧
  State.reset.settings.attentionMask = BitVec.allOnes 13 ∧ State.reset.regions.locked = false ∧
  (∀ l, (State.reset.regions.orderRing.get l).mapped = false) ∧ State.reset.regions.stackRing.mapped = false ∧
  State.reset.regions.eventRing.mapped = false ∧ State.reset.regions.verdictCells = 0 ∧
  State.reset.window0.active = false ∧ State.reset.window1.active = false ∧ State.reset.summary = 0 ∧
  State.reset.primary = none ∧ State.reset.writer.holding = [] ∧ State.reset.writer.events = [] ∧
  State.reset.writer.eventSequence = 0 ∧ State.reset.writer.stackWrite = 0 ∧ State.reset.writer.stackRead = 0 ∧
  State.reset.writer.eventWrite = 0 ∧ State.reset.writer.eventRead = 0 ∧ State.reset.writer.publication = [] ∧
  State.reset.attn = false ∧ State.reset.stopReq = false

/-! ## Power and reset -/

/-- POWER_ON sets every block to its power-on state with the lines' levels taken and starts writing the start-up image,
whose words every read of the control page then finds; with SAFE high it leaves the part HALTED, cause SAFETY. Three
clauses are the model's choice, not the manual's: other memory holds a free value of this power-on (log 1), the latched
operands of the memory command unit are 0 (log 15), and no host cycle has ended yet, `hostEnd` none (log 24). -/
def Obligations.PowerOnSetsThePowerOnState : Prop :=
  ∀ (i : InputLines) (s : State), ∃ t, exec (.powerOn i) s = .next t ∧
    (∀ off : Nat, off < 512 → t.location (4193792 + off) = checkedLocation (startUpWord off)) ∧
    t.arbiter.imageWriting = true ∧
    (i.safe = false → t = { State.reset with
      pending := s.pending
      web := { position := 0, backlog := 0, splice := i.splice, refA := i.encA, refB := i.encB }
      powerCycle := s.powerCycle + 1
      arbiter := { State.reset.arbiter with imageWriting := true } }) ∧
    (i.safe = true → t.engine.state = .halted ∧ t.engine.cause = some .safety ∧ t.stopReq = true ∧
      t.summary.getLsbD 0 = true)

/-- START_UP_IMAGE_COMPLETE, only where an image is being written: it frees the arbiter and queues the SPLICE word where
SPLICE is high; then a RESET that was asserted during the image write and still is (the operand), is taken; then a host
cycle held in wait is granted, on the state that the reset leaves (08 R141 names both the reset taken and the cycle granted
at this moment; their order is the model's reading, log 6). -/
def Obligations.ImageCompleteFreesThePort : Prop :=
  ∀ s : State,
    let held (c : Option HostCycle) (v : State) : Host.Outcome State Fault Refusal :=
      match c with
      | none => .next v
      | some (.read a) => exec (.hostRead a) v
      | some (.write a d) => exec (.hostWrite a d) v
      | some (.partialWrite a d be) => exec (.hostPartialWrite a d be) v
    (∀ r, s.arbiter.imageWriting = false → exec (.startUpImageComplete r) s = .next s) ∧
    (s.arbiter.imageWriting = true →
      (s.hostPort = none → ∃ t, exec (.startUpImageComplete none) s = .next t ∧
        t = { s with
          arbiter := { s.arbiter with
            imageWriting := false, resetWaiting := false, fetchBypass := t.arbiter.fetchBypass,
            recordBypass := t.arbiter.recordBypass, memcmdBypass := t.arbiter.memcmdBypass,
            memRequest := t.arbiter.memRequest }
          writer := { s.writer with publication := s.writer.publication ++
            (if s.web.splice && !s.writer.publication.contains 0x005 then [0x005] else []) } }) ∧
      (∀ u, exec (.startUpImageComplete none) { s with hostPort := none } = .next u →
        exec (.startUpImageComplete none) s = held s.hostPort u ∧
        (∀ i, s.arbiter.resetWaiting = false → exec (.startUpImageComplete (some i)) s = held s.hostPort u) ∧
        (∀ i v, s.arbiter.resetWaiting = true → exec (.lineReset i false) u = .next v →
          exec (.startUpImageComplete (some i)) s = held s.hostPort v)))

/-- LINE_RESET with SAFE low, whole: what it resets, what it keeps, and the part-owned words queued in address order;
a host merge it cuts ends ERROR; memory is as it was. During the image write it waits. The model's choices, not the
manual's: that the command says whether it cuts a merge (log 3), that a reset cuts nothing else and may come during the
image write (log 6), the status sequence kept and the result RESET of the memory command unit (log 15), and how the last
host cycle ended, `hostEnd`, which is kept and becomes ERROR where a merge is cut (log 24). -/
def Obligations.LineResetResetsAndKeeps : Prop :=
  ∀ (i : InputLines) (cut : Bool) (s : State),
    (s.arbiter.imageWriting = true → exec (.lineReset i cut) s =
      .next { s with arbiter := { s.arbiter with resetWaiting := true } }) ∧
    (s.arbiter.imageWriting = false → i.safe = true → ∃ t, exec (.lineReset i cut) s = .next t ∧
      t.engine.state = .halted ∧ t.engine.cause = some .safety ∧ t.stopReq = true ∧ s.sameMemory t) ∧
    (s.arbiter.imageWriting = false → i.safe = false → ∃ t, exec (.lineReset i cut) s = .next t ∧ s.sameMemory t ∧
      (∀ l, t.lane l = { LaneState.initial with
        service := (if (s.lane l).service = .bypassed then .bypassed else .off)
        put := (s.lane l).put, fetch := (s.lane l).put, release := (s.lane l).put }) ∧
      t = { s with
        web := { position := 0, backlog := 0, splice := i.splice, refA := i.encA, refB := i.encB }
        lanes := t.lanes
        early := []
        engine := { state := .stopped, cause := none, safe := false, sequence := 0, code := 0, result := .reset,
                    detail := 0 }
        arbiter := { grant := none, lock := false, fetchBypass := 0, recordBypass := 0, memcmdBypass := 0,
                     memRequest := none, lastServed := .memcmd, lastLane := .l3, imageWriting := false, resetWaiting := false }
        scrubQueue := []
        mem := { s.mem with state := .idle, result := .reset, lastRefusal := none, lastKind := .walk }
        hostEnd := (if cut then some ⟨false, none⟩ else s.hostEnd)
        writer := { s.writer with
          holding := [], stackWrite := s.writer.stackRead, stackWords := 0, events := [],
          eventWrite := s.writer.eventRead, eventWords := 0, publication := publishedOffsets,
          lastKind := .status } })

/-! ## Web position (01) -/

/-- An encoder transition. A forward tick with no backlog advances the web position by one and marks, in every lane, each
target of a queued record and the expiry of a tracker in service that the new position equals; nothing else changes. With
a backlog it pays back one tick; a reverse tick raises the backlog (holding at 65,536) and reaches the engine only above
the limit under a RUNNING or DRAINING engine; a double step gives ENCODER_DOUBLE_STEP; and a pair equal to the reference
changes nothing (log 23). -/
def Obligations.EncoderTransitions : Prop :=
  ∀ (a b : Bool) (s : State),
    ((a, b) = nextPair (s.web.refA, s.web.refB) → s.web.backlog = 0 →
      ∃ t, exec (.encoderTransition a b) s = .next t ∧ s.sameMemory t ∧
        t = ({ s with
          web := { s.web with position := s.web.position + 1, refA := a, refB := b }
          lanes := t.lanes }).bookkeptAs t ∧
        ∀ l, t.lane l = { s.lane l with
          queue := (s.lane l).queue.map (fun r => { r with due :=
            { deadline := r.due.deadline || r.deadline == s.web.position + 1
              cut := r.due.cut || r.cut == s.web.position + 1
              confirmLimit := r.due.confirmLimit || r.confirmLimit == s.web.position + 1
              gate := r.due.gate || r.gate == s.web.position + 1 } })
          tracker := { (s.lane l).tracker with expiryDue := (s.lane l).tracker.expiryDue ||
            (s.inService l && (s.lane l).tracker.tracked.any
              (fun k => k.pred + wide s.settings.w == s.web.position + 1)) } }) ∧
    ((a, b) = nextPair (s.web.refA, s.web.refB) → 0 < s.web.backlog →
      ∃ t, exec (.encoderTransition a b) s = .next t ∧ s.sameMemory t ∧
        t = ({ s with web := { s.web with backlog := s.web.backlog - 1, refA := a, refB := b } }).bookkeptAs t) ∧
    (nextPair (a, b) = (s.web.refA, s.web.refB) →
      (s.engineGoing = false ∨ min (s.web.backlog + 1) 65536 ≤ s.settings.reverseLimit.toNat) →
      s.web.backlog ≤ 65536 →
      ∃ t, exec (.encoderTransition a b) s = .next t ∧ s.sameMemory t ∧
        t = ({ s with web := { s.web with
          backlog := min (s.web.backlog + 1) 65536, refA := a, refB := b } }).bookkeptAs t) ∧
    (a ≠ s.web.refA → b ≠ s.web.refB →
      ∃ t, exec (.encoderTransition a b) s = .next t ∧ s.sameMemory t ∧
        t = (({ s with web := { s.web with refA := a, refB := b } }).give
          { code := .encoderDoubleStep }).bookkeptAs t) ∧
    (a = s.web.refA → b = s.web.refB →
      ∃ t, exec (.encoderTransition a b) s = .next t ∧ s.sameMemory t ∧ t = s.bookkeptAs t)

/-- Status publication. Outside the record words, a step places in the publication set exactly the part-owned words whose
value it changed (log 9), by rising address, each only if it is not there already; a walk word, where it changes the state or
the result, leaves the memory command status word as the last of all (log 34). The record writer's own index words do not
enter with the words of a record (log 10). POWER_ON under a high SAFE places what its halt changed, and LINE_RESET every
word. Only the status writes take words out. -/
def Obligations.ChangedWordsEnterThePublicationSet : Prop :=
  publishedOffsets.Pairwise (· < ·) ∧
  (∀ o, o ∈ publishedOffsets ↔ 0x002 ≤ o ∧ o ≤ 0x006 ∨ o = 0x011 ∨ 0x024 ≤ o ∧ o ≤ 0x02C ∨
    o ∈ [0x081, 0x082, 0x085, 0x086, 0x089, 0x08A, 0x08D, 0x08E, 0x090, 0x092] ∨ 0x0A0 ≤ o ∧ o ≤ 0x0A9 ∨
    0x0D0 ≤ o ∧ o ≤ 0x0FF) ∧
  (∀ (c : Instr) (s t : State), exec c s = .next t →
    (resetRow c = false → grantRow c = false → (hostCycleRow c = true → s.portReady = true → s.owed = none) →
      t.writer.publication = s.publicationWith (s.wordsChanged t)) ∧
    (c = .fetchRead → t.writer.publication = s.publicationWith (s.wordsChanged t)) ∧
    (c ∈ [Instr.stackRecordWord, .stackPublicationComplete, .eventRecordWord, .eventPublicationComplete] →
      t.writer.publication =
        s.publicationWith ((s.wordsChanged t).filter (fun o => o != 0x090 && o != 0x092))) ∧
    (c ∈ [Instr.scrub, .verifyWord, .clearWord] →
      (s.mem.state = t.mem.state → s.mem.result = t.mem.result →
        t.writer.publication = s.publicationWith (s.wordsChanged t)) ∧
      (¬ (s.mem.state = t.mem.state ∧ s.mem.result = t.mem.result) →
        t.writer.publication = (s.publicationWith (s.wordsChanged t)).filter (· != 0x024) ++ [0x024]))) ∧
  (∀ (i : InputLines) (s t u : State), exec (.powerOn i) s = .next t →
    exec (.powerOn { i with safe := false }) s = .next u → t.writer.publication = u.wordsChanged t) ∧
  (∀ (i : InputLines) (m : Bool) (s t : State), s.arbiter.imageWriting = false → exec (.lineReset i m) s = .next t →
    t.writer.publication = publishedOffsets)

/-- A rise of SPLICE flags, in every lane, the queued records whose mark plus pitch used is forward of the position,
and gives SPLICE_START; a fall sets the level alone; a level already taken changes nothing (log 23). -/
def Obligations.SpliceLevels : Prop :=
  ∀ s : State,
    (s.web.splice = false → ∃ t, exec .spliceStart s = .next t ∧ s.sameMemory t ∧
      (∀ l, t.lane l = { s.lane l with queue := (s.lane l).queue.map (fun r =>
        if isForward (r.mark + wide r.pitch) s.web.position
        then { r with flags := { r.flags with splice := true } } else r) }) ∧
      t = (({ s with web := { s.web with splice := true }, lanes := t.lanes }).give
        { code := .spliceStart }).bookkeptAs t) ∧
    (s.web.splice = true → ∃ t, exec .spliceStart s = .next t ∧ t = s.bookkeptAs t) ∧
    (∃ t, exec .spliceFall s = .next t ∧ s.sameMemory t ∧
      t = ({ s with web := { s.web with splice := false } }).bookkeptAs t)

/-- A MARK pulse of a lane not in service has no effect; with a backlog it gives MARK_BACKLOG alone; less than Pmin
past the last mark it gives SPURIOUS_MARK alone. -/
def Obligations.MarksNotTaken : Prop :=
  ∀ (l : Lane) (s : State),
    (s.inService l = false → ∃ t, exec (.markEvent l) s = .next t ∧ t = s.bookkeptAs t) ∧
    (s.inService l = true → s.web.backlog ≠ 0 → ∃ t, exec (.markEvent l) s = .next t ∧
      t = (s.give { code := .markBacklog, lane := some l,
                    value := some (BitVec.ofNat 32 s.web.backlog) }).bookkeptAs t) ∧
    (∀ k : Tracked, s.inService l = true → s.web.backlog = 0 → (s.lane l).tracker.tracked = some k →
      (s.web.position - k.lastMark).toNat < s.settings.pmin.toNat →
      ∃ t, exec (.markEvent l) s = .next t ∧
        t = (s.give { code := .spuriousMark, lane := some l,
                      value := some (s.web.position - k.lastMark) }).bookkeptAs t)

/-- A MARK pulse taken in SEEKING, or in TRACKING at least Pmin past the last mark, starts a SENSED label at the web
position, off-register exactly when the lower edge of the window is forward of it, and clears the synthetic count. It
takes the early verdict held for the serial it binds, and reports with its mark position EARLY_STALE, ORDER_STARVED,
ORDER_FAULT with the words re-offered, and then OFF_REGISTER with its distance from the prediction (the order of the
events: log 12; the position in the primary record: log 13). Nothing else changes. -/
def Obligations.MarkStartsLabel : Prop :=
  ∀ (l : Lane) (s : State), s.inService l = true → s.web.backlog = 0 →
    (∀ k, (s.lane l).tracker.tracked = some k → s.settings.pmin.toNat ≤ (s.web.position - k.lastMark).toNat) →
    ∃ (t u e : State), exec (.markEvent l) s = .next t ∧ s.sameMemory t ∧ t = u.bookkeptAs t ∧
      u = { e with lanes := u.lanes, early := s.earlyAfterStart l } ∧
      ((∀ k, (s.lane l).tracker.tracked = some k → isForward (k.pred - wide s.settings.w) s.web.position = false) →
        e = s.startReported l s.web.position) ∧
      (∀ k, (s.lane l).tracker.tracked = some k → isForward (k.pred - wide s.settings.w) s.web.position = true →
        e = (s.startReported l s.web.position).giveAt s.web.position
          { code := .offRegister, lane := some l, serial := (s.lane l).bindsSerial,
            value := some (s.web.position - k.pred) }) ∧
      (∀ m, m ≠ l → u.lane m = s.lane m) ∧ (u.lane l).startKeeps (s.lane l) ∧
      (u.lane l).startedFrom (s.lane l) s.settings l
        { origin := .sensed, mark := s.web.position, markMissing := false,
          regFault := (s.lane l).tracker.tracked.any
            (fun k => isForward (k.pred - wide s.settings.w) s.web.position) } s.web.splice (s.earlyHeld l) 0

/-- A reached mark-window expiry of a lane in service starts a SYNTHETIC label at pred, carrying MARK_MISSING, and
raises the consecutive-synthetic count. With its mark position it reports EARLY_STALE, ORDER_STARVED, ORDER_FAULT with the
words re-offered, and then MARK_MISSING with the count (the order of the events: log 12; the position in the primary
record: log 13). At a count of 1 or 2 that is all: other lanes, engine, holding list and memory stay. A third consecutive
synthetic label then faults its lane with cause TRACKING_LOST: the new record is queued and flagged LANE_FAULT with the
rest, the tracker keeps its count of 3, the engine runs out as its lanes allow, and STOPREQ is asserted. -/
def Obligations.ExpiryStartsSyntheticLabel : Prop :=
  ∀ (l : Lane) (s : State) (k : Tracked), s.inService l = true → (s.lane l).tracker.expiryDue = true →
    (s.lane l).tracker.tracked = some k → (s.lane l).tracker.synthetic ≤ 2 →
    ∃ (t u e : State), exec (.markWindowExpiry l) s = .next t ∧ s.sameMemory t ∧
      e = (s.startReported l k.pred).giveAt k.pred
        { code := .markMissing, lane := some l, serial := (s.lane l).bindsSerial,
          value := some (BitVec.ofNat 32 ((s.lane l).tracker.synthetic + 1)) } ∧
      u = { e with lanes := u.lanes, early := s.earlyAfterStart l } ∧
      (∀ m, m ≠ l → u.lane m = s.lane m) ∧ (u.lane l).startKeeps (s.lane l) ∧
      (u.lane l).startedFrom (s.lane l) s.settings l
        { origin := .synthetic, mark := k.pred, regFault := false, markMissing := true } s.web.splice (s.earlyHeld l)
        ((s.lane l).tracker.synthetic + 1) ∧
      ((s.lane l).tracker.synthetic < 2 → t = u.bookkeptAs t) ∧
      ((s.lane l).tracker.synthetic = 2 → t = (u.laneFault l .trackingLost).bookkeptAs t ∧
        (t.lane l).faultedFrom (s.lane l) (u.lane l).queue .trackingLost ∧ (t.lane l).tracker = (u.lane l).tracker ∧
        t.early = s.early.filter (fun x => x.lane != l) ∧ t.stopReq = true ∧ t.summary.getLsbD 2 = true ∧
        t.engineAfterFault s l ∧ ∀ m, m ≠ l → t.lane m = s.lane m)

/-- At a label start, by an accepted mark in SEEKING or TRACKING or by a reached expiry (here of a first or second
synthetic label; a third one's lane fault then discards the lane's entries), the lane binds the serial of its oldest entry
if it is ACTIVE and that entry is VALID, or faulty with a trusted word 0. The early verdict held for the serial's low 20
bits is then merged into the new record and its entry removed; every entry of the lane that is not forward of the serial
is evicted, with EARLY_STALE before the label start's other events; other entries stay. A label start that binds no serial
takes and evicts nothing. -/
def Obligations.BindingMergesAndEvictsEarlyVerdicts : Prop :=
  ∀ (l : Lane) (s t : State), s.inService l = true →
    (s.web.backlog = 0 ∧ (∀ k, (s.lane l).tracker.tracked = some k →
          s.settings.pmin.toNat ≤ (s.web.position - k.lastMark).toNat) ∧
        exec (.markEvent l) s = .next t ∨
      (s.lane l).tracker.expiryDue = true ∧ (s.lane l).tracker.tracked ≠ none ∧ (s.lane l).tracker.synthetic < 2 ∧
        exec (.markWindowExpiry l) s = .next t) →
    (∀ (n : Serial) (w : WindowEntry) (rest : List WindowEntry), (s.lane l).service = .active →
      (s.lane l).window = w :: rest → (w.failed = none ∨ w.word0.outcome.trusted = true) → n = w.word0.data →
      t.early = s.early.filter (fun x => x.lane != l || isForward x.serial (low20 n)) ∧
      (∃ q r, (t.lane l).queue = q ++ [r] ∧ r.serial = some n ∧
        (r.verdict, r.defect) =
          ((s.early.find? (fun x => x.lane == l && x.serial == low20 n)).elim (Verdict.none, 0)
            (fun x => (x.code, x.defect)))) ∧
      ∃ es, t.writer.events = (s.giveEach (s.staleEvents l n ++ es)).writer.events ∧
        t.writer.eventSequence = (s.giveEach (s.staleEvents l n ++ es)).writer.eventSequence) ∧
    (((s.lane l).service ≠ .active ∨ (s.lane l).window = [] ∨
        ∃ w rest, (s.lane l).window = w :: rest ∧ w.failed ≠ none ∧ w.word0.outcome.trusted = false) →
      t.early = s.early ∧
      ∃ q r, (t.lane l).queue = q ++ [r] ∧ r.serial = none ∧ r.verdict = .none ∧ r.defect = 0)

/-! ## A label's targets, knives and lines (04, 05, 06) -/

/-- A deadline event closes the verdict of the lane's oldest record at its deadline; a record without a verdict takes
the undecided policy's, with defect class 0, UNDECIDED and the event VERDICT_UNDECIDED. -/
def Obligations.DeadlineClosesTheVerdict : Prop :=
  ∀ (l : Lane) (s : State) (before after : List LabelRecord) (r : LabelRecord),
    (s.lane l).queue = before ++ r :: after → (∀ x ∈ before, x.due.deadline = false) → r.due.deadline = true →
    (r.verdict ≠ .none → ∃ t, exec (.deadlineEvent l) s = .next t ∧ s.sameMemory t ∧
      t = (s.setLane l { s.lane l with queue := before ++
        { r with closed := true, due := { r.due with deadline := false } } :: after }).bookkeptAs t) ∧
    (∀ v, r.verdict = .none → v = (if s.settings.undecidedPolicy = .pass then Verdict.good else .reject) →
      ∃ t, exec (.deadlineEvent l) s = .next t ∧ s.sameMemory t ∧
        t = ((s.setLane l { s.lane l with queue := before ++
          { r with
            closed := true, verdict := v, defect := 0, flags := { r.flags with undecided := true },
            due := { r.due with deadline := false } } :: after }).give
          { code := .verdictUndecided, lane := some l, serial := r.serial,
            value := some (BitVec.ofNat 32 v.code) }).bookkeptAs t)

/-- A cut event fires the knife at a WAITING record when the engine is RUNNING or DRAINING, the lane ACTIVE, DRAINING
or OFF, and SAFE low; otherwise the record is INHIBITED, with LANE_FAULT where the lane is FAULTED. -/
def Obligations.CutFiresOrIsInhibited : Prop :=
  ∀ (l : Lane) (s : State) (before after : List LabelRecord) (r : LabelRecord),
    (s.lane l).queue = before ++ r :: after → (∀ x ∈ before, x.due.cut = false) → r.due.cut = true →
    r.cutState = .waiting →
    ((s.engine.state = .running ∨ s.engine.state = .draining) →
      ((s.lane l).service = .active ∨ (s.lane l).service = .draining ∨ (s.lane l).service = .off) →
      s.engine.safe = false → ∃ t, exec (.cutEvent l) s = .next t ∧ s.sameMemory t ∧
        t = (s.setLane l { s.lane l with
          knifePulse := true
          queue := before ++ { r with cutState := .fired, due := { r.due with cut := false } } :: after }).bookkeptAs t) ∧
    (¬ ((s.engine.state = .running ∨ s.engine.state = .draining) ∧
        ((s.lane l).service = .active ∨ (s.lane l).service = .draining ∨ (s.lane l).service = .off) ∧
        s.engine.safe = false) →
      ∃ t, exec (.cutEvent l) s = .next t ∧ s.sameMemory t ∧
        t = (s.setLane l { s.lane l with
          queue := before ++ { r with
            cutState := .inhibited
            flags := { r.flags with laneFault := r.flags.laneFault || (s.lane l).service.isFaulted }
            due := { r.due with cut := false } } :: after }).bookkeptAs t)

/-- A pulse on KDONE confirms the oldest FIRED record and clears the miss count; with none FIRED it gives KDONE_STRAY
and changes nothing; in every engine and lane state. -/
def Obligations.KdoneConfirmsTheOldestFired : Prop :=
  ∀ (l : Lane) (s : State),
    (∀ (before after : List LabelRecord) (r : LabelRecord), (s.lane l).queue = before ++ r :: after →
      (∀ x ∈ before, x.cutState ≠ .fired) → r.cutState = .fired →
      ∃ t, exec (.kdone l) s = .next t ∧ s.sameMemory t ∧
        t = (s.setLane l { s.lane l with
          misses := 0
          queue := before ++ { r with cutState := .confirmed } :: after }).bookkeptAs t) ∧
    ((∀ x ∈ (s.lane l).queue, x.cutState ≠ .fired) → ∃ t, exec (.kdone l) s = .next t ∧ s.sameMemory t ∧
      t = (s.give { code := .kdoneStray, lane := some l }).bookkeptAs t)

/-- The confirm limit of a FIRED record, where the miss faults no lane: the record is MISSED and UNCUT, its follower, if
any, JOINED, the miss counted, and KNIFE_MISSED given. The confirm limit of a record that is not FIRED is taken without
effect. -/
def Obligations.ConfirmLimitMissesTheFiredRecord : Prop :=
  ∀ (l : Lane) (s : State) (before after : List LabelRecord) (r : LabelRecord) (n : Nat),
    (s.lane l).queue = before ++ r :: after → (∀ x ∈ before, x.due.confirmLimit = false) →
    r.due.confirmLimit = true →
    (r.cutState = .fired → n = min ((s.lane l).misses + 1) 2 → (s.lane l).misses ≤ 2 →
      (n = 1 ∨ (s.lane l).service.isFaulted = true ∨ (s.lane l).service = .bypassed) →
      ∃ t, exec (.confirmLimitEvent l) s = .next t ∧ s.sameMemory t ∧
        t = ((s.setLane l { s.lane l with
          misses := n
          queue := before ++
            { r with
              cutState := .missed, flags := { r.flags with uncut := true },
              due := { r.due with confirmLimit := false } } ::
            (match after with
              | [] => []
              | f :: fs => { f with flags := { f.flags with joined := true } } :: fs) }).give
          { code := .knifeMissed, lane := some l, serial := r.serial,
            value := some (BitVec.ofNat 32 n) }).bookkeptAs t) ∧
    (r.cutState ≠ .fired → ∃ t, exec (.confirmLimitEvent l) s = .next t ∧ s.sameMemory t ∧
      t = (s.setLane l { s.lane l with
        queue := before ++ { r with due := { r.due with confirmLimit := false } } :: after }).bookkeptAs t)

/-- A lane fault, by the lane's service state. A BYPASSED lane takes none; in a FAULTED lane LANE_FAULTED is given and its
class raised, and the first cause stays. A lane that is OFF, ACTIVE or DRAINING becomes FAULTED with its queue flagged
LANE_FAULT and GATE at REJECT; the fault is announced, the window rewound, the early entries discarded, the run-out
completed where the queue is empty, and the engine settled. So a second consecutive miss (and a miss with the count at 2
already, where the model raises KNIFE again: log 31) faults an ACTIVE, DRAINING or OFF lane with cause KNIFE and then gives
KNIFE_MISSED; that it comes as a command of its own is log 4, the order of the events log 12. -/
def Obligations.LaneFaultsAndTheSecondMiss : Prop :=
  (∀ (s : State) (l : Lane) (c : FaultCause) (d : State),
    let x := s.lane l
    let faulted : EventBody := { code := .laneFaulted, lane := some l, value := some (BitVec.ofNat 32 c.code) }
    d = (((s.setLane l { x with
      service := .faulted c
      queue := x.queue.map (fun r => { r with flags := { r.flags with laneFault := true } })
      gate := .reject }).giveRaise .laneFault faulted).rewind l).discardEarly l →
    (x.service = .bypassed → s.laneFault l c = s) ∧
    (∀ k, x.service = .faulted k → s.laneFault l c = s.giveRaise .laneFault faulted) ∧
    ((x.service = .off ∨ x.service = .active ∨ x.service = .draining) →
      s.laneFault l c = (if x.queue = [] then d.runOutComplete l else d).settleEngine)) ∧
  (∀ e : State,
    (e.engine.state = .running → (∀ m, (e.lane m).service ≠ .active) →
      e.settleEngine = State.testStopped { e with engine := { e.engine with state := .draining } }) ∧
    ((e.engine.state ≠ .running ∨ ∃ m, (e.lane m).service = .active) → e.settleEngine = e.testStopped)) ∧
  (∀ (l : Lane) (s : State) (before after : List LabelRecord) (r : LabelRecord),
    (s.lane l).queue = before ++ r :: after → (∀ x ∈ before, x.due.confirmLimit = false) →
    r.due.confirmLimit = true → r.cutState = .fired → ((s.lane l).misses = 1 ∨ (s.lane l).misses = 2) →
    ((s.lane l).service = .active ∨ (s.lane l).service = .draining ∨ (s.lane l).service = .off) →
    ∃ t q, exec (.confirmLimitEvent l) s = .next t ∧
      q = before ++
        { r with
          cutState := .missed, flags := { r.flags with uncut := true },
          due := { r.due with confirmLimit := false } } ::
        (match after with
          | [] => []
          | f :: fs => { f with flags := { f.flags with joined := true } } :: fs) ∧
      t = (((s.setLane l { s.lane l with misses := 2, queue := q }).laneFault l .knife).give
        { code := .knifeMissed, lane := some l, serial := r.serial, value := some 2 }).bookkeptAs t ∧
      (t.lane l).faultedFrom (s.lane l) q .knife ∧ (t.lane l).misses = 2 ∧ (∀ e ∈ t.early, e.lane ≠ l) ∧
      t.stopReq = true ∧ t.summary.getLsbD 2 = true ∧ t.engineAfterFault s l ∧ s.sameMemory t ∧
      t = (s.labelWorkAs t).bookkeptAs t ∧ ∀ m, m ≠ l → t.lane m = s.lane m)

/-- The ends of the KNIFE and TRAY pulses and a fall of SAFE change their own line alone. -/
def Obligations.PulseEndsAndSafeFall : Prop :=
  ∀ (l : Lane) (s : State),
    (∃ t, exec (.knifePulseEnd l) s = .next t ∧ s.sameMemory t ∧
      t = (s.setLane l { s.lane l with knifePulse := false }).bookkeptAs t) ∧
    (∃ t, exec (.trayPulseEnd l) s = .next t ∧ s.sameMemory t ∧
      t = (s.setLane l { s.lane l with trayPulse := false }).bookkeptAs t) ∧
    (∃ t, exec .safeFall s = .next t ∧ s.sameMemory t ∧
      t = ({ s with engine := { s.engine with safe := false } }).bookkeptAs t)

/-- A pulse on TRAY-READY makes a NOT_READY stacker FILLING(A) and a TRANSFERRING one FILLING of the other tray; while
FILLING it gives TRAY_READY_STRAY alone; it opens no stack; in every engine and lane state. -/
def Obligations.TrayReadyFillsTheNextTray : Prop :=
  ∀ (l : Lane) (s : State),
    ((s.lane l).stacker = .notReady → ∃ t, exec (.trayReady l) s = .next t ∧ s.sameMemory t ∧
      t = (s.setLane l { s.lane l with stacker := .filling .a }).bookkeptAs t) ∧
    ((s.lane l).stacker = .transferring .a → ∃ t, exec (.trayReady l) s = .next t ∧ s.sameMemory t ∧
      t = (s.setLane l { s.lane l with stacker := .filling .b }).bookkeptAs t) ∧
    ((s.lane l).stacker = .transferring .b → ∃ t, exec (.trayReady l) s = .next t ∧ s.sameMemory t ∧
      t = (s.setLane l { s.lane l with stacker := .filling .a }).bookkeptAs t) ∧
    (∀ k, (s.lane l).stacker = .filling k → ∃ t, exec (.trayReady l) s = .next t ∧ s.sameMemory t ∧
      t = (s.give { code := .trayReadyStray, lane := some l }).bookkeptAs t)

/-! ## The gate event and the stack assembler (02, 05, 06) -/

/-- A record's fate is decided by the first of five tests that applies. -/
def Obligations.FateIsTheFirstTestThatApplies : Prop :=
  ∀ r : LabelRecord,
    ((r.flags.regFault = true ∨ r.flags.markMissing = true ∨ r.flags.splice = true ∨ r.flags.orderless = true ∨
        r.flags.orderFault.isSome = true ∨ r.flags.laneFault = true ∨ r.flags.drain = true ∨ r.flags.uncut = true ∨
        r.flags.joined = true) → r.fate = .reject .fault) ∧
    (r.flags.anyFault = false → r.void = true → r.fate = .reject .void) ∧
    (r.flags.anyFault = false → r.void = false → r.verdict = .reject → r.fate = .reject .reject) ∧
    (r.flags.anyFault = false → r.void = false → r.verdict ≠ .reject → (r.verdict = .sample ∨ r.samplePull = true) →
      r.fate = .sample) ∧
    (r.flags.anyFault = false → r.void = false → r.verdict ≠ .reject → r.verdict ≠ .sample → r.samplePull = false →
      r.fate = .stack)

/-- A gate event whose label is rejected or sampled: the head record leaves, its slot is released, GATE stands as decided,
and the label is listed in the open stack, or in the carry list where none is open; a list takes 12 entries with a serial,
then counts the overflow, and counts labels without a serial apart. Then come the close test and the drain or run-out
completion. With no END_OF_BATCH and no close, drain or run-out due that is all. With END_OF_BATCH and no stack open the
carry list becomes a record of count 0, here with room in the holding list. -/
def Obligations.GateListsTheRejectedLabel : Prop :=
  (∀ (c : Shortfall) (m : MissingItem),
    (∀ n, m.serial = some n → c.entries.length < 12 →
      c.list m = { c with entries := c.entries ++
        [{ serial := n, reason := m.reason, defect := m.defect, undecided := m.undecided }] }) ∧
    (m.serial ≠ none → 12 ≤ c.entries.length → c.overflow ≤ 65535 →
      c.list m = { c with overflow := min (c.overflow + 1) 65535 }) ∧
    (m.serial = none → c.unordered ≤ 65535 → c.list m = { c with unordered := min (c.unordered + 1) 65535 })) ∧
  (∀ (l : Lane) (s u : State) (r : LabelRecord) (rest : List LabelRecord) (g : Gate) (why : MissingReason),
    (s.lane l).queue = r :: rest → r.due.gate = true →
    (r.fate = .reject why ∧ g = .reject ∨ r.fate = .sample ∧ g = .sample ∧ why = .sample) →
    let x := s.lane l
    let head : LaneState := { x with
      queue := rest
      departed := x.departed + 1
      release := if r.slot.isSome then x.release + 1 else x.release }
    let list : Shortfall := x.carry.list ⟨r.serial, why, r.defect, r.flags.undecided⟩
    u = s.setLane l { head with
      gate := g
      openStack := x.openStack.map
        (fun k => { k with short := k.short.list ⟨r.serial, why, r.defect, r.flags.undecided⟩ })
      carry := if x.openStack.isNone then list else x.carry } →
    (s.setLane l head).takeItem l r = u ∧
    ∃ t, exec (.gateEvent l) s = .next t ∧ s.sameMemory t ∧ t = ((u.testClose l r).afterGate l).bookkeptAs t ∧
      (¬ (x.service = .draining ∧ rest.countP (·.holdsOrder) = 0) → ¬ (x.service.isFaulted = true ∧ rest = []) →
        (r.endOfBatch = false → (∀ k, x.openStack = some k → k.count ≠ k.target.toNat) → t = u.bookkeptAs t) ∧
        (r.endOfBatch = true → x.openStack = none → x.parked = none → s.writer.holding.length < 4 →
          t = (((u.setLane l { u.lane l with
              carry := { entries := [], overflow := 0, unordered := 0 }
              nextSequence := x.nextSequence + 1 }).holdingAs (s.writer.holding ++
                [{ lane := l, tray := none, sequence := x.nextSequence, batch := none, reason := .batchEnd, count := 0,
                   first := none, last := none, short := list }])).give
            { code := .stackClosed, lane := some l, address := some 2,
              value := some (x.nextSequence.setWidth 32) }).bookkeptAs t)))

/-- A STACK label under a FILLING stacker, with no stack open or one of its batch, is delivered: the stack opens with the
next sequence number, the tray and the whole carry list, the count rises, and GATE stands at STACK. Then come the close
test and the drain or run-out completion; below the target, with no END_OF_BATCH and neither due, that is all. -/
def Obligations.GateDeliversTheLabel : Prop :=
  ∀ (l : Lane) (s u : State) (r : LabelRecord) (rest : List LabelRecord) (tray : Tray) (batch : Half) (k : OpenStack),
    (s.lane l).queue = r :: rest → r.due.gate = true → r.fate = .stack → r.batch = some batch →
    (s.lane l).stacker = .filling tray →
    ((s.lane l).openStack = some k ∧ k.batch = batch ∨
      (s.lane l).openStack = none ∧
        k = { sequence := (s.lane l).nextSequence, tray := tray, batch := batch, target := r.target, count := 0,
              first := none, last := none, short := (s.lane l).carry }) →
    let x := s.lane l
    let head : LaneState := { x with
      queue := rest
      departed := x.departed + 1
      release := if r.slot.isSome then x.release + 1 else x.release }
    u = s.setLane l { head with
      gate := .stack
      openStack := some { k with
        count := k.count + 1
        first := if k.first.isSome then k.first else r.serial
        last := if r.serial.isSome then r.serial else k.last }
      carry := if x.openStack.isSome then x.carry else { entries := [], overflow := 0, unordered := 0 }
      nextSequence := if x.openStack.isSome then x.nextSequence else x.nextSequence + 1 } →
    (s.setLane l head).takeItem l r = u ∧
    ∃ t, exec (.gateEvent l) s = .next t ∧ s.sameMemory t ∧ t = ((u.testClose l r).afterGate l).bookkeptAs t ∧
      (r.endOfBatch = false → k.count + 1 ≠ k.target.toNat →
        ¬ (x.service = .draining ∧ rest.countP (·.holdsOrder) = 0) →
        ¬ (x.service.isFaulted = true ∧ rest = []) → t = u.bookkeptAs t)

/-- The close test after a gate event's item: END_OF_BATCH closes with BATCH_END; else a stack open with its count equal to
its target closes with COUNT; else nothing closes. So a STACK label delivered with END_OF_BATCH, or that brings the count to
the target, closes its stack, also one that it has itself opened, here with room in the holding list and no drain or
run-out due: the record joins the list, TRAY pulses, the stacker is TRANSFERRING, and STACK_CLOSED is given. -/
def Obligations.GateClosesTheFullStack : Prop :=
  (∀ (l : Lane) (s : State) (r : LabelRecord),
    (r.endOfBatch = true → s.testClose l r = s.closeAndFault l .batchEnd) ∧
    (∀ k, r.endOfBatch = false → (s.lane l).openStack = some k → k.count = k.target.toNat →
      s.testClose l r = s.closeAndFault l .count) ∧
    (r.endOfBatch = false → (∀ k, (s.lane l).openStack = some k → k.count ≠ k.target.toNat) →
      s.testClose l r = s)) ∧
  (∀ (l : Lane) (s : State) (r : LabelRecord) (rest : List LabelRecord) (tray : Tray) (batch : Half) (k k' : OpenStack)
      (why : CloseReason),
    (s.lane l).queue = r :: rest → r.due.gate = true → r.fate = .stack → r.batch = some batch →
    (s.lane l).stacker = .filling tray →
    ((s.lane l).openStack = some k ∧ k.batch = batch ∨
      (s.lane l).openStack = none ∧
        k = { sequence := (s.lane l).nextSequence, tray := tray, batch := batch, target := r.target, count := 0,
              first := none, last := none, short := (s.lane l).carry }) →
    (r.endOfBatch = true ∧ why = .batchEnd ∨
      r.endOfBatch = false ∧ k.count + 1 = k.target.toNat ∧ why = .count) →
    s.writer.holding.length < 4 → ¬ ((s.lane l).service = .draining ∧ rest.countP (·.holdsOrder) = 0) →
    ¬ ((s.lane l).service.isFaulted = true ∧ rest = []) →
    k' = { k with
      count := k.count + 1
      first := (if k.first.isSome then k.first else r.serial)
      last := (if r.serial.isSome then r.serial else k.last) } →
    let x := s.lane l
    ∃ t, exec (.gateEvent l) s = .next t ∧ s.sameMemory t ∧
      t = (((s.setLane l { x with
        queue := rest
        departed := x.departed + 1
        release := if r.slot.isSome then x.release + 1 else x.release
        gate := .stack
        openStack := none
        carry := if x.openStack.isSome then x.carry else { entries := [], overflow := 0, unordered := 0 }
        nextSequence := if x.openStack.isSome then x.nextSequence else x.nextSequence + 1
        trayPulse := true
        stacker := .transferring tray }).holdingAs (s.writer.holding ++
            [{ lane := l, tray := some k'.tray, sequence := k'.sequence, batch := some k'.batch, reason := why,
               count := k'.count, first := k'.first, last := k'.last, short := k'.short }])).give
        { code := .stackClosed, lane := some l, address := some why.code,
          value := some (k'.sequence.setWidth 32) }).bookkeptAs t)

/-- A STACK label spills when the stacker is NOT_READY or TRANSFERRING: it is listed with reason SPILL, GATE stands at
REJECT, and SPILL is given with the stacker's state. A STACK label of another batch than the open stack's closes that stack
with BATCH_CHANGE and spills into the carry list. Then come the close test and the drain or run-out completion; where
neither is due and no END_OF_BATCH stands, that is all, and with END_OF_BATCH the carry list that the spill is listed in
becomes a record of count 0; the closes here with room in the holding list. -/
def Obligations.GateSpillsTheLabel : Prop :=
  ∀ (l : Lane) (s : State) (r : LabelRecord) (rest : List LabelRecord),
    (s.lane l).queue = r :: rest → r.due.gate = true → r.fate = .stack →
    let x := s.lane l
    let item : MissingItem := ⟨r.serial, .spill, r.defect, r.flags.undecided⟩
    let head : LaneState := { x with
      queue := rest
      departed := x.departed + 1
      release := if r.slot.isSome then x.release + 1 else x.release }
    let settled : Prop := ¬ (x.service = .draining ∧ rest.countP (·.holdsOrder) = 0) ∧
      ¬ (x.service.isFaulted = true ∧ rest = [])
    let count0 (u : State) (n : Half) : State :=
      ((u.setLane l { u.lane l with
          carry := { entries := [], overflow := 0, unordered := 0 }
          nextSequence := n + 1 }).holdingAs (u.writer.holding ++
            [{ lane := l, tray := none, sequence := n, batch := none, reason := .batchEnd, count := 0, first := none,
               last := none, short := x.carry.list item }])).give
        { code := .stackClosed, lane := some l, address := some 2, value := some (n.setWidth 32) }
    (∀ u : State, (∀ tray, x.stacker ≠ .filling tray) →
      u = (s.setLane l { head with
        gate := .reject
        openStack := x.openStack.map (fun k => { k with short := k.short.list item })
        carry := if x.openStack.isNone then x.carry.list item else x.carry }).give
          { code := .spill, lane := some l, serial := r.serial,
            value := some (if x.stacker = .notReady then 0 else 2) } →
      (s.setLane l head).takeItem l r = u ∧
      ∃ t, exec (.gateEvent l) s = .next t ∧ s.sameMemory t ∧ t = ((u.testClose l r).afterGate l).bookkeptAs t ∧
        (settled → x.openStack = none →
          (r.endOfBatch = false → t = u.bookkeptAs t) ∧
          (r.endOfBatch = true → x.parked = none → s.writer.holding.length < 4 →
            t = (count0 u x.nextSequence).bookkeptAs t))) ∧
    (∀ (tray : Tray) (k : OpenStack) (v u : State), x.stacker = .filling tray → x.openStack = some k →
      r.batch ≠ some k.batch → v = (s.setLane l head).closeAndFault l .batchChange →
      u = (v.setLane l { v.lane l with gate := .reject, carry := (v.lane l).carry.list item }).give
        { code := .spill, lane := some l, serial := r.serial, value := some 2 } →
      (s.setLane l head).takeItem l r = u ∧
      ∃ t, exec (.gateEvent l) s = .next t ∧ s.sameMemory t ∧ t = ((u.testClose l r).afterGate l).bookkeptAs t ∧
        (s.writer.holding.length < 4 →
          u = (((s.setLane l { head with
            gate := .reject
            openStack := none
            trayPulse := true
            stacker := .transferring tray
            carry := x.carry.list item }).holdingAs (s.writer.holding ++
                [{ lane := l, tray := some k.tray, sequence := k.sequence, batch := some k.batch,
                   reason := .batchChange, count := k.count, first := k.first, last := k.last,
                   short := k.short }])).give
            { code := .stackClosed, lane := some l, address := some 3, value := some (k.sequence.setWidth 32) }).give
            { code := .spill, lane := some l, serial := r.serial, value := some 2 } ∧
          (settled →
            (r.endOfBatch = false → t = u.bookkeptAs t) ∧
            (r.endOfBatch = true → x.parked = none → s.writer.holding.length < 3 →
              t = (count0 u x.nextSequence).bookkeptAs t))))

/-- A close that is not a HALT close, for every reason. It builds the open stack's record, or else a record of count 0 from
a carry list that is not empty, unless the lane's parked slot is occupied; or nothing. A record built joins the holding list
where that has room; else it is parked with STACK_PARKED, STACK_BACKLOG is raised, and a lane fault BACKLOG is raised after
the STACK_CLOSED (the order of the events: log 12). That fault leaves the service state of a lane already FAULTED or
BYPASSED; a lane that is OFF, ACTIVE or DRAINING is FAULTED with cause BACKLOG, also with its queue empty, and the engine
runs out as its lanes allow; and so a gate event that closes a full stack, with BATCH_END or COUNT, parks the record and
faults its lane. -/
def Obligations.FullHoldingListParksAndFaults : Prop :=
  (∀ (s : State) (l : Lane) (why : CloseReason), why ≠ .halt →
    ((s.lane l).closedRecord l why = none → s.closeAndFault l why = s) ∧
    (∀ p, (s.lane l).closedRecord l why = some p →
      let closed : EventBody :=
        { code := .stackClosed, lane := some l, address := some why.code, value := some (p.sequence.setWidth 32) }
      (s.writer.holding.length < 4 →
        s.closeAndFault l why =
          ((s.setLane l (s.lane l).closed).holdingAs (s.writer.holding ++ [p])).give closed) ∧
      (4 ≤ s.writer.holding.length →
        s.closeAndFault l why =
          (((s.setLane l { (s.lane l).closed with parked := some p }).giveRaise .stackBacklog
            { code := .stackParked, lane := some l, value := some (p.sequence.setWidth 32) }).give closed).laneFault l
            .backlog ∧
        (s.closeAndFault l why).writer.holding = s.writer.holding ∧
        (s.closeAndFault l why).summary.getLsbD 4 = true ∧
        ((s.closeAndFault l why).lane l).parked = some p ∧
        ((s.lane l).service = .off ∨ (s.lane l).service = .active ∨ (s.lane l).service = .draining →
          ((s.closeAndFault l why).lane l).faultedFrom (s.lane l) (s.lane l).queue .backlog ∧
          (s.closeAndFault l why).summary.getLsbD 2 = true ∧ (s.closeAndFault l why).stopReq = true ∧
          (s.closeAndFault l why).engineAfterFault s l ∧
          (s.closeAndFault l why).early = s.early.filter (fun e => e.lane != l) ∧
          ∀ m, m ≠ l → (s.closeAndFault l why).lane m = s.lane m)))) ∧
  (∀ (l : Lane) (s : State) (r : LabelRecord) (rest : List LabelRecord) (tray : Tray) (k : OpenStack)
      (why : CloseReason),
    (s.lane l).queue = r :: rest → r.due.gate = true → r.fate = .stack → r.batch = some k.batch →
    (s.lane l).stacker = .filling tray → (s.lane l).openStack = some k →
    (r.endOfBatch = true ∧ why = .batchEnd ∨
      r.endOfBatch = false ∧ k.count + 1 = k.target.toNat ∧ why = .count) →
    4 ≤ s.writer.holding.length → ((s.lane l).service = .active ∨ (s.lane l).service = .draining) →
    ∃ t p, exec (.gateEvent l) s = .next t ∧ (t.lane l).parked = some p ∧ p.lane = l ∧ p.count = k.count + 1 ∧
      p.reason = why ∧ p.sequence = k.sequence ∧ (t.lane l).service = .faulted .backlog ∧
      (t.lane l).gate = .reject ∧ (t.lane l).openStack = none ∧
      (t.lane l).queue = rest.map (·.flagLaneFault) ∧ t.writer.holding = s.writer.holding ∧
      t.summary.getLsbD 2 = true ∧ t.summary.getLsbD 4 = true ∧ t.stopReq = true ∧ t.engineAfterFault s l ∧
      s.sameMemory t ∧ t = (s.labelWorkAs t).bookkeptAs t ∧ ∀ m, m ≠ l → t.lane m = s.lane m)

/-- A gate event ends with the drain completion of a DRAINING lane that has no ordered record left, or with the run-out of
a FAULTED lane whose queue is empty, whatever the last label's fate was and after the close that it may have caused. A drain
completion makes the lane OFF, discards its early entries, rewinds its window (each with its event where there was one to
discard), makes the DRAIN close and tests for STOPPED; a run-out makes the LANE_FAULT close and tests. Here with room in
the holding list: the close takes the open stack, or else a carry list that is not empty, and the engine stops exactly
where it was DRAINING with no other lane to wait for. -/
def Obligations.LastGateCompletesDrainOrRunOut : Prop :=
  (∀ (l : Lane) (s : State) (r : LabelRecord) (rest : List LabelRecord),
    (s.lane l).queue = r :: rest → r.due.gate = true →
    ∃ t, exec (.gateEvent l) s = .next t ∧ s.sameMemory t ∧ t = (s.labelWorkAs t).bookkeptAs t ∧
      t = (((((s.setLane l { s.lane l with
        queue := rest
        departed := (s.lane l).departed + 1
        release := if r.slot.isSome then (s.lane l).release + 1 else (s.lane l).release }).takeItem l r).testClose l
        r).afterGate l)).bookkeptAs t) ∧
  (∀ (l : Lane) (v : State),
    ((v.lane l).service = .draining → (v.lane l).queue.countP (·.holdsOrder) = 0 →
      v.afterGate l = v.drainComplete l) ∧
    ((v.lane l).service.isFaulted = true → (v.lane l).queue = [] → v.afterGate l = v.runOutComplete l) ∧
    (((v.lane l).service = .draining → (v.lane l).queue.countP (·.holdsOrder) ≠ 0) →
      ((v.lane l).service.isFaulted = true → (v.lane l).queue ≠ []) → v.afterGate l = v) ∧
    v.drainComplete l = State.testStopped (State.closeAndFault
      (((v.setLane l { v.lane l with service := .off }).discardEarly l).rewind l) l .drain) ∧
    ((v.lane l).service.isFaulted = true → v.runOutComplete l = (v.closeAndFault l .laneFault).testStopped) ∧
    (∀ n u, n = v.early.countP (fun e => e.lane == l) → u = { v with early := v.early.filter (fun e => e.lane != l) } →
      (n = 0 → v.discardEarly l = u) ∧
      (n ≠ 0 → v.discardEarly l =
        u.give { code := .earlyDiscarded, lane := some l, value := some (BitVec.ofNat 32 n) })) ∧
    (∀ (fetch : RingIndex) (u : State),
      fetch = (v.lane l).release + BitVec.ofNat 16 ((v.lane l).queue.countP (·.holdsOrder)) →
      u = v.setLane l { v.lane l with
        window := []
        reservation := none
        fetch := fetch
        previousSerial := (match (v.lane l).window, (v.lane l).reservation with
          | w :: _, _ => w.before
          | [], some r => r.before
          | [], none => (v.lane l).previousSerial) } →
      ((v.lane l).window = [] → (v.lane l).reservation = none → v.rewind l = u) ∧
      ((v.lane l).window ≠ [] ∨ (v.lane l).reservation ≠ none → v.rewind l =
        u.give { code := .windowRewound, lane := some l, address := some fetch.toNat,
                 value := some (BitVec.ofNat 32 ((v.lane l).window.length +
                   (if (v.lane l).reservation = none then 0 else 1))) }))) ∧
  (∀ v : State,
    (v.engine.state = .draining → (∀ m, (v.lane m).service ≠ .active ∧ (v.lane m).service ≠ .draining ∧
        ((v.lane m).service.isFaulted = true → (v.lane m).queue = [])) →
      v.testStopped = State.give { v with engine := { v.engine with state := .stopped } } { code := .engineStopped }) ∧
    (¬ (v.engine.state = .draining ∧ ∀ m, (v.lane m).service ≠ .active ∧ (v.lane m).service ≠ .draining ∧
        ((v.lane m).service.isFaulted = true → (v.lane m).queue = [])) → v.testStopped = v)) ∧
  (∀ (l : Lane) (v : State), v.writer.holding.length < 4 →
    let x := v.lane l
    let built (t : State) (why : CloseReason) : Prop :=
      t.writer.holding = v.writer.holding ++ (x.closedRecord l why).toList ∧ (t.lane l).openStack = none ∧
      (t.lane l).parked = x.parked ∧
      (t.lane l).trayPulse = (x.trayPulse || x.openStack.isSome) ∧
      (x.closedRecord l why = none → (t.lane l).carry = x.carry ∧ (t.lane l).nextSequence = x.nextSequence) ∧
      (x.closedRecord l why ≠ none → (t.lane l).carry = x.closed.carry ∧
        (t.lane l).nextSequence = x.closed.nextSequence) ∧
      (∀ m, m ≠ l → t.lane m = v.lane m) ∧ t.engine = { v.engine with state := t.engine.state } ∧
      (v.engine.state ≠ .draining → t.engine.state = v.engine.state)
    (x.service = .draining → x.queue.countP (·.holdsOrder) = 0 →
      built (v.drainComplete l) .drain ∧ ((v.drainComplete l).lane l).service = .off ∧
      ((v.drainComplete l).lane l).queue = x.queue ∧ ((v.drainComplete l).lane l).window = [] ∧
      ((v.drainComplete l).lane l).reservation = none ∧ ((v.drainComplete l).lane l).fetch = x.release ∧
      (v.drainComplete l).early = v.early.filter (fun e => e.lane != l) ∧
      (v.engine.state = .draining →
        ((v.drainComplete l).engine.state = .stopped ↔ v.othersDone l) ∧
        ((v.drainComplete l).engine.state = .draining ↔ ¬ v.othersDone l))) ∧
    (∀ c, x.service = .faulted c → x.queue = [] →
      built (v.runOutComplete l) .laneFault ∧ ((v.runOutComplete l).lane l).service = .faulted c ∧
      ((v.runOutComplete l).lane l).queue = [] ∧ (v.runOutComplete l).stopReq = true ∧
      (v.runOutComplete l).early = v.early ∧
      (v.engine.state = .draining →
        ((v.runOutComplete l).engine.state = .stopped ↔ v.othersDone l) ∧
        ((v.runOutComplete l).engine.state = .draining ↔ ¬ v.othersDone l))))

/-- The three causes of a halt. A rise of SAFE halts for SAFETY unless the engine is HALTED, where the level alone
changes; a level already taken changes nothing (log 23). A reverse tick that leaves the backlog above the limit halts a
RUNNING or DRAINING engine. The HALT command, whatever its operand, halts unless the engine is HALTED; it is DONE. What a
halt leaves is `haltedFrom`: the ABANDONED entries, the HALT records with their carry lists and where they go, the events
ENGINE_HALTED and QUEUE_ABANDONED with the others in their order (the order of events of one step: log 12), the previous
serial set back by the rewind (log 33, the model's choice), the fault summary and the primary record as these events and
the classes raised with them leave them and no other flag, the captures of errors and a BYPASSED lane's window, fetch index
and previous serial as they were, and the engine with its command status as it was. -/
def Obligations.HaltsAndTheirCauses : Prop :=
  ∀ s : State,
    (s.engine.safe = false → s.engine.state ≠ .halted → ∃ t, exec .safeRise s = .next t ∧ t.haltedFrom s .safety ∧
      t.engine = { s.engine with safe := true, state := .halted, cause := some .safety } ∧ s.sameMemory t ∧ t = (s.labelWorkAs t).bookkeptAs t) ∧
    (s.engine.safe = false → s.engine.state = .halted → ∃ t, exec .safeRise s = .next t ∧ s.sameMemory t ∧
      t = ({ s with engine := { s.engine with safe := true } }).bookkeptAs t) ∧
    (s.engine.safe = true → ∃ t, exec .safeRise s = .next t ∧ t = s.bookkeptAs t) ∧
    (∀ (a b : Bool), nextPair (a, b) = (s.web.refA, s.web.refB) → s.engineGoing = true →
      s.web.backlog ≤ 65536 → s.settings.reverseLimit.toNat < min (s.web.backlog + 1) 65536 →
      ∃ t, exec (.encoderTransition a b) s = .next t ∧ t.haltedFrom s .reverseLimit ∧
        t.engine = { s.engine with state := .halted, cause := some .reverseLimit } ∧ s.sameMemory t ∧
        t = (({ s with web := { s.web with
          backlog := min (s.web.backlog + 1) 65536, refA := a, refB := b } }).labelWorkAs t).bookkeptAs t) ∧
    (∀ (o : Byte) (u : State), s.hostNext → s.engine.state ≠ .halted →
      u = s.afterEngineCommand 0x03 .done 0 →
      ∃ t, exec (.halt o (matching 0x03 o)) s = .next t ∧ t.haltedFrom s .command ∧
        t = (u.labelWorkAs t).bookkeptAs t ∧
        t.engine = { u.engine with state := .halted, cause := some .command }) ∧
    (∀ o : Byte, s.hostNext → s.engine.state = .halted → ∃ t, exec (.halt o (matching 0x03 o)) s = .next t ∧
      t = (s.afterEngineCommand 0x03 .done 0).bookkeptAs t)

/-! ## Host cycles (08) -/

/-- Every row that writes a control word is the full-word write of that word, and VERDICT the full-word write of its
cell. -/
def Obligations.RowsAreWritesOfTheirWord : Prop :=
  ∀ (s : State) (d : Word) (o : Byte) (c : Half) (rest : BitVec 24),
    (∀ a, exec (.verdict a d) s = exec (.hostWrite a d) s) ∧
    (∀ l : Lane, exec (.putWrite l d) s = exec (.hostWrite (BitVec.ofNat 22 (4193792 + 0x080 + 4 * l.number)) d) s) ∧
    exec (.stackReadIndexWrite d) s = exec (.hostWrite (BitVec.ofNat 22 (4193792 + 0x091)) d) s ∧
    exec (.eventReadIndexWrite d) s = exec (.hostWrite (BitVec.ofNat 22 (4193792 + 0x093)) d) s ∧
    exec (.run o c) s = exec (.hostWrite (BitVec.ofNat 22 (4193792 + 0x010)) (c ++ o ++ (0x01 : Byte))) s ∧
    exec (.drain o c) s = exec (.hostWrite (BitVec.ofNat 22 (4193792 + 0x010)) (c ++ o ++ (0x02 : Byte))) s ∧
    exec (.halt o c) s = exec (.hostWrite (BitVec.ofNat 22 (4193792 + 0x010)) (c ++ o ++ (0x03 : Byte))) s ∧
    exec (.clearHalt o c) s = exec (.hostWrite (BitVec.ofNat 22 (4193792 + 0x010)) (c ++ o ++ (0x04 : Byte))) s ∧
    exec (.closeStack o c) s = exec (.hostWrite (BitVec.ofNat 22 (4193792 + 0x010)) (c ++ o ++ (0x05 : Byte))) s ∧
    exec (.clearLane o c) s = exec (.hostWrite (BitVec.ofNat 22 (4193792 + 0x010)) (c ++ o ++ (0x06 : Byte))) s ∧
    exec (.bypass o c) s = exec (.hostWrite (BitVec.ofNat 22 (4193792 + 0x010)) (c ++ o ++ (0x07 : Byte))) s ∧
    exec (.unbypass o c) s = exec (.hostWrite (BitVec.ofNat 22 (4193792 + 0x010)) (c ++ o ++ (0x08 : Byte))) s ∧
    (∀ k : Byte, exec (.refusedCode k o c) s =
      exec (.hostWrite (BitVec.ofNat 22 (4193792 + 0x010)) (c ++ o ++ k)) s) ∧
    exec (.verify rest) s = exec (.hostWrite (BitVec.ofNat 22 (4193792 + 0x020)) (rest ++ (0x01 : Byte))) s ∧
    exec (.clear rest) s = exec (.hostWrite (BitVec.ofNat 22 (4193792 + 0x020)) (rest ++ (0x02 : Byte))) s ∧
    exec (.checkProbe rest) s = exec (.hostWrite (BitVec.ofNat 22 (4193792 + 0x020)) (rest ++ (0x03 : Byte))) s ∧
    exec (.suspend rest) s = exec (.hostWrite (BitVec.ofNat 22 (4193792 + 0x020)) (rest ++ (0x04 : Byte))) s ∧
    exec (.resume rest) s = exec (.hostWrite (BitVec.ofNat 22 (4193792 + 0x020)) (rest ++ (0x05 : Byte))) s ∧
    exec (.abort rest) s = exec (.hostWrite (BitVec.ofNat 22 (4193792 + 0x020)) (rest ++ (0x06 : Byte))) s ∧
    (∀ k : Byte, exec (.memcmdRefusedCode k rest) s =
      exec (.hostWrite (BitVec.ofNat 22 (4193792 + 0x020)) (rest ++ k)) s) ∧
    exec (.clearSummary d) s = exec (.hostWrite (BitVec.ofNat 22 (4193792 + 0x0AA)) d) s ∧
    exec (.releaseCorrectableCapture d) s = exec (.hostWrite (BitVec.ofNat 22 (4193792 + 0x0AA)) d) s ∧
    exec (.releaseUncorrectableCapture d) s = exec (.hostWrite (BitVec.ofNat 22 (4193792 + 0x0AA)) d) s ∧
    exec (.clearCorrectableCount d) s = exec (.hostWrite (BitVec.ofNat 22 (4193792 + 0x0AA)) d) s ∧
    (∀ x : Setting, exec (.settingWrite x d) s =
      exec (.hostWrite (BitVec.ofNat 22 (4193792 + settingOffset x)) d) s) ∧
    exec (.checkModeWrite d) s = exec (.hostWrite (BitVec.ofNat 22 (4193792 + 0x050)) d) s ∧
    (∀ e : MapEntryName, exec (.mapWrite e d) s = exec (.hostWrite (BitVec.ofNat 22 (4193792 + mapOffset e)) d) s) ∧
    exec (.mapLock d) s = exec (.hostWrite (BitVec.ofNat 22 (4193792 + 0x067)) d) s ∧
    (∀ (n : WindowName) (k : WindowWord), exec (.exemptionWindowWrite n k d) s =
      exec (.hostWrite (BitVec.ofNat 22 (4193792 + windowOffset n k)) d) s)

/-- A host cycle is granted after the internal grants owed before it (log 5), each of them the grant row of the requester
it is owed to, one after the other: it runs on the state that these leave, in which HOST is granted next. While the start-up
image is being written it is held in wait (log 6). -/
def Obligations.HostCyclesFollowOwedGrants : Prop :=
  ∀ (a : Address) (d : Word) (be : BitVec 4) (s : State),
    (s.owed = none → s.beforeHost = s) ∧
    (∀ r, s.portReady = true → s.walkKnown → s.owed = some r →
      ∃ u, exec (s.grantRow r) s = .next u ∧ s.beforeHost = u.beforeHost) ∧
    (s.portReady = true → s.beforeHost.hostNext ∧
      exec (.hostRead a) s = exec (.hostRead a) s.beforeHost ∧
      exec (.hostWrite a d) s = exec (.hostWrite a d) s.beforeHost ∧
      exec (.hostPartialWrite a d be) s = exec (.hostPartialWrite a d be) s.beforeHost) ∧
    (s.portReady = false → s.hostPort = none →
      exec (.hostRead a) s = .next { s with hostPort := some (.read a) } ∧
      exec (.hostWrite a d) s = .next { s with hostPort := some (.write a d) } ∧
      exec (.hostPartialWrite a d be) s = .next { s with hostPort := some (.partialWrite a d be) })

/-- The arbiter. FETCH, RECORD and MEMCMD have a request pending exactly while they have work; the kinds of RECORD work take
turns at a grant (log 8), those of MEMCMD as requests are presented, one at a time. At a free port the first requester in
rotation whose bypass count is 4 goes before HOST, then HOST, then the rotation (log 5). A grant to HOST raises the count of
every requester with a request pending, holding at 4; a grant to a requester clears its own and is remembered; no other
command raises one; and a requester without a request has count 0. -/
def Obligations.ArbiterChoosesAndCounts : Prop :=
  let after : Internal → List Internal
    | .fetch => [.record, .memcmd, .fetch]
    | .record => [.memcmd, .fetch, .record]
    | .memcmd => [.fetch, .record, .memcmd]
  let kindAfter : RecordKind → List RecordKind
    | .stack => [.event, .status, .stack]
    | .event => [.status, .stack, .event]
    | .status => [.stack, .event, .status]
  let laneAfter : Lane → List Lane
    | .l0 => [.l1, .l2, .l3, .l0]
    | .l1 => [.l2, .l3, .l0, .l1]
    | .l2 => [.l3, .l0, .l1, .l2]
    | .l3 => [.l0, .l1, .l2, .l3]
  let takes (e : MapEntry) (write read : RingIndex) : Prop := e.base ≠ 0 ∧ (write - read).toNat < 2 ^ e.size.toNat
  let fetching (s : State) (l : Lane) : Prop := ∃ r, (s.lane l).reservation = some r ∧ r.words.length < 4
  let recording (s : State) : RecordKind → Prop
    | .stack => s.writer.holding ≠ [] ∧
        (32 ≤ s.writer.stackWords ∨ takes s.regions.stackRing s.writer.stackWrite s.writer.stackRead)
    | .event => s.writer.events ≠ [] ∧
        (4 ≤ s.writer.eventWords ∨ takes s.regions.eventRing s.writer.eventWrite s.writer.eventRead)
    | .status => s.writer.publication ≠ []
  let working (s : State) : MemKind → Prop
    | .scrub => s.scrubQueue ≠ []
    | .walk => s.mem.state = .busy
  (∀ s : State,
    (s.requesting .fetch = true ↔ ∃ l, fetching s l) ∧ (s.requesting .record = true ↔ ∃ k, recording s k) ∧
    (s.requesting .memcmd = true ↔ ∃ k, working s k) ∧
    (∀ l, s.fetchLane = some l ↔ firstIn (laneAfter s.arbiter.lastLane) (fetching s) l) ∧
    (∀ k, s.nextRecord = some k ↔ firstIn (kindAfter s.writer.lastKind) (recording s) k) ∧
    (∀ k, s.nextMem = some k ↔ working s k ∧ (s.arbiter.memRequest = some k ∨
      (∀ j, s.arbiter.memRequest = some j → ¬ working s j) ∧ (s.mem.lastKind ≠ k ∨ ∀ j, working s j → j = k))) ∧
    (s.portReady = true ↔ s.arbiter.grant = none ∧ s.arbiter.lock = false ∧ s.arbiter.imageWriting = false) ∧
    (∀ r, s.owed = some r ↔
      firstIn (after s.arbiter.lastServed) (fun q => s.requesting q = true ∧ 4 ≤ s.arbiter.bypass q) r) ∧
    (∀ r, s.inTurn r = true ↔ s.portReady = true ∧ (s.owed = some r ∨
      s.owed = none ∧ firstIn (after s.arbiter.lastServed) (fun q => s.requesting q = true) r))) ∧
  (∀ (c : Instr) (s t : State), hostCycleRow c = true → s.hostNext → exec c s = .next t →
    t.arbiter.lastServed = s.arbiter.lastServed ∧ t.arbiter.lastLane = s.arbiter.lastLane ∧
    (∀ k, s.arbiter.memRequest = some k → working t k → t.arbiter.memRequest = some k) ∧
    ∀ r, t.arbiter.bypass r =
      (if t.requesting r = true then
        (if s.requesting r = true ∧ s.arbiter.bypass r < 4 then s.arbiter.bypass r + 1 else s.arbiter.bypass r)
      else 0)) ∧
  (∀ (s : State) (r : Internal), s.inTurn r = true → s.walkKnown →
    ∃ t, exec (s.grantRow r) s = .next t ∧ t.arbiter.lastServed = r ∧ t.arbiter.bypass r = 0 ∧
      (r = .fetch → s.fetchLane = some t.arbiter.lastLane) ∧ (r ≠ .fetch → t.arbiter.lastLane = s.arbiter.lastLane) ∧
      (r = .record → s.nextRecord = some t.writer.lastKind) ∧
      (r = .memcmd → s.nextMem = some t.mem.lastKind ∧
        ∀ k, t.arbiter.memRequest = some k ↔ working t k ∧ (t.mem.lastKind ≠ k ∨ ∀ j, working t j → j = k)) ∧
      (r ≠ .memcmd → ∀ k, s.arbiter.memRequest = some k → working t k → t.arbiter.memRequest = some k) ∧
      ∀ q, q ≠ r → t.arbiter.bypass q = (if t.requesting q = true then s.arbiter.bypass q else 0)) ∧
  (∀ (c : Instr) (s t : State), hostCycleRow c = false → grantRow c = false → resetRow c = false →
    exec c s = .next t →
    t.arbiter.lastServed = s.arbiter.lastServed ∧ t.arbiter.lastLane = s.arbiter.lastLane ∧
    (∀ k, s.arbiter.memRequest = some k → working t k → t.arbiter.memRequest = some k) ∧
    ∀ r, t.arbiter.bypass r = (if t.requesting r = true then s.arbiter.bypass r else 0))

/-- A host read: what it returns, how it ends and what it reports, by the outcome of the location; memory does not
change. -/
def Obligations.HostReadByOutcome : Prop :=
  ∀ (a : Address) (s : State), s.hostNext →
    ∃ t, exec (.hostRead a) s = .next t ∧ s.sameMemory t ∧
      ((s.settings.checkMode = .off ∨ s.addressClass a.toNat = .exempt) →
        t = (s.endHost true (some (s.location a.toNat).data)).bookkeptAs t) ∧
      (s.settings.checkMode ≠ .off → s.addressClass a.toNat ≠ .exempt →
        (classify (s.location a.toNat) = .clean →
          t = (s.endHost true (some (s.location a.toNat).data)).bookkeptAs t) ∧
        (∀ b, classify (s.location a.toNat) = .corrected b →
          t = (((s.detectCorrectable .hostRead a.toNat b).offerScrub a.toNat).endHost true
            (some (flipData (s.location a.toNat).data b))).bookkeptAs t) ∧
        (classify (s.location a.toNat) = .blank → s.settings.blankTolerance = true →
          t = (s.endHost true (some 0)).bookkeptAs t) ∧
        (classify (s.location a.toNat) = .blank → s.settings.blankTolerance = false →
          t = ((s.consumeUncorrectable .hostRead a.toNat .blank).endHost false
            (some (s.location a.toNat).data)).bookkeptAs t) ∧
        (∀ x, classify (s.location a.toNat) = .uncorrectable x →
          t = ((s.consumeUncorrectable .hostRead a.toNat x).endHost false
            (some (s.location a.toNat).data)).bookkeptAs t))

/-- A full-word write to a PLAIN or EXEMPT address, or to a slot that is not protected, is stored with its check byte
and ends OK; one to a reserved word stores zero; one to a memory command operand word is stored as written and taken
into the working copy. -/
def Obligations.FullWordWriteIsStored : Prop :=
  ∀ (a : Address) (d : Word) (s : State), s.hostNext →
    ((s.addressClass a.toNat = .plain ∨ s.addressClass a.toNat = .exempt ∨
        ∃ l k, s.addressClass a.toNat = .orderSlot l k ∧ s.slotProtected l k = false) →
      ∃ t, exec (.hostWrite a d) s = .next t ∧ t = ((s.storeWord a.toNat d).endHost true none).bookkeptAs t ∧
        (Memory.wf s.memory = true → s.storedOnly t a.toNat ⟨d, checkByte d⟩)) ∧
    (∀ off, off < 512 → a.toNat = 4193792 + off →
      (controlWord off = .reserved → ∃ t, exec (.hostWrite a d) s = .next t ∧
        t = ((s.storeWord a.toNat 0).endHost true none).bookkeptAs t) ∧
      (off = 0x021 → ∃ t, exec (.hostWrite a d) s = .next t ∧
        t = (((s.setMem { s.mem with opStart := d }).storeWord a.toNat d).endHost true none).bookkeptAs t) ∧
      (off = 0x022 → ∃ t, exec (.hostWrite a d) s = .next t ∧
        t = (((s.setMem { s.mem with opCount := d }).storeWord a.toNat d).endHost true none).bookkeptAs t) ∧
      (off = 0x023 → ∃ t, exec (.hostWrite a d) s = .next t ∧
        t = (((s.setMem { s.mem with opFill := d }).storeWord a.toNat d).endHost true none).bookkeptAs t))

/-- A write, full-word or partial, to a protected slot or a ring, and a full-word write to a part-owned word, changes no
memory, ends ERROR, gives PROTECTION_BLOCK (with the lane for a slot) and raises PROTECTION; a partial write to a
verdict cell or a control word does so with PARTIAL_REFUSED and the byte enables. -/
def Obligations.ProtectedWritesAreRefused : Prop :=
  ∀ (a : Address) (d : Word) (be : BitVec 4) (s : State), s.hostNext → be ≠ 0xF →
    (∀ l k, s.addressClass a.toNat = .orderSlot l k → s.slotProtected l k = true →
      ∃ t, exec (.hostWrite a d) s = .next t ∧ exec (.hostPartialWrite a d be) s = .next t ∧ s.sameMemory t ∧
        t = ((s.giveRaise .protection { code := .protectionBlock, lane := some l, address := some a.toNat }).endHost
          false none).bookkeptAs t) ∧
    ((s.addressClass a.toNat = .stackRing ∨ s.addressClass a.toNat = .eventRing) →
      ∃ t, exec (.hostWrite a d) s = .next t ∧ exec (.hostPartialWrite a d be) s = .next t ∧ s.sameMemory t ∧
        t = ((s.giveRaise .protection { code := .protectionBlock, address := some a.toNat }).endHost
          false none).bookkeptAs t) ∧
    (∀ off, off < 512 → a.toNat = 4193792 + off → (off ≤ 1 ∨ off ∈ publishedOffsets) →
      ∃ t, exec (.hostWrite a d) s = .next t ∧ s.sameMemory t ∧
        t = ((s.giveRaise .protection { code := .protectionBlock, address := some a.toNat }).endHost
          false none).bookkeptAs t) ∧
    ((s.addressClass a.toNat = .verdict ∨ s.addressClass a.toNat = .control) →
      ∃ t, exec (.hostPartialWrite a d be) s = .next t ∧ s.sameMemory t ∧
        t = ((s.giveRaise .protection { code := .partialRefused, address := some a.toNat,
                                        value := some (be.setWidth 32) }).endHost false none).bookkeptAs t)

/-- A partial write to a PLAIN address or an unprotected slot merges the enabled bytes into what the read chose: the
data read, the corrected data, or zero for a tolerated BLANK, stored with its check byte; the raw data with the poison
check, ending ERROR, where the read is uncorrectable. A partial write to an EXEMPT address merges into the raw data and
keeps the location's check byte. -/
def Obligations.PartialWriteMerges : Prop :=
  ∀ (a : Address) (d base w : Word) (be : BitVec 4) (s : State), s.hostNext → be ≠ 0xF →
    (∀ i : Nat, i < 4 → w.extractLsb' (8 * i) 8 =
      if be.getLsbD i then d.extractLsb' (8 * i) 8 else base.extractLsb' (8 * i) 8) →
    ((s.addressClass a.toNat = .plain ∨
        ∃ l k, s.addressClass a.toNat = .orderSlot l k ∧ s.slotProtected l k = false) →
      ((s.settings.checkMode = .off ∨ classify (s.location a.toNat) = .clean) → base = (s.location a.toNat).data →
        ∃ t, exec (.hostPartialWrite a d be) s = .next t ∧
          t = ((s.storeWord a.toNat w).endHost true none).bookkeptAs t) ∧
      (∀ b, s.settings.checkMode ≠ .off → classify (s.location a.toNat) = .corrected b →
        base = flipData (s.location a.toNat).data b →
        ∃ t, exec (.hostPartialWrite a d be) s = .next t ∧
          t = (((s.storeWord a.toNat w).detectCorrectable .hostWrite a.toNat b).endHost true none).bookkeptAs t) ∧
      (s.settings.checkMode ≠ .off → classify (s.location a.toNat) = .blank → s.settings.blankTolerance = true →
        base = 0 → ∃ t, exec (.hostPartialWrite a d be) s = .next t ∧
          t = ((s.storeWord a.toNat w).endHost true none).bookkeptAs t) ∧
      (∀ x, s.settings.checkMode ≠ .off →
        (classify (s.location a.toNat) = .uncorrectable x ∨
          classify (s.location a.toNat) = .blank ∧ s.settings.blankTolerance = false ∧ x = .blank) →
        base = (s.location a.toNat).data → ∃ t, exec (.hostPartialWrite a d be) s = .next t ∧
          t = (((s.storeLocation a.toNat ⟨w, checkByte w ^^^ 0x81⟩).consumeUncorrectable .hostWrite a.toNat x).endHost
            false none).bookkeptAs t)) ∧
    (s.addressClass a.toNat = .exempt → base = (s.location a.toNat).data →
      ∃ t, exec (.hostPartialWrite a d be) s = .next t ∧
        t = ((s.storeLocation a.toNat ⟨w, (s.location a.toNat).check⟩).endHost true none).bookkeptAs t ∧
        (Memory.wf s.memory = true → s.storedOnly t a.toNat ⟨w, (s.location a.toNat).check⟩))

/-! ## Verdicts (04) -/

/-- A verdict of code 0, or for a lane not in service, is REFUSED; one for a lane in service that no OPEN record matches
is LATE when a CLOSED one matches, or when none does and its serial is not forward of the last bound serial. Both change
nothing but by their event and, for LATE, its class. One that no record matches and whose serial is forward of the last
bound serial, or where there is none, is early: HELD, merged into the entry of its lane and serial, or entered while the
table holds fewer than 16; with 16 entries and none for it FULL, discarded with EARLY_FULL. Every outcome leaves the other
28 bits of the word as written. -/
def Obligations.VerdictNotTakenByARecord : Prop :=
  (∀ (a : Address) (d : Word) (s : State), s.hostNext → s.addressClass a.toNat = .verdict →
    ((verdictCodeField d = 0 ∨ s.inService (verdictLane d) = false) →
      ∃ (t : State) (w : Word), exec (.verdict a d) s = .next t ∧
        w.extractLsb' 28 4 = 5#4 ∧ w.extractLsb' 0 28 = d.extractLsb' 0 28 ∧
        t = (((s.give
          { code := .verdictRefused, lane := some (verdictLane d), serial := some ((verdictSerial d).setWidth 32),
            value := some ((verdictCodeField d).setWidth 32) }).storeWord a.toNat w).endHost true none).bookkeptAs t) ∧
    (s.inService (verdictLane d) = true → verdictCodeField d ≠ 0 →
      (∀ x ∈ (s.lane (verdictLane d)).queue, ∀ m, x.serial = some m → low20 m = verdictSerial d → x.closed = true) →
      ((∃ x ∈ (s.lane (verdictLane d)).queue, ∃ m, x.serial = some m ∧ low20 m = verdictSerial d) ∨
        ∃ n, (s.lane (verdictLane d)).lastBound = some n ∧ isForward (verdictSerial d) (low20 n) = false) →
      ∃ (t : State) (w : Word), exec (.verdict a d) s = .next t ∧
        w.extractLsb' 28 4 = 3#4 ∧ w.extractLsb' 0 28 = d.extractLsb' 0 28 ∧
        t = (((s.giveRaise .lateVerdict
          { code := .lateVerdict, lane := some (verdictLane d), serial := some ((verdictSerial d).setWidth 32),
            value := some ((verdictCodeField d).setWidth 32) }).storeWord a.toNat w).endHost true none).bookkeptAs t)) ∧
  (∀ (a : Address) (d : Word) (s : State) (v : Verdict),
    s.hostNext → s.addressClass a.toNat = .verdict → s.inService (verdictLane d) = true → v ≠ .none →
    v.code = (verdictCodeField d).toNat →
    (∀ x ∈ (s.lane (verdictLane d)).queue, ∀ m, x.serial = some m → low20 m ≠ verdictSerial d) →
    (∀ n, (s.lane (verdictLane d)).lastBound = some n → isForward (verdictSerial d) (low20 n) = true) →
    (∀ (before after : List EarlyEntry) (e : EarlyEntry), s.early = before ++ e :: after →
      (∀ x ∈ before, ¬ (x.lane = verdictLane d ∧ x.serial = verdictSerial d)) →
      e.lane = verdictLane d → e.serial = verdictSerial d →
      ∃ (t : State) (w : Word), exec (.verdict a d) s = .next t ∧ w.extractLsb' 28 4 = 2#4 ∧ w.extractLsb' 0 28 = d.extractLsb' 0 28 ∧
        t = ((({ s with early := before ++
          { e with
            code := (mergeVerdict e.code e.defect v (verdictDefect d)).1
            defect := (mergeVerdict e.code e.defect v (verdictDefect d)).2 } :: after } : State).storeWord
          a.toNat w).endHost true none).bookkeptAs t) ∧
    ((∀ x ∈ s.early, ¬ (x.lane = verdictLane d ∧ x.serial = verdictSerial d)) → s.early.length < 16 →
      ∃ (t : State) (w : Word), exec (.verdict a d) s = .next t ∧ w.extractLsb' 28 4 = 2#4 ∧ w.extractLsb' 0 28 = d.extractLsb' 0 28 ∧
        t = ((({ s with early := s.early ++
          [{ lane := verdictLane d, serial := verdictSerial d, code := v, defect := verdictDefect d }] } : State).storeWord
          a.toNat w).endHost true none).bookkeptAs t) ∧
    ((∀ x ∈ s.early, ¬ (x.lane = verdictLane d ∧ x.serial = verdictSerial d)) → 16 ≤ s.early.length →
      ∃ (t : State) (w : Word), exec (.verdict a d) s = .next t ∧ w.extractLsb' 28 4 = 4#4 ∧ w.extractLsb' 0 28 = d.extractLsb' 0 28 ∧
        t = (((s.give
          { code := .earlyFull, lane := some (verdictLane d), serial := some ((verdictSerial d).setWidth 32),
            value := some (BitVec.ofNat 32 v.code) }).storeWord a.toNat w).endHost true none).bookkeptAs t))

/-- Two verdicts combine by precedence: a stronger code brings its class, an equal code its class alone, a weaker code
nothing. So a verdict for a lane in service is TAKEN by the first queued record, from the head, that matches it and is
OPEN. -/
def Obligations.VerdictTakenByPrecedence : Prop :=
  (∀ (v w : Verdict) (c d : BitVec 4),
    ((v = .none ∧ (w = .good ∨ w = .sample ∨ w = .reject) ∨ v = .good ∧ (w = .sample ∨ w = .reject) ∨
        v = .sample ∧ w = .reject) → mergeVerdict v c w d = (w, d) ∧ mergeVerdict w d v c = (w, d)) ∧
    mergeVerdict v c v d = (v, d)) ∧
  (∀ (a : Address) (d : Word) (s : State) (before after : List LabelRecord) (r : LabelRecord) (n : Serial) (v : Verdict),
    s.hostNext → s.addressClass a.toNat = .verdict → s.inService (verdictLane d) = true → v ≠ .none →
    v.code = (verdictCodeField d).toNat → (s.lane (verdictLane d)).queue = before ++ r :: after →
    (∀ x ∈ before, ∀ m, x.serial = some m → low20 m = verdictSerial d → x.closed = true) →
    r.serial = some n → low20 n = verdictSerial d → r.closed = false →
    ∃ (t : State) (w : Word), exec (.verdict a d) s = .next t ∧ w.extractLsb' 28 4 = 1#4 ∧ w.extractLsb' 0 28 = d.extractLsb' 0 28 ∧
      t = (((s.setLane (verdictLane d) { s.lane (verdictLane d) with
        queue := before ++ { r with
          verdict := (mergeVerdict r.verdict r.defect v (verdictDefect d)).1
          defect := (mergeVerdict r.verdict r.defect v (verdictDefect d)).2 } :: after }).storeWord
          a.toNat w).endHost true none).bookkeptAs t)

/-! ## Control words (03, 06, 09, 11) -/

/-- The layouts of the words that the part stores: a stack record's 32 words, an event record's 4, the part-owned words of
the control page (the last three of a lane: log 16; the tray only while FILLING: log 17), and the start-up image. Each word
is written out as a concatenation, highest bits first, zero where the layout names no field. -/
def Obligations.WordsHaveTheirLayout : Prop :=
  let lane (l : Option Lane) : BitVec 2 := match l with
    | none => 0 | some .l0 => 0 | some .l1 => 1 | some .l2 => 2 | some .l3 => 3
  let bit (p : Bool) : BitVec 1 := BitVec.ofBool p
  let missing : MissingReason → BitVec 4
    | .fault => 1 | .void => 2 | .reject => 3 | .sample => 4 | .spill => 5 | .abandoned => 6
  let close : CloseReason → BitVec 4
    | .count => 1 | .batchEnd => 2 | .batchChange => 3 | .host => 4 | .drain => 5 | .laneFault => 6 | .halt => 7
  let event : EventCode → BitVec 8 × BitVec 2
    | .encoderDoubleStep => (0x01, 0) | .spliceStart => (0x02, 0) | .markBacklog => (0x03, 0)
    | .spuriousMark => (0x04, 0) | .offRegister => (0x05, 1) | .markMissing => (0x06, 1)
    | .orderFault => (0x10, 1) | .orderStarved => (0x11, 1) | .putRefused => (0x12, 2)
    | .protectionBlock => (0x13, 2) | .windowRewound => (0x14, 0) | .queueAbandoned => (0x15, 2)
    | .verdictRefused => (0x20, 0) | .lateVerdict => (0x21, 1) | .earlyFull => (0x22, 1)
    | .earlyStale => (0x23, 1) | .earlyDiscarded => (0x24, 0) | .verdictUndecided => (0x25, 0)
    | .knifeMissed => (0x30, 1) | .kdoneStray => (0x31, 0) | .spill => (0x38, 1) | .trayReadyStray => (0x39, 0)
    | .stackClosed => (0x3A, 0) | .stackParked => (0x3B, 2) | .stackReadRefused => (0x3C, 2)
    | .engineHalted => (0x40, 3) | .engineStopped => (0x41, 0) | .laneFaulted => (0x42, 2)
    | .commandIntegrity => (0x43, 2) | .commandRefused => (0x44, 0) | .partialRefused => (0x50, 2)
    | .uncorrectable => (0x51, 2) | .correctableLimit => (0x52, 2) | .exemptWindowCleared => (0x53, 0)
    | .settingRefused => (0x54, 0) | .eventReadRefused => (0x55, 2)
  let engine : EngineState → BitVec 2
    | .stopped => 0 | .running => 1 | .draining => 2 | .halted => 3
  let cause : Option HaltCause → BitVec 2
    | none => 0 | some .command => 1 | some .safety => 2 | some .reverseLimit => 3
  let result : EngineResult → BitVec 8
    | .none => 0 | .reset => 1 | .done => 2 | .noLane => 3 | .refusedIntegrity => 4 | .refusedCode => 5
    | .refusedOperand => 6 | .refusedState => 7 | .refusedSafe => 8 | .refusedQueue => 9 | .refusedParked => 10
    | .refusedCheck => 11
  let memory : MemState → BitVec 2
    | .idle => 0 | .busy => 1 | .suspended => 2
  let memResult : MemResult → BitVec 8
    | .none => 0 | .done => 1 | .stoppedAtFault => 2 | .aborted => 3 | .reset => 4 | .refusedCode => 5
    | .refusedOperand => 6 | .refusedRegion => 7 | .notBusy => 8 | .refusedBusy => 9 | .refusedSuspended => 10
  let detail : Detail → BitVec 2
    | .multi => 1 | .poison => 2 | .blank => 3
  let source : Source → BitVec 3 × BitVec 2
    | .hostRead => (0, 0) | .hostWrite => (1, 0) | .fetch l => (2, lane (some l)) | .scrub => (3, 0) | .verify => (4, 0)
  let service : Service → BitVec 4 × BitVec 4
    | .off => (0, 0) | .active => (1, 0) | .draining => (2, 0) | .faulted .knife => (3, 1)
    | .faulted .trackingLost => (3, 2) | .faulted .backlog => (3, 3) | .bypassed => (4, 0)
  let gate : Gate → BitVec 2
    | .reject => 0 | .stack => 1 | .sample => 2
  let stacker : Stacker → BitVec 2 × BitVec 1
    | .notReady => (0, 0) | .filling .a => (1, 0) | .filling .b => (1, 1) | .transferring _ => (2, 0)
  let cls : SummaryClass → BitVec 4
    | .safetyStop => 0 | .reverseLimit => 1 | .laneFault => 2 | .uncorrectable => 3 | .stackBacklog => 4
    | .orderFault => 5 | .orderStarved => 6 | .lateVerdict => 7 | .protection => 8 | .settingRefused => 9
    | .correctableLimit => 10 | .eventsLost => 11 | .scrubSkipped => 12
  (∀ r : StackRecord,
    r.word 0 = r.sequence ++ 0#6 ++ bit r.first.isSome ++ bit r.batch.isSome ++ close r.reason ++
      bit (r.tray == some .b) ++ bit r.tray.isSome ++ lane (some r.lane) ∧
    r.word 1 = BitVec.ofNat 16 r.count ++ r.batch.getD 0 ∧ r.word 2 = r.first.getD 0 ∧ r.word 3 = r.last.getD 0 ∧
    r.word 4 = BitVec.ofNat 16 r.short.overflow ++ 0#12 ++ BitVec.ofNat 4 r.short.entries.length ∧
    r.word 5 = 0#16 ++ BitVec.ofNat 16 r.short.unordered ∧ r.word 6 = 0 ∧ r.word 7 = 0 ∧
    ∀ k, k < 12 →
      (∀ e, r.short.entries[k]? = some e → r.word (8 + 2 * k) = e.serial ∧
        r.word (9 + 2 * k) = 0#23 ++ bit e.undecided ++ e.defect ++ missing e.reason) ∧
      (r.short.entries[k]? = none → r.word (8 + 2 * k) = 0 ∧ r.word (9 + 2 * k) = 0)) ∧
  (∀ e : Event,
    e.word 0 = 0#1 ++ bit e.address.isSome ++ bit e.serial.isSome ++ bit e.lane.isSome ++ lane e.lane ++
      (event e.code).2 ++ (event e.code).1 ++ e.sequence ∧
    (∀ n, e.serial = some n → e.word 1 = n) ∧
    (e.serial = none → e.address ≠ none → e.word 1 = e.value.getD 0) ∧
    (e.serial = none → e.address = none → e.word 1 = 0) ∧
    (∀ a, e.address = some a → e.code ≠ .uncorrectable → e.word 2 = 0#10 ++ BitVec.ofNat 22 a) ∧
    (∀ a, e.address = some a → e.code = .uncorrectable →
      e.word 2 = 0#8 ++ (e.value.getD 0).extractLsb' 0 2 ++ BitVec.ofNat 22 a) ∧
    (e.address = none → e.word 2 = e.value.getD 0) ∧ e.word 3 = e.position) ∧
  (∀ s : State,
    s.publishedWord 0x000 = 0x00C4A510 ∧ s.publishedWord 0x001 = 3 ∧
    s.publishedWord 0x002 = 0#23 ++ bit s.engine.safe ++ 0#2 ++ cause s.engine.cause ++ 0#2 ++ engine s.engine.state ∧
    s.publishedWord 0x003 = s.web.position ∧ s.publishedWord 0x004 = 0#15 ++ BitVec.ofNat 17 s.web.backlog ∧
    s.publishedWord 0x005 = 0#31 ++ bit s.web.splice ∧
    s.publishedWord 0x006 =
      0#21 ++ BitVec.ofNat 3 s.writer.holding.length ++ 0#3 ++ BitVec.ofNat 5 s.early.length ∧
    s.publishedWord 0x011 = s.engine.detail ++ result s.engine.result ++ s.engine.code ++ s.engine.sequence ∧
    s.publishedWord 0x024 =
      memResult s.mem.result ++ 0#6 ++ memory s.mem.state ++ s.mem.walk.getD 0 ++ s.mem.sequence ∧
    s.publishedWord 0x025 = 0#9 ++ BitVec.ofNat 23 s.mem.progress ∧
    s.publishedWord 0x026 = 0#9 ++ BitVec.ofNat 23 s.mem.done ∧
    s.publishedWord 0x027 = 0#9 ++ BitVec.ofNat 23 s.mem.corrected ∧
    s.publishedWord 0x028 = 0#9 ++ BitVec.ofNat 23 s.mem.uncorrectable ∧
    s.publishedWord 0x029 =
      bit s.mem.faultAddress.isSome ++ 0#9 ++ BitVec.ofNat 22 (s.mem.faultAddress.getD 0) ∧
    (s.mem.lastRefusal = none → s.publishedWord 0x02A = 0) ∧
    (∀ c r, s.mem.lastRefusal = some (c, r) → s.publishedWord 0x02A = 1#1 ++ 0#15 ++ memResult r ++ c) ∧
    (∀ k : BitVec 3, s.mem.probe.outcome = .clean ∧ k = 0 ∨ (∃ b, s.mem.probe.outcome = .corrected b) ∧ k = 1 ∨
      s.mem.probe.outcome = .blank ∧ k = 2 ∨ s.mem.probe.outcome = .uncorrectable .multi ∧ k = 3 ∨
      s.mem.probe.outcome = .uncorrectable .poison ∧ k = 4 →
      s.publishedWord 0x02B =
        0#8 ++ s.mem.probe.check ++ 0#2 ++ BitVec.ofNat 6 s.mem.probe.bit ++ 0#5 ++ k) ∧
    s.publishedWord 0x02C = s.mem.probe.data ∧
    (∀ l : Lane, s.publishedWord (0x081 + 4 * l.number) = 0#16 ++ (s.lane l).fetch ∧
      s.publishedWord (0x082 + 4 * l.number) = 0#16 ++ (s.lane l).release) ∧
    s.publishedWord 0x090 = 0#16 ++ s.writer.stackWrite ∧ s.publishedWord 0x092 = 0#16 ++ s.writer.eventWrite ∧
    (s.capture.correctable.contents = none →
      s.publishedWord 0x0A0 = 0#31 ++ bit s.capture.correctable.held ∧ s.publishedWord 0x0A1 = 0) ∧
    (∀ x, s.capture.correctable.contents = some x →
      s.publishedWord 0x0A0 = 0#10 ++ BitVec.ofNat 6 x.detail ++ 0#6 ++ (source x.source).2 ++ 0#1 ++
        (source x.source).1 ++ 0#2 ++ 1#1 ++ bit s.capture.correctable.held ∧
      s.publishedWord 0x0A1 = 0#10 ++ BitVec.ofNat 22 x.address) ∧
    (s.capture.uncorrectable.contents = none →
      s.publishedWord 0x0A2 = 0#31 ++ bit s.capture.uncorrectable.held ∧ s.publishedWord 0x0A3 = 0) ∧
    (∀ x, s.capture.uncorrectable.contents = some x →
      s.publishedWord 0x0A2 = 0#14 ++ detail x.detail ++ 0#6 ++ (source x.source).2 ++ 0#1 ++
        (source x.source).1 ++ 0#2 ++ 1#1 ++ bit s.capture.uncorrectable.held ∧
      s.publishedWord 0x0A3 = 0#10 ++ BitVec.ofNat 22 x.address) ∧
    s.publishedWord 0x0A4 = 0#16 ++ BitVec.ofNat 16 s.capture.count ∧ s.publishedWord 0x0A5 = 0#19 ++ s.summary ∧
    (s.primary = none → ∀ o, 0x0A6 ≤ o → o ≤ 0x0A9 → s.publishedWord o = 0) ∧
    (∀ p, s.primary = some p →
      s.publishedWord 0x0A6 = p.serial.getD 0 ∧ s.publishedWord 0x0A7 = BitVec.ofNat 32 (p.address.getD 0) ∧
      s.publishedWord 0x0A8 = p.position ∧
      s.publishedWord 0x0A9 = 0#19 ++ bit p.address.isSome ++ bit p.serial.isSome ++ lane p.lane ++
        bit p.lane.isSome ++ cls p.cls ++ 0#3 ++ 1#1)) ∧
  (∀ (s : State) (l : Lane) (x : LaneState), x = s.lane l →
    let word (k : Nat) : Word := s.publishedWord (0x0D0 + 12 * l.number + k)
    word 0 = 0#18 ++ gate x.gate ++ 0#1 ++ BitVec.ofNat 2 x.tracker.synthetic ++ bit x.tracker.tracked.isSome ++
      (service x.service).2 ++ (service x.service).1 ∧
    (x.tracker.tracked = none → word 1 = 0) ∧ (∀ k, x.tracker.tracked = some k → word 1 = k.lastMark) ∧
    word 2 = 0#8 ++ BitVec.ofNat 2 (x.queue.filter (·.cutState == .fired)).length ++ BitVec.ofNat 2 x.misses ++
      BitVec.ofNat 4 (x.window.length + x.reservation.toList.length) ++
      BitVec.ofNat 8 (x.queue.countP (·.slot.isSome)) ++ BitVec.ofNat 8 x.queue.length ∧
    word 3 = x.lastBound.getD 0 ∧ word 4 = 0#30 ++ bit x.previousSerial.isSome ++ bit x.lastBound.isSome ∧
    word 5 = x.previousSerial.getD 0 ∧ (x.queue = [] → word 6 = 0) ∧
    (∀ r rest, x.queue = r :: rest → word 6 = r.gate) ∧
    (∀ n : Half, x.openStack = none ∧ n = 0 ∨ (∃ k, x.openStack = some k ∧ n = k.sequence) →
      word 7 = n ++ 0#4 ++ BitVec.ofNat 4 x.carry.entries.length ++ 0#3 ++ bit x.parked.isSome ++
        bit x.openStack.isSome ++ (stacker x.stacker).2 ++ (stacker x.stacker).1) ∧
    (x.openStack = none → word 8 = 0) ∧ (∀ k, x.openStack = some k → word 8 = BitVec.ofNat 32 k.count) ∧
    word 9 = 0 ∧ word 10 = 0 ∧ word 11 = 0) ∧
  [startUpWord 0x000, startUpWord 0x001, startUpWord 0x040, startUpWord 0x041, startUpWord 0x042, startUpWord 0x043,
    startUpWord 0x044, startUpWord 0x045, startUpWord 0x046, startUpWord 0x047, startUpWord 0x048, startUpWord 0x049,
    startUpWord 0x04A, startUpWord 0x04B, startUpWord 0x04C, startUpWord 0x04D, startUpWord 0x04E, startUpWord 0x04F,
    startUpWord 0x050, startUpWord 0x051, startUpWord 0x052, startUpWord 0x053, startUpWord 0x054] =
    [0x00C4A510, 3, 2000, 3000, 4800, 200, 300, 40, 600, 600, 600, 600, 500, 500, 500, 500, 1000, 0, 2, 0, 3, 0,
      0x1FFF] ∧
  ∀ o, o < 512 → ¬ (o ≤ 1 ∨ 0x040 ≤ o ∧ o ≤ 0x054) → startUpWord o = 0

/-- The three index words: a put write is taken exactly when the ring is mapped and the index claims no unreleased and
withdraws no fetched slot; a read index write exactly when it lies from the read index up to the write index. Taken, the
word is stored with its upper half zero; otherwise the cycle ends ERROR with its event and PROTECTION. -/
def Obligations.IndexWrites : Prop :=
  ∀ (l : Lane) (d : Word) (s : State) (n : RingIndex), s.hostNext → n = d.extractLsb' 0 16 →
    (((s.regions.orderRing.get l).base ≠ 0 ∧
        (n - (s.lane l).release).toNat ≤ 2 ^ (s.regions.orderRing.get l).size.toNat ∧
        (n - (s.lane l).fetch).toNat ≤ (n - (s.lane l).release).toNat) →
      ∃ t, exec (.putWrite l d) s = .next t ∧
        t = (((s.setLane l { s.lane l with put := n }).storeWord (4193792 + 0x080 + 4 * l.number)
          (n.setWidth 32)).endHost true none).bookkeptAs t) ∧
    (¬ ((s.regions.orderRing.get l).base ≠ 0 ∧
        (n - (s.lane l).release).toNat ≤ 2 ^ (s.regions.orderRing.get l).size.toNat ∧
        (n - (s.lane l).fetch).toNat ≤ (n - (s.lane l).release).toNat) →
      ∃ t, exec (.putWrite l d) s = .next t ∧ s.sameMemory t ∧
        t = ((s.giveRaise .protection
          { code := .putRefused, lane := some l, address := some (4193792 + 0x080 + 4 * l.number),
            value := some (n.setWidth 32) }).endHost false none).bookkeptAs t) ∧
    ((n - s.writer.stackRead).toNat ≤ (s.writer.stackWrite - s.writer.stackRead).toNat →
      ∃ t, exec (.stackReadIndexWrite d) s = .next t ∧
        t = ((({ s with writer := { s.writer with stackRead := n } } : State).storeWord (4193792 + 0x091)
          (n.setWidth 32)).endHost true none).bookkeptAs t) ∧
    ((s.writer.stackWrite - s.writer.stackRead).toNat < (n - s.writer.stackRead).toNat →
      ∃ t, exec (.stackReadIndexWrite d) s = .next t ∧ s.sameMemory t ∧
        t = ((s.giveRaise .protection
          { code := .stackReadRefused, address := some (4193792 + 0x091),
            value := some (n.setWidth 32) }).endHost false none).bookkeptAs t) ∧
    ((n - s.writer.eventRead).toNat ≤ (s.writer.eventWrite - s.writer.eventRead).toNat →
      ∃ t, exec (.eventReadIndexWrite d) s = .next t ∧
        t = ((({ s with writer := { s.writer with eventRead := n } } : State).storeWord (4193792 + 0x093)
          (n.setWidth 32)).endHost true none).bookkeptAs t) ∧
    ((s.writer.eventWrite - s.writer.eventRead).toNat < (n - s.writer.eventRead).toNat →
      ∃ t, exec (.eventReadIndexWrite d) s = .next t ∧ s.sameMemory t ∧
        t = ((s.giveRaise .protection
          { code := .eventReadRefused, address := some (4193792 + 0x093),
            value := some (n.setWidth 32) }).endHost false none).bookkeptAs t)

/-- A setting write that is not refused: a range setting is clamped into its range, an enumeration takes the value of a
known code, the attention mask its 13 bits; the working copy and the word in memory take the same value. An unknown
check mode is taken as CHECK_SCRUB; any other mode empties the scrub queue. -/
def Obligations.SettingWritesAreTaken : Prop :=
  ∀ (d v : Word) (s : State), s.hostNext → v = (d.extractLsb' 0 16).setWidth 32 →
    let stored (x : Setting) (c : Settings) (w : Word) : Prop := ∃ t, exec (.settingWrite x d) s = .next t ∧
      t = ((({ s with settings := c } : State).storeWord (4193792 + settingOffset x) w).endHost true none).bookkeptAs t
    let clamp (lo hi : Nat) : Nat := max lo (min hi v.toNat)
    (s.engine.state = .stopped →
      stored .verdictDeadline { s.settings with dv := BitVec.ofNat 16 (clamp 1 65535) } (BitVec.ofNat 32 (clamp 1 65535)) ∧
      stored .knifeDistance { s.settings with dk := BitVec.ofNat 16 (clamp 1 65535) } (BitVec.ofNat 32 (clamp 1 65535)) ∧
      stored .gateDistance { s.settings with dg := BitVec.ofNat 16 (clamp 1 65535) } (BitVec.ofNat 32 (clamp 1 65535)) ∧
      stored .confirmDistance { s.settings with kc := BitVec.ofNat 16 (clamp 1 65535) }
        (BitVec.ofNat 32 (clamp 1 65535)) ∧
      stored .minimumPitch { s.settings with pmin := BitVec.ofNat 16 (clamp 128 65535) }
        (BitVec.ofNat 32 (clamp 128 65535)) ∧
      stored .registrationWindow { s.settings with w := BitVec.ofNat 16 (clamp 1 255) }
        (BitVec.ofNat 32 (clamp 1 255)) ∧
      (∀ l, stored (.lanePitch l)
        { s.settings with lanePitch := s.settings.lanePitch.set l (BitVec.ofNat 16 (clamp 128 65535)) }
        (BitVec.ofNat 32 (clamp 128 65535))) ∧
      stored .reverseLimit { s.settings with reverseLimit := BitVec.ofNat 16 v.toNat } v) ∧
    ((∀ l, stored (.laneTarget l)
        { s.settings with laneTarget := s.settings.laneTarget.set l (BitVec.ofNat 16 (clamp 1 9999)) }
        (BitVec.ofNat 32 (clamp 1 9999))) ∧
      stored .correctableThreshold { s.settings with correctableThreshold := BitVec.ofNat 16 v.toNat } v ∧
      stored .attentionMask { s.settings with attentionMask := d.extractLsb' 0 13 } ((d.extractLsb' 0 13).setWidth 32) ∧
      (v = 0 → stored .undecidedPolicy { s.settings with undecidedPolicy := .reject } 0) ∧
      (v = 1 → stored .undecidedPolicy { s.settings with undecidedPolicy := .pass } 1) ∧
      (v = 0 → stored .blankTolerance { s.settings with blankTolerance := false } 0) ∧
      (v = 1 → stored .blankTolerance { s.settings with blankTolerance := true } 1) ∧
      (v = 0 → stored .reportingMode { s.settings with reportingMode := .silent } 0) ∧
      (v = 1 → stored .reportingMode { s.settings with reportingMode := .severe } 1) ∧
      (v = 2 → stored .reportingMode { s.settings with reportingMode := .faults } 2) ∧
      (v = 3 → stored .reportingMode { s.settings with reportingMode := .label } 3) ∧
      (v = 4 → stored .reportingMode { s.settings with reportingMode := .all } 4)) ∧
    (∀ m : CheckMode, m = (if v = 0 then .off else if v = 1 then .check else .checkScrub) →
      ∃ t, exec (.checkModeWrite d) s = .next t ∧
        t = ((({ s with
                 settings := { s.settings with checkMode := m }
                 scrubQueue := (if m = .checkScrub then s.scrubQueue else []) } : State).storeWord (4193792 + 0x050)
          (BitVec.ofNat 32 m.code)).endHost true none).bookkeptAs t)

/-- A geometry setting outside STOPPED, an enumeration's unknown code, and a map entry while the map is locked or the
engine is not STOPPED are refused: memory and working copy stay, the cycle ends OK, SETTING_REFUSED is given and
raised. -/
def Obligations.SettingAndMapWritesRefused : Prop :=
  ∀ (d : Word) (s : State), s.hostNext →
    let refused (c : Instr) (off : Nat) : Prop := ∃ t, exec c s = .next t ∧ s.sameMemory t ∧
      t = ((s.giveRaise .settingRefused
        { code := .settingRefused, address := some (4193792 + off), value := some d }).endHost true none).bookkeptAs t
    (∀ x, s.engine.state ≠ .stopped →
      (x ∈ [Setting.verdictDeadline, .knifeDistance, .gateDistance, .confirmDistance, .minimumPitch,
            .registrationWindow, .reverseLimit] ∨ ∃ l, x = .lanePitch l) →
      refused (.settingWrite x d) (settingOffset x)) ∧
    (2 ≤ (d.extractLsb' 0 16).toNat → refused (.settingWrite .undecidedPolicy d) 0x04F) ∧
    (2 ≤ (d.extractLsb' 0 16).toNat → refused (.settingWrite .blankTolerance d) 0x051) ∧
    (5 ≤ (d.extractLsb' 0 16).toNat → refused (.settingWrite .reportingMode d) 0x052) ∧
    (∀ e, (s.regions.locked = true ∨ s.engine.state ≠ .stopped) → refused (.mapWrite e d) (mapOffset e))

/-- A map write under an unlocked map and a STOPPED engine: the entry is taken with its size clamped, the ring it maps
has its indices reset, an active exemption window that now meets a mapped region becomes inactive with
EXEMPT_WINDOW_CLEARED, and memory receives the entry as taken. Two points are the model's choices, not the manual's: what
becomes of a ring record in progress (begun again at its first word; one stored whole still owes its index word, log 11),
and window 0's event before window 1's where both become inactive (log 12). -/
def Obligations.MapWriteIsTaken : Prop :=
  ∀ (e : MapEntryName) (d w : Word) (s s1 u0 u1 : State) (base : Address) (size : BitVec 4) (c0 c1 : Bool),
    s.hostNext → s.regions.locked = false → s.engine.state = .stopped →
    let clamp (lo hi : Nat) : BitVec 4 := BitVec.ofNat 4 (max lo (min hi (d.extractLsb' 24 4).toNat))
    base = d.extractLsb' 0 22 →
    size = (match e with
      | .orderRing _ => clamp 2 10
      | .stackRing => clamp 3 10
      | .eventRing => clamp 4 12
      | .verdictCells => 0) →
    s1 = (match e with
      | .orderRing l => State.setLane
          { s with regions := { s.regions with orderRing := s.regions.orderRing.set l ⟨base, size⟩ } } l
          { s.lane l with fetch := (s.lane l).put, release := (s.lane l).put, previousSerial := none }
      | .stackRing =>
        { s with
          regions := { s.regions with stackRing := ⟨base, size⟩ }
          writer := { s.writer with
            stackWrite := s.writer.stackRead
            stackWords := if s.writer.stackWords < 32 then 0 else s.writer.stackWords } }
      | .eventRing =>
        { s with
          regions := { s.regions with eventRing := ⟨base, size⟩ }
          writer := { s.writer with
            eventWrite := s.writer.eventRead
            eventWords := if s.writer.eventWords < 4 then 0 else s.writer.eventWords } }
      | .verdictCells => { s with regions := { s.regions with verdictCells := base } }) →
    (c0 = true ↔ s.window0.active = true ∧ s.window0.meets s1.regions) →
    (c1 = true ↔ s.window1.active = true ∧ s.window1.meets s1.regions) →
    u0 = (if c0 then State.give { s1 with window0 := { s.window0 with active := false } }
        { code := .exemptWindowCleared, address := some s.window0.base.toNat, value := some 0 }
      else s1) →
    u1 = (if c1 then State.give { u0 with window1 := { s.window1 with active := false } }
        { code := .exemptWindowCleared, address := some s.window1.base.toNat, value := some 1 }
      else u0) →
    w = (0#4 ++ size ++ 0#2 ++ base : BitVec 32) →
    ∃ t, exec (.mapWrite e d) s = .next t ∧
      t = ((u1.storeWord (4193792 + mapOffset e) w).endHost true none).bookkeptAs t

/-- The map lock: written 1 while unlocked it locks when every mapped region lies below the control page and no two
share an address, and is refused otherwise; written 1 while locked, or 0, it changes nothing; any other value is
refused. Memory receives the state, and the cycle ends OK. -/
def Obligations.MapLockIsWriteOnce : Prop :=
  ∀ (d : Word) (s : State), s.hostNext →
    let apart : Prop := (∀ e a, s.regions.holds e a → a ≤ 4193791) ∧
      ∀ e f a, e ≠ f → s.regions.holds e a → ¬ s.regions.holds f a
    let refusal : State := s.giveRaise .settingRefused
      { code := .settingRefused, address := some (4193792 + 0x067), value := some d }
    (d = 1 → s.regions.locked = false → apart → ∃ t, exec (.mapLock d) s = .next t ∧
      t = ((State.storeWord { s with regions := { s.regions with locked := true } } (4193792 + 0x067) 1).endHost
        true none).bookkeptAs t) ∧
    (d = 1 → s.regions.locked = false → ¬ apart → ∃ t, exec (.mapLock d) s = .next t ∧
      t = ((refusal.storeWord (4193792 + 0x067) 0).endHost true none).bookkeptAs t) ∧
    ((d = 1 ∧ s.regions.locked = true ∨ d = 0) → ∃ t, exec (.mapLock d) s = .next t ∧
      t = ((s.storeWord (4193792 + 0x067) (if s.regions.locked then 1 else 0)).endHost true none).bookkeptAs t) ∧
    (d ≠ 0 → d ≠ 1 → ∃ t, exec (.mapLock d) s = .next t ∧
      t = ((refusal.storeWord (4193792 + 0x067) (if s.regions.locked then 1 else 0)).endHost true none).bookkeptAs t)

/-- A write to an exemption-window word is stored as written and the window evaluated from its four values: active when
both complements match, the size is not 0, the range lies below the control page and meets no mapped region; refused
when they match and the range does not; inactive in silence otherwise. -/
def Obligations.ExemptionWindowIsEvaluated : Prop :=
  ∀ (n : WindowName) (k : WindowWord) (d : Word) (s : State) (w : ExemptWindow), s.hostNext →
    w = (match k with
      | .base => { s.exemptWindow n with base := d }
      | .baseComplement => { s.exemptWindow n with baseComplement := d }
      | .size => { s.exemptWindow n with size := d }
      | .sizeComplement => { s.exemptWindow n with sizeComplement := d }) →
    let matched : Prop := w.baseComplement = ~~~ w.base ∧ w.sizeComplement = ~~~ w.size
    let clear : Prop := w.base.toNat + w.size.toNat ≤ 4193792 ∧ ¬ w.meets s.regions
    ((¬ matched ∨ w.size = 0) → ∃ t, exec (.exemptionWindowWrite n k d) s = .next t ∧
      t = (((s.setExemptWindow n { w with active := false }).storeWord (4193792 + windowOffset n k) d).endHost
        true none).bookkeptAs t) ∧
    (matched → w.size ≠ 0 → clear → ∃ t, exec (.exemptionWindowWrite n k d) s = .next t ∧
      t = (((s.setExemptWindow n { w with active := true }).storeWord (4193792 + windowOffset n k) d).endHost
        true none).bookkeptAs t) ∧
    (matched → w.size ≠ 0 → ¬ clear → ∃ t, exec (.exemptionWindowWrite n k d) s = .next t ∧
      t = ((((s.setExemptWindow n { w with active := false }).giveRaise .settingRefused
        { code := .settingRefused, address := some (4193792 + windowOffset n k), value := some d }).storeWord
        (4193792 + windowOffset n k) d).endHost true none).bookkeptAs t)

/-- A write to the acknowledge cell, under each of its four rows: bits 0 to 12 clear their summary classes, and the
primary record with its class; bits 16, 17 and 18 release the captures and clear the correctable count; memory receives
zero and the cycle ends OK. -/
def Obligations.AcknowledgeActsOnItsBits : Prop :=
  ∀ (d : Word) (s : State) (c : Instr), s.hostNext →
    c ∈ [Instr.clearSummary d, .releaseCorrectableCapture d, .releaseUncorrectableCapture d,
         .clearCorrectableCount d] →
    ∃ t, exec c s = .next t ∧
      t = ((State.storeWord
        { s with
          summary := s.summary &&& ~~~ d.extractLsb' 0 13
          primary := s.primary.filter (fun p => !d.getLsbD p.cls.bit)
          capture :=
            { correctable := (if d.getLsbD 16 then { held := false, contents := none } else s.capture.correctable)
              uncorrectable :=
                (if d.getLsbD 17 then { held := false, contents := none } else s.capture.uncorrectable)
              count := (if d.getLsbD 18 then 0 else s.capture.count) } }
        (4193792 + 0x0AA) 0).endHost true none).bookkeptAs t

/-! ## Engine commands (07) -/

/-- Refused engine commands, by the first test that fails: the complement, the code, the operand, the command's own
conditions. Each changes nothing but the command status and its event; memory receives zero and the cycle ends OK. The
command cell's word of any code is written by `refusedCode` (every row is the write of its word). -/
def Obligations.EngineCommandRefusals : Prop :=
  ∀ (code operand : Byte) (s : State) (l : Lane), s.hostNext →
    let refused (r : EngineResult) (detail : Nat) : Prop :=
      ∃ t, exec (.refusedCode code operand (matching code operand)) s = .next t ∧
        t = ((s.give { code := .commandRefused, address := some code.toNat,
                       value := some (BitVec.ofNat 32 r.code) }).afterEngineCommand code r
          (BitVec.ofNat 8 detail)).bookkeptAs t
    let forMask : Prop := operand ≠ 0 ∧ operand.toNat < 16
    (∀ complement, complement ≠ matching code operand →
      ∃ t, exec (.refusedCode code operand complement) s = .next t ∧
        t = ((s.give { code := .commandIntegrity, value := some (complement ++ operand ++ code) }).afterEngineCommand
          code .refusedIntegrity 0).bookkeptAs t) ∧
    ((code = 0 ∨ 8 < code.toNat) → refused .refusedCode 0) ∧
    ((code = 1 ∨ code = 2) → ¬ forMask → refused .refusedOperand 0) ∧
    (5 ≤ code.toNat → code.toNat ≤ 8 → 4 ≤ operand.toNat → refused .refusedOperand 0) ∧
    (code = 1 → forMask → (s.engine.state = .halted ∨ s.engine.state = .draining) → refused .refusedState 0) ∧
    (code = 1 → forMask → (s.engine.state = .stopped ∨ s.engine.state = .running) →
      (∀ m, ¬ s.runsLane operand m) → refused .noLane 0) ∧
    (code = 2 → forMask → (s.engine.state = .stopped ∨ s.engine.state = .halted) → refused .refusedState 0) ∧
    (code = 2 → forMask → (s.engine.state = .running ∨ s.engine.state = .draining) →
      (∀ m : Lane, operand.getLsbD m.number = true → (s.lane m).service ≠ .active) → refused .noLane 0) ∧
    (code = 4 → s.engine.state ≠ .halted → refused .refusedState 0) ∧
    (code = 4 → s.engine.state = .halted → s.engine.safe = true → refused .refusedSafe 0) ∧
    (operand.toNat = l.number →
      (code = 6 → (s.lane l).service.isFaulted = false → refused .refusedState 0) ∧
      (code = 6 → (s.lane l).service.isFaulted = true → (s.lane l).queue ≠ [] → refused .refusedQueue l.number) ∧
      (code = 6 → (s.lane l).service.isFaulted = true → (s.lane l).queue = [] → (s.lane l).parked ≠ none →
        refused .refusedParked l.number) ∧
      (code = 6 → (s.lane l).service.isFaulted = true → (s.lane l).queue = [] → (s.lane l).parked = none →
        s.engine.state = .running → (s.regions.orderRing.get l).base = 0 →
        refused .refusedCheck (2 + 16 * l.number)) ∧
      (code = 6 → (s.lane l).service.isFaulted = true → (s.lane l).queue = [] → (s.lane l).parked = none →
        s.engine.state = .running → (s.regions.orderRing.get l).base ≠ 0 →
        (s.settings.lanePitch.get l).toNat < s.settings.pmin.toNat → refused .refusedCheck (10 + 16 * l.number)) ∧
      (code = 7 → (s.lane l).service ≠ .off → refused .refusedState 0) ∧
      (code = 8 → (s.lane l).service ≠ .bypassed → refused .refusedState 0))

/-- RUN from STOPPED or RUNNING with an eligible lane in its mask: when the eleven checks pass, the engine is RUNNING and
exactly the eligible lanes become ACTIVE; else the first failing check is the result, for checks 2 and 10 with the
lowest failing lane, and nothing else changes. That a lane's GATE stays where it stands as the lane enters ACTIVE, also
where a drain left it at STACK or SAMPLE, is the model's choice (log 32). -/
def Obligations.RunStartsTheEligibleLanes : Prop :=
  ∀ (mask done : Byte) (s : State), s.hostNext → mask.toNat < 16 →
    (s.engine.state = .stopped ∨ s.engine.state = .running) → (∃ l, s.runsLane mask l) →
    ((∀ n, s.runCheck (s.runsLane mask) n) → done.toNat < 16 →
      (∀ l : Lane, done.getLsbD l.number = true ↔ s.runsLane mask l) →
      ∃ t, exec (.run mask (matching 0x01 mask)) s = .next t ∧
        (∀ l, s.runsLane mask l → t.lane l = { s.lane l with
          service := .active
          tracker := { tracked := none, synthetic := 0, expiryDue := false }
          lastBound := none
          misses := 0 }) ∧
        (∀ l, ¬ s.runsLane mask l → t.lane l = s.lane l) ∧
        t = ((State.afterEngineCommand
          { s with engine := { s.engine with state := .running }, lanes := t.lanes } 0x01 .done done)).bookkeptAs t) ∧
    (∀ n l, (∀ m, m < n → s.runCheck (s.runsLane mask) m) → ¬ s.runCheck (s.runsLane mask) n →
      (n = 2 → s.runsLane mask l ∧ (s.regions.orderRing.get l).base = 0 ∧
        ∀ m : Lane, m.number < l.number → s.runsLane mask m → (s.regions.orderRing.get m).base ≠ 0) →
      (n = 10 → s.runsLane mask l ∧ (s.settings.lanePitch.get l).toNat < s.settings.pmin.toNat ∧
        ∀ m : Lane, m.number < l.number → s.runsLane mask m →
          s.settings.pmin.toNat ≤ (s.settings.lanePitch.get m).toNat) →
      ∃ t, exec (.run mask (matching 0x01 mask)) s = .next t ∧
        t = ((s.give { code := .commandRefused, address := some 1,
                       value := some (BitVec.ofNat 32 EngineResult.refusedCheck.code) }).afterEngineCommand 0x01
          .refusedCheck (BitVec.ofNat 8 (n + (if n = 2 ∨ n = 10 then 16 * l.number else 0)))).bookkeptAs t)

/-- DRAIN under a RUNNING or DRAINING engine. Where every ACTIVE lane of the mask has an ordered record, these become
DRAINING and a RUNNING engine with no ACTIVE lane left becomes DRAINING. One ACTIVE lane without ordered records
completes its drain within the command: here with room in the holding list. In every case the lanes of the mask are
taken in rising order, each whole with its close, which is the model's choice (07 R115 gives no order; log 29): one
without ordered records by its drain completion (as `LastGateCompletesDrainOrRunOut` and `FullHoldingListParksAndFaults`
say of it), and then the engine settles. -/
def Obligations.DrainTakesTheActiveLanes : Prop :=
  ∀ (mask : Byte) (s : State), s.hostNext → mask.toNat < 16 →
    (s.engine.state = .running ∨ s.engine.state = .draining) →
    (∀ done : Byte, done.toNat < 16 →
      (∀ l : Lane, done.getLsbD l.number = true ↔ mask.getLsbD l.number = true ∧ (s.lane l).service = .active) →
      done ≠ 0 → (∀ l : Lane, done.getLsbD l.number = true → (s.lane l).orderedCount ≠ 0) →
      ∃ (t : State) (v : EngineState), exec (.drain mask (matching 0x02 mask)) s = .next t ∧
        (∀ l : Lane, t.lane l = (if done.getLsbD l.number then { s.lane l with service := .draining } else s.lane l)) ∧
        (v = .draining ↔ s.engine.state = .draining ∨ ∀ l, (t.lane l).service ≠ .active) ∧
        (v = .running ∨ v = .draining) ∧
        t = ((State.afterEngineCommand
          { s with engine := { s.engine with state := v }, lanes := t.lanes } 0x02 .done done)).bookkeptAs t) ∧
    (∀ l : Lane, mask.toNat = 2 ^ l.number → (s.lane l).service = .active → (s.lane l).orderedCount = 0 →
      s.writer.holding.length < 4 →
      ∃ (t u : State), exec (.drain mask (matching 0x02 mask)) s = .next t ∧ (t.lane l).service = .off ∧
        (t.lane l).queue = (s.lane l).queue ∧ (t.lane l).window = [] ∧ (t.lane l).reservation = none ∧
        (t.lane l).fetch = (s.lane l).release ∧ (t.lane l).openStack = none ∧
        t.early = s.early.filter (fun e => e.lane != l) ∧ (∀ m, m ≠ l → t.lane m = s.lane m) ∧
        (t.engine.state = .running ↔ s.engine.state = .running ∧ ∃ m, m ≠ l ∧ (s.lane m).service = .active) ∧
        (t.engine.state = .stopped ↔ ∀ m, m ≠ l → (s.lane m).service ≠ .active ∧ (s.lane m).service ≠ .draining ∧
          ((s.lane m).service.isFaulted = true → (s.lane m).queue = [])) ∧
        u = s.afterEngineCommand 0x02 .done mask ∧
        t.engine = { u.engine with state := t.engine.state } ∧ t = (u.labelWorkAs t).bookkeptAs t) ∧
    (∀ done : Byte, done.toNat < 16 →
      (∀ l : Lane, done.getLsbD l.number = true ↔ mask.getLsbD l.number = true ∧ (s.lane l).service = .active) →
      done ≠ 0 →
      let drained (l : Lane) (u : State) : State :=
        if done.getLsbD l.number = true then
          if (u.lane l).orderedCount = 0 then (u.setLane l { u.lane l with service := .draining }).drainComplete l
          else u.setLane l { u.lane l with service := .draining }
        else u
      ∃ t, exec (.drain mask (matching 0x02 mask)) s = .next t ∧
        t = ((drained .l3 (drained .l2 (drained .l1 (drained .l0 s)))).settleEngine.afterEngineCommand 0x02 .done
          done).bookkeptAs t)

/-- CLEAR_HALT (operand ignored), CLOSE_STACK, CLEAR_LANE, BYPASS and UNBYPASS as they are carried out, with result
DONE; the close of CLOSE_STACK also where it finds the holding list full (`FullHoldingListParksAndFaults` says what it is
then). That CLEAR_LANE under a RUNNING engine leaves GATE where it stands is the model's choice (log 32). -/
def Obligations.LaneCommandsAreCarriedOut : Prop :=
  ∀ (operand : Byte) (s : State) (l : Lane), s.hostNext →
    (s.engine.state = .halted → s.engine.safe = false →
      ∃ t, exec (.clearHalt operand (matching 0x04 operand)) s = .next t ∧
        t = (State.afterEngineCommand { s with engine := { s.engine with state := .stopped } } 0x04 .done
          0).bookkeptAs t) ∧
    (operand.toNat = l.number →
      ((s.lane l).openStack = none → ∃ t, exec (.closeStack operand (matching 0x05 operand)) s = .next t ∧
        t = (s.afterEngineCommand 0x05 .done 0).bookkeptAs t) ∧
      (∀ k, (s.lane l).openStack = some k → ∃ t, exec (.closeStack operand (matching 0x05 operand)) s = .next t ∧
        t = ((s.closeAndFault l .host).afterEngineCommand 0x05 .done 0).bookkeptAs t) ∧
      (∀ k, (s.lane l).openStack = some k → (s.lane l).stacker = .filling k.tray → s.writer.holding.length < 4 →
        ∃ t, exec (.closeStack operand (matching 0x05 operand)) s = .next t ∧
          t = ((((s.setLane l { s.lane l with
            openStack := none, trayPulse := true, stacker := .transferring k.tray }).holdingAs (s.writer.holding ++
              [{ lane := l, tray := some k.tray, sequence := k.sequence, batch := some k.batch, reason := .host,
                 count := k.count, first := k.first, last := k.last, short := k.short }])).give
            { code := .stackClosed, lane := some l, address := some CloseReason.host.code,
              value := some (k.sequence.setWidth 32) }).afterEngineCommand 0x05 .done 0).bookkeptAs t) ∧
      (∀ c, (s.lane l).service = .faulted c → (s.lane l).queue = [] → (s.lane l).parked = none →
        (s.engine.state = .running → (s.regions.orderRing.get l).base ≠ 0 →
          s.settings.pmin.toNat ≤ (s.settings.lanePitch.get l).toNat →
          ∃ t, exec (.clearLane operand (matching 0x06 operand)) s = .next t ∧
            t = ((s.setLane l { s.lane l with
              service := .active
              tracker := { tracked := none, synthetic := 0, expiryDue := false }
              lastBound := none
              misses := 0 }).afterEngineCommand 0x06 .done 0).bookkeptAs t) ∧
        (s.engine.state = .stopped ∨ s.engine.state = .draining ∧
            ¬ (∀ m, m ≠ l → (s.lane m).service ≠ .active ∧ (s.lane m).service ≠ .draining ∧
              ((s.lane m).service.isFaulted = true → (s.lane m).queue = [])) →
          ∃ t, exec (.clearLane operand (matching 0x06 operand)) s = .next t ∧
            t = ((s.setLane l { s.lane l with service := .off }).afterEngineCommand 0x06 .done 0).bookkeptAs t) ∧
        (s.engine.state = .draining →
          (∀ m, m ≠ l → (s.lane m).service ≠ .active ∧ (s.lane m).service ≠ .draining ∧
            ((s.lane m).service.isFaulted = true → (s.lane m).queue = [])) →
          ∃ t, exec (.clearLane operand (matching 0x06 operand)) s = .next t ∧
            t = ((({ s.setLane l { s.lane l with service := .off } with
                engine := { s.engine with state := .stopped } } : State).give
              { code := .engineStopped }).afterEngineCommand 0x06 .done 0).bookkeptAs t)) ∧
      ((s.lane l).service = .off → ∃ t, exec (.bypass operand (matching 0x07 operand)) s = .next t ∧
        t = ((s.setLane l { s.lane l with service := .bypassed, gate := .reject }).afterEngineCommand 0x07 .done
          0).bookkeptAs t) ∧
      ((s.lane l).service = .bypassed → ∃ t, exec (.unbypass operand (matching 0x08 operand)) s = .next t ∧
        t = ((s.setLane l { s.lane l with service := .off }).afterEngineCommand 0x08 .done 0).bookkeptAs t))

/-! ## Memory commands (10) -/

/-- The memory commands as they are carried out: VERIFY and CLEAR begin a walk with the operands latched, CHECK_PROBE
classifies the location it forms, SUSPEND, RESUME and ABORT change the walk. That CLEAR judges an address by its one class
under overlapping regions is the model's reading (log 28). -/
def Obligations.MemoryCommandsAreCarriedOut : Prop :=
  ∀ (rest : BitVec 24) (s : State), s.hostNext →
    let done (c : Instr) (m : MemUnit) : Prop :=
      ∃ t, exec c s = .next t ∧ t = (s.afterMemoryCommand m).bookkeptAs t
    let begun (code : Byte) : MemUnit :=
      { s.mem with
        state := .busy, walk := some code, result := .none, start := s.mem.opStart.toNat,
        count := s.mem.opCount.toNat, fill := s.mem.opFill, progress := s.mem.opStart.toNat, done := 0,
        corrected := 0, uncorrectable := 0, faultAddress := none }
    (s.mem.state = .idle → 1 ≤ s.mem.opCount.toNat → s.mem.opCount.toNat ≤ 65536 → s.mem.opStart.toNat ≤ 4194303 →
      s.mem.opStart.toNat + s.mem.opCount.toNat ≤ 4194304 →
      done (.verify rest) (begun 0x01) ∧
      ((∀ i : Nat, i < s.mem.opCount.toNat → s.clearable (s.mem.opStart.toNat + i)) →
        done (.clear rest) (begun 0x02))) ∧
    (∀ (x : Location) (d : Word) (b : Nat), x = ⟨s.mem.opFill, rest.extractLsb' 0 8⟩ →
      (classify x = .clean → d = x.data ∧ b = 0) → (classify x = .corrected b ∧ d = flipData x.data b ∨
        (∀ k, classify x ≠ .corrected k) ∧ b = 0) → (classify x = .blank → d = 0) →
      (∀ k, classify x = .uncorrectable k → d = x.data) →
      done (.checkProbe rest)
        { s.mem with probe := { outcome := classify x, data := d, bit := b, check := checkByte s.mem.opFill } }) ∧
    (s.mem.state = .busy → done (.suspend rest) { s.mem with state := .suspended }) ∧
    (s.mem.state = .suspended → done (.resume rest) { s.mem with state := .busy }) ∧
    ((s.mem.state = .busy ∨ s.mem.state = .suspended) →
      done (.abort rest) { s.mem with state := .idle, result := .aborted })

/-- Refused memory commands, recorded in the walk command and result fields while the unit is IDLE and in the
last-refusal field otherwise; no event is given. The command cell's word of any code is written by
`memcmdRefusedCode`. That REFUSED_REGION judges an address by its one class under overlapping regions is the model's
reading (log 28). -/
def Obligations.MemoryCommandRefusals : Prop :=
  ∀ (code : Byte) (rest : BitVec 24) (s : State), s.hostNext →
    let refused (r : MemResult) : Prop := ∃ t, exec (.memcmdRefusedCode code rest) s = .next t ∧
      t = (s.afterMemoryCommand (if s.mem.state = .idle then { s.mem with walk := some code, result := r }
        else { s.mem with lastRefusal := some (code, r) })).bookkeptAs t
    let valid : Prop := 1 ≤ s.mem.opCount.toNat ∧ s.mem.opCount.toNat ≤ 65536 ∧ s.mem.opStart.toNat ≤ 4194303 ∧
      s.mem.opStart.toNat + s.mem.opCount.toNat ≤ 4194304
    ((code = 0 ∨ 6 < code.toNat) → refused .refusedCode) ∧
    ((code = 1 ∨ code = 2) → s.mem.state = .busy → refused .refusedBusy) ∧
    ((code = 1 ∨ code = 2) → s.mem.state = .suspended → refused .refusedSuspended) ∧
    ((code = 1 ∨ code = 2) → s.mem.state = .idle → ¬ valid → refused .refusedOperand) ∧
    (code = 2 → s.mem.state = .idle → valid →
      (∃ i, i < s.mem.opCount.toNat ∧ ¬ s.clearable (s.mem.opStart.toNat + i)) → refused .refusedRegion) ∧
    (code = 4 → s.mem.state ≠ .busy → refused .notBusy) ∧
    (code = 5 → s.mem.state = .idle → refused .notBusy) ∧
    (code = 5 → s.mem.state = .busy → refused .refusedBusy) ∧
    (code = 6 → s.mem.state = .idle → refused .notBusy)

/-! ## Grants to the part (03, 06, 08, 09, 10, 11) -/

/-- A fetch begins where its four conditions hold, and has no effect otherwise; a FETCH grant reads the next word of the
lane in rotation, reports what it found, and with the fourth word makes a window entry whose result is the first failing
check. That a fetch start has no effect where its conditions fail (log 30), and a grant out of turn none (log 7), are the
model's choices. -/
def Obligations.FetchStartsAndReads : Prop :=
  ∀ (l : Lane) (s : State) (x : LaneState), x = s.lane l →
    (x.service = .active → x.windowDepth < 8 → x.reservation = none → x.put ≠ x.fetch →
      ∃ t, exec (.fetchStart l) s = .next t ∧ s.sameMemory t ∧
        t = (s.setLane l { x with
          reservation := some { index := x.fetch, before := x.previousSerial, words := [] }
          fetch := x.fetch + 1 }).bookkeptAs t) ∧
    (¬ (x.service = .active ∧ x.windowDepth < 8 ∧ x.reservation = none ∧ x.put ≠ x.fetch) →
      ∃ t, exec (.fetchStart l) s = .next t ∧ t = s.bookkeptAs t) ∧
    (s.inTurn .fetch = false → exec .fetchRead s = .next s) ∧
    (∀ (r : Reservation) (a : Nat) (o : ReadOutcome) (d : Word) (u : State) (ring : MapEntry),
      s.inTurn .fetch = true → s.fetchLane = some l → x.reservation = some r →
      ring = s.regions.orderRing.get l → r.words.length < 4 →
      a = ring.base.toNat + 4 * (r.index.toNat % 2 ^ ring.size.toNat) + r.words.length → s.reads a o d →
      u = (match o with
        | .corrected b => (s.detectCorrectable (.fetch l) a b).offerScrub a
        | .uncorrectable k => s.offerUncorrectable (.fetch l) false a k
        | _ => s) →
      (r.words.length < 3 → ∃ t, exec .fetchRead s = .next t ∧ s.sameMemory t ∧
        t = (({ u.setLane l { x with reservation := some { r with words := r.words ++ [(FetchedWord.mk o d)] } } with
          arbiter := { s.arbiter with lastServed := .fetch, lastLane := l } } : State)).bookkeptAs t) ∧
      (∀ (w0 w1 w2 : FetchedWord) (e : WindowEntry), r.words = [w0, w1, w2] → e.index = r.index → e.word0 = w0 →
        e.word1 = w1 → e.word2 = w2 → e.word3 = { outcome := o, data := d } → e.before = r.before →
        ((∀ c, e.passes x.previousSerial s.settings.pmin c) ∧ e.failed = none ∨
          ∃ c, e.failed = some c ∧ ¬ e.passes x.previousSerial s.settings.pmin c ∧
            ∀ m, m ∈ [OrderCheck.check, .sequence, .pitch, .target, .trim, .reserved].takeWhile (· ≠ c) →
              e.passes x.previousSerial s.settings.pmin m) →
        ∃ t, exec .fetchRead s = .next t ∧ s.sameMemory t ∧
          t = (({ u.setLane l { x with
              window := x.window ++ [e]
              reservation := none
              previousSerial := (if w0.outcome.trusted then some w0.data else x.previousSerial) } with
            arbiter := { s.arbiter with lastServed := .fetch, lastLane := l } } : State)).bookkeptAs t))

/-- MEMCMD grants. A scrub takes the queue's head, re-reads it and writes back a corrected word. A VERIFY word counts
what it finds and writes back a corrected word, and an uncorrectable word after the first stops the walk. A CLEAR word
is written with the fill value, or stops the walk where it may not be: the address judged by its one class under
overlapping regions (log 28, the model's reading). A grant out of turn has no effect (log 7, the model's choice). -/
def Obligations.MemoryGrantsWork : Prop :=
  ∀ (s : State) (a : Nat) (o : ReadOutcome) (d : Word),
    let served (k : MemKind) (u : State) (m : MemUnit) : State :=
      { u with
        arbiter := { s.arbiter with lastServed := .memcmd }
        mem := { m with lastKind := k } }
    let past (m : MemUnit) : MemUnit :=
      { m with
        progress := m.progress + 1
        state := (if m.progress + 1 = m.start + m.count then .idle else m.state)
        result := (if m.progress + 1 = m.start + m.count then .done else m.result) }
    let answers (c : Instr) (u : State) : Prop := ∃ t, exec c s = .next t ∧ t = u.bookkeptAs t
    (s.memInTurn .scrub = false → exec .scrub s = .next s) ∧
    ((s.memInTurn .walk = false ∨ s.mem.walk ≠ some 0x01) → exec .verifyWord s = .next s) ∧
    ((s.memInTurn .walk = false ∨ s.mem.walk ≠ some 0x02) → exec .clearWord s = .next s) ∧
    (∀ (rest : List Nat) (q : State), s.memInTurn .scrub = true → s.scrubQueue = a :: rest →
      q = { s with scrubQueue := rest } →
      (s.addressClass a = .exempt → answers .scrub (served .scrub q s.mem)) ∧
      (s.addressClass a ≠ .exempt → s.readsChecked a o d →
        ((o = .clean ∨ o = .blank) → answers .scrub (served .scrub q s.mem)) ∧
        (∀ b, o = .corrected b →
          answers .scrub (served .scrub ((q.storeWord a d).detectCorrectable .scrub a b) s.mem)) ∧
        (∀ k, o = .uncorrectable k → answers .scrub (served .scrub (q.consumeUncorrectable .scrub a k) s.mem)))) ∧
    (s.memInTurn .walk = true → s.mem.walk = some 0x01 → a = s.mem.progress →
      (s.addressClass a = .exempt → answers .verifyWord (served .walk s (past s.mem))) ∧
      (s.addressClass a ≠ .exempt → s.readsChecked a o d →
        ((o = .clean ∨ o = .blank) →
          answers .verifyWord (served .walk s (past { s.mem with done := s.mem.done + 1 }))) ∧
        (∀ b, o = .corrected b → answers .verifyWord
          (served .walk ((s.storeWord a d).detectCorrectable .verify a b)
            (past { s.mem with done := s.mem.done + 1, corrected := s.mem.corrected + 1 }))) ∧
        (∀ k m, o = .uncorrectable k →
          m = { s.mem with
            done := s.mem.done + 1, uncorrectable := s.mem.uncorrectable + 1, faultAddress := some a } →
          answers .verifyWord (served .walk (s.consumeUncorrectable .verify a k)
            (if a = s.mem.start then past m else { m with state := .idle, result := .stoppedAtFault }))))) ∧
    (s.memInTurn .walk = true → s.mem.walk = some 0x02 → a = s.mem.progress →
      (s.clearable a → answers .clearWord
        (served .walk (s.storeWord a s.mem.fill) (past { s.mem with done := s.mem.done + 1 }))) ∧
      (¬ s.clearable a → answers .clearWord
        (served .walk s { s.mem with state := .idle, result := .refusedRegion })))

/-- RECORD grants. Words of the head stack record and of the head event are stored one by one into the slot that the
write index names, which advances with the last; then the index word is stored and the record leaves, the lowest lane's
parked record taking its room; the head of the publication set is stored with its value as it stands. A grant out of
turn has no effect (log 7). The word stored lies where the ring says, whatever class its address has: where an unlocked map
puts a slot over a control word or into another region, that the store still takes place is the model's choice (logs 25
and 35). -/
def Obligations.RecordGrantsWork : Prop :=
  ∀ (s : State),
    let served (k : RecordKind) (u : State) (w : Writer) : State :=
      { u with
        arbiter := { s.arbiter with lastServed := .record }
        writer := { w with lastKind := k } }
    let answers (c : Instr) (u : State) : Prop := ∃ t, exec c s = .next t ∧ t = u.bookkeptAs t
    ((s.recordInTurn .stack = false ∨ 32 ≤ s.writer.stackWords) → exec .stackRecordWord s = .next s) ∧
    ((s.recordInTurn .stack = false ∨ s.writer.stackWords < 32) → exec .stackPublicationComplete s = .next s) ∧
    ((s.recordInTurn .event = false ∨ 4 ≤ s.writer.eventWords) → exec .eventRecordWord s = .next s) ∧
    ((s.recordInTurn .event = false ∨ s.writer.eventWords < 4) → exec .eventPublicationComplete s = .next s) ∧
    (s.recordInTurn .status = false → exec .statusPublication s = .next s) ∧
    (∀ (r : StackRecord) (rest : List StackRecord) (k slot : Nat), s.recordInTurn .stack = true →
      s.writer.holding = r :: rest → k = s.writer.stackWords →
      slot = s.regions.stackRing.base.toNat +
        32 * (s.writer.stackWrite.toNat % 2 ^ s.regions.stackRing.size.toNat) →
      (k < 32 → answers .stackRecordWord (served .stack (s.storeWord (slot + k) (r.word k)) { s.writer with
        stackWords := k + 1
        stackWrite := (if k = 31 then s.writer.stackWrite + 1 else s.writer.stackWrite) })) ∧
      (∀ (u : State), 32 ≤ k → u = (s.setLane r.lane { s.lane r.lane with
          written := (s.lane r.lane).written + r.labels }).storeWord (4193792 + 0x090)
            (s.writer.stackWrite.setWidth 32) →
        ((∀ l, (s.lane l).parked = none) → answers .stackPublicationComplete
          (served .stack u { s.writer with stackWords := 0, holding := rest })) ∧
        (∀ (l : Lane) (p : StackRecord), (s.lane l).parked = some p →
          (∀ m : Lane, m.number < l.number → (s.lane m).parked = none) → answers .stackPublicationComplete
            (served .stack (u.setLane l { u.lane l with parked := none })
              { s.writer with stackWords := 0, holding := rest ++ [p] })))) ∧
    (∀ (e : Event) (rest : List Event) (k slot : Nat), s.recordInTurn .event = true →
      s.writer.events = e :: rest → k = s.writer.eventWords →
      slot = s.regions.eventRing.base.toNat +
        4 * (s.writer.eventWrite.toNat % 2 ^ s.regions.eventRing.size.toNat) →
      (k < 4 → answers .eventRecordWord (served .event (s.storeWord (slot + k) (e.word k)) { s.writer with
        eventWords := k + 1
        eventWrite := (if k = 3 then s.writer.eventWrite + 1 else s.writer.eventWrite) })) ∧
      (4 ≤ k → answers .eventPublicationComplete (served .event
        (s.storeWord (4193792 + 0x092) (s.writer.eventWrite.setWidth 32))
        { s.writer with eventWords := 0, events := rest }))) ∧
    (∀ (o : Nat) (rest : List Nat), s.recordInTurn .status = true → s.writer.publication = o :: rest →
      ∃ t, exec .statusPublication s = .next t ∧ t.writer.publication = rest ∧
        t = (served .status (s.storeWord (4193792 + o) (s.publishedWord o)) s.writer).bookkeptAs t)

/-! ## Shared operations (09, 11) -/

/-- The check byte of zero is 0x55, and each data bit that is one adds its column. The check unit classifies a location
by the first of six lines that applies; a syndrome that is a data bit's column, or has one bit set, is one flipped bit.
So one flipped bit of a stored word reads CORRECTED with its position, and a poisoned word reads POISON. -/
def Obligations.CheckCodeAndClassification : Prop :=
  let columns : List Byte :=
    [0x07, 0x19, 0x61, 0x13, 0x25, 0x49, 0x8A, 0x94, 0xA2, 0xC4, 0xA8, 0xD0, 0x0E, 0x16, 0x26, 0x46,
     0x1A, 0x2A, 0x4A, 0x32, 0x52, 0x62, 0x1C, 0x2C, 0x4C, 0x34, 0x54, 0x64, 0x38, 0x58, 0x68, 0x70]
  checkByte 0 = 0x55 ∧
  (∀ (d : Word) (i : Nat) (c : Byte), columns[i]? = some c →
    checkByte (d ^^^ BitVec.ofNat 32 (2 ^ i)) = checkByte d ^^^ c ∧
    classify ⟨d ^^^ BitVec.ofNat 32 (2 ^ i), checkByte d⟩ = .corrected i) ∧
  (∀ (d : Word) (j : Nat), j < 8 → classify ⟨d, checkByte d ^^^ BitVec.ofNat 8 (2 ^ j)⟩ = .corrected (32 + j)) ∧
  (∀ d : Word, classify ⟨d, checkByte d ^^^ 0x81⟩ = .uncorrectable .poison) ∧
  (∀ (x : Location) (y : Byte), y = x.check ^^^ checkByte x.data →
    let zeros : Prop := x.data = 0 ∧ x.check = 0
    let ones : Prop := x.data = BitVec.allOnes 32 ∧ x.check = 0xFF
    let oneBit (b : Nat) : Prop := columns[b]? = some y ∨ 32 ≤ b ∧ b < 40 ∧ y = BitVec.ofNat 8 (2 ^ (b - 32))
    (zeros → classify x = .blank) ∧
    (ones → classify x = .uncorrectable .multi) ∧
    (¬ zeros → ¬ ones → y = 0 → classify x = .clean) ∧
    (¬ zeros → ¬ ones → ∀ b, oneBit b → classify x = .corrected b) ∧
    (¬ zeros → ¬ ones → y = 0x81 → classify x = .uncorrectable .poison) ∧
    (¬ zeros → ¬ ones → y ≠ 0 → y ≠ 0x81 → (∀ b, ¬ oneBit b) → classify x = .uncorrectable .multi))

/-- What giving an event, raising a class, making a detection and offering a scrub do, and what ATTN and STOPREQ are. Every
event given takes the next sequence number; one that the reporting mode keeps joins the event queue, or is dropped with
EVENTS_LOST where the queue holds 8. A class raised sets its flag and, where the primary record is absent or of strictly
lower priority, writes it. A correctable detection raises the count, which holds at 65,535, and comes to the threshold with
CORRECTABLE_LIMIT; a detection writes a capture that is not held and holds it when it is consuming; an uncorrectable one
that is consuming also gives and raises UNCORRECTABLE. A scrub is offered in CHECK_SCRUB only, never twice, and raises
SCRUB_SKIPPED with no event where 4 are queued. ATTN is a flag set under the mask; STOPREQ is HALTED or a lane FAULTED. A
raise carries what its event carries (log 13). Nothing else changes in any of them. -/
def Obligations.EventsReportsAndAttention : Prop :=
  let bit : SummaryClass → Nat
    | .safetyStop => 0 | .reverseLimit => 1 | .laneFault => 2 | .uncorrectable => 3 | .stackBacklog => 4
    | .orderFault => 5 | .orderStarved => 6 | .lateVerdict => 7 | .protection => 8 | .settingRefused => 9
    | .correctableLimit => 10 | .eventsLost => 11 | .scrubSkipped => 12
  let raised (s : State) (p : PrimaryRecord) : State :=
    { s with
      summary := s.summary ||| BitVec.ofNat 13 (2 ^ bit p.cls)
      primary := (match s.primary with
        | none => some p
        | some q => if bit p.cls < bit q.cls then some p else some q) }
  let consuming : Source → Bool
    | .fetch _ => false | .hostRead => true | .hostWrite => true | .scrub => true | .verify => true
  (∀ (s u : State) (at' : WebPos) (b : EventBody) (e : Event) (kept : Bool),
    e = { sequence := s.writer.eventSequence, code := b.code, lane := b.lane, serial := b.serial,
          address := b.address, value := b.value, position := at' } →
    u = { s with writer := { s.writer with eventSequence := s.writer.eventSequence + 1 } } →
    kept = (match s.settings.reportingMode with
      | .silent => false
      | .severe => b.code.severity == .severe
      | .faults => b.code.severity == .fault || b.code.severity == .severe
      | .label => b.code.severity != .info
      | .all => true) →
    (kept = false → s.giveAt at' b = u) ∧
    (kept = true → s.writer.events.length < 8 →
      s.giveAt at' b = { u with writer := { u.writer with events := s.writer.events ++ [e] } }) ∧
    (kept = true → 8 ≤ s.writer.events.length →
      s.giveAt at' b = raised u { cls := .eventsLost, lane := none, serial := none, address := none,
                                  position := s.web.position }) ∧
    s.give b = s.giveAt s.web.position b) ∧
  (∀ (s : State) (c : SummaryClass) (l : Option Lane) (n : Option Serial) (a : Option Nat),
    s.raiseClass c l n a =
      raised s { cls := c, lane := l, serial := n, address := a, position := s.web.position }) ∧
  (∀ (s : State) (c : SummaryClass) (b : EventBody),
    s.giveRaise c b = raised (s.give b)
      { cls := c, lane := b.lane, serial := b.serial, address := b.address, position := s.web.position }) ∧
  (∀ (s counted u : State) (src : Source) (a i : Nat),
    counted = { s with capture := { s.capture with
      count := if s.capture.count < 65535 then s.capture.count + 1 else s.capture.count } } →
    u = (if s.capture.count < 65535 ∧ s.capture.count + 1 = s.settings.correctableThreshold.toNat then
        counted.giveRaise .correctableLimit
          { code := .correctableLimit, value := some (BitVec.ofNat 32 (s.capture.count + 1)) }
      else counted) →
    s.detectCorrectable src a i = { u with capture := { counted.capture with
      correctable := if s.capture.correctable.held = true then s.capture.correctable
        else { held := consuming src, contents := some { address := a, detail := i, source := src } } } }) ∧
  (∀ (s u : State) (src : Source) (consumed : Bool) (a : Nat) (d : Detail),
    u = { s with capture := { s.capture with
      uncorrectable := if s.capture.uncorrectable.held = true then s.capture.uncorrectable
        else { held := consumed, contents := some { address := a, detail := d, source := src } } } } →
    s.offerUncorrectable src consumed a d = u ∧
    (consumed = true → s.consumeUncorrectable src a d = u.giveRaise .uncorrectable
      { code := .uncorrectable, address := some a,
        value := some (match d with | .multi => 1 | .poison => 2 | .blank => 3) })) ∧
  (∀ (s : State) (a : Nat),
    (s.settings.checkMode ≠ .checkScrub ∨ a ∈ s.scrubQueue → s.offerScrub a = s) ∧
    (s.settings.checkMode = .checkScrub → a ∉ s.scrubQueue → s.scrubQueue.length < 4 →
      s.offerScrub a = { s with scrubQueue := s.scrubQueue ++ [a] }) ∧
    (s.settings.checkMode = .checkScrub → a ∉ s.scrubQueue → 4 ≤ s.scrubQueue.length →
      s.offerScrub a = raised s { cls := .scrubSkipped, lane := none, serial := none, address := none,
                                  position := s.web.position })) ∧
  ∀ s : State,
    (s.attn = true ↔
      ∃ i, i < 13 ∧ s.summary.getLsbD i = true ∧ s.settings.attentionMask.getLsbD i = true) ∧
    (s.stopReq = true ↔ s.engine.state = .halted ∨ ∃ l c, (s.lane l).service = .faulted c)

/-! ## Invariants -/

/-- Every step keeps the canonical form of memory, the port at rest, the bounds that the manual gives, the publication
set and the early table without duplicates, the requests settled (no bypass count without a request, the memory command
unit's next request presented), and a walk of a known code. -/
def Obligations.StepKeepsTheBookkeeping : Prop :=
  ∀ s t : State, step s = .next t →
    (Memory.wf s.memory = true → Memory.wf t.memory = true) ∧ (s.portAtRest → t.portAtRest) ∧
    (s.bounded → t.bounded) ∧ (s.publicationSet → t.publicationSet) ∧ (s.earlyDistinct → t.earlyDistinct) ∧
    (s.requestsSettled → t.requestsSettled) ∧ (s.walkKnown → t.walkKnown)

/-- Every step keeps what holds of engine, lanes, queues, stacks and gates together. -/
def Obligations.StepKeepsTheEngineSound : Prop :=
  ∀ s t : State, step s = .next t → s.sound → t.sound

/-- In a sound machine every step keeps each lane's ring indices in order, with as many fetched slots as records with an
order and window positions, and keeps the account of labels (06 R101): a lane's account that is exact before a step is
exact after it, while no missing overflow and no unordered count of the lane has reached 65,535 then, the condition R101
itself names. The account of the first 65,535 labels of each lane is by itself an invariant: none of them is lost or
counted twice. -/
def Obligations.StepKeepsRingsAndAccount : Prop :=
  ∀ s t : State, step s = .next t → s.sound →
    (s.ringsHold → t.ringsHold) ∧
    (∀ l : Lane, t.unsaturated l → s.accountedFor l = (s.lane l).departed →
      t.accountedFor l = (t.lane l).departed) ∧
    (s.accountHolds → t.accountHolds)

/-- The invariants hold at reset. -/
def Obligations.InvariantsHoldAtReset : Prop :=
  Memory.wf State.reset.memory = true ∧ State.reset.portAtRest ∧ State.reset.bounded ∧
  State.reset.publicationSet ∧ State.reset.earlyDistinct ∧ State.reset.requestsSettled ∧
  State.reset.walkKnown ∧ State.reset.sound ∧ State.reset.ringsHold ∧
  State.reset.accountHolds
end

