-- ==== Sys2Proof/Laws/State.lean ====
section
/-! SUPPORT. What each update of the state does to each field, one lemma per field per update, so that no proof unfolds
a record update. -/

namespace Sys2Proof.Machine

/-! ## Four of a kind -/

@[simp] theorem PerLane.get_set_self {α : Type} (p : PerLane α) (l : Lane) (x : α) : (p.set l x).get l = x := by
  cases l <;> rfl

theorem PerLane.get_set_other {α : Type} (p : PerLane α) {l m : Lane} (x : α) (h : m ≠ l) :
    (p.set l x).get m = p.get m := by
  cases l <;> cases m <;> first | rfl | exact absurd rfl h

@[simp] theorem PerLane.set_get {α : Type} (p : PerLane α) (l : Lane) : p.set l (p.get l) = p := by
  cases l <;> rfl

@[simp] theorem PerLane.set_set {α : Type} (p : PerLane α) (l : Lane) (x y : α) : (p.set l x).set l y = p.set l y := by
  cases l <;> rfl

@[simp] theorem PerLane.get_all {α : Type} (x : α) (l : Lane) : (PerLane.all x).get l = x := by
  cases l <;> rfl

theorem PerLane.ext_get {α : Type} {p q : PerLane α} (h : ∀ l, p.get l = q.get l) : p = q := by
  cases p; cases q
  have h0 := h .l0; have h1 := h .l1; have h2 := h .l2; have h3 := h .l3
  simp only [PerLane.get] at h0 h1 h2 h3
  subst h0 h1 h2 h3; rfl

@[simp] theorem lane_setLane_self (s : State) (l : Lane) (x : LaneState) : (s.setLane l x).lane l = x := by
  cases l <;> rfl

theorem lane_setLane_other (s : State) {l m : Lane} (x : LaneState) (h : m ≠ l) :
    (s.setLane l x).lane m = s.lane m := by
  cases l <;> cases m <;> first | rfl | exact absurd rfl h

@[simp] theorem setLane_lane (s : State) (l : Lane) : s.setLane l (s.lane l) = s := by
  cases l <;> rfl

@[simp] theorem setLane_setLane (s : State) (l : Lane) (x y : LaneState) :
    (s.setLane l x).setLane l y = s.setLane l y := by
  cases l <;> rfl

/-! ## Updates that say what they set -/

@[simp] theorem setLane_pending (s : State) (l : Lane) (x : LaneState) : (s.setLane l x).pending = s.pending := rfl
@[simp] theorem setLane_web (s : State) (l : Lane) (x : LaneState) : (s.setLane l x).web = s.web := rfl
@[simp] theorem setLane_lanes (s : State) (l : Lane) (x : LaneState) : (s.setLane l x).lanes = s.lanes.set l x := rfl
@[simp] theorem setLane_early (s : State) (l : Lane) (x : LaneState) : (s.setLane l x).early = s.early := rfl
@[simp] theorem setLane_engine (s : State) (l : Lane) (x : LaneState) : (s.setLane l x).engine = s.engine := rfl
@[simp] theorem setLane_hostPort (s : State) (l : Lane) (x : LaneState) : (s.setLane l x).hostPort = s.hostPort := rfl
@[simp] theorem setLane_hostEnd (s : State) (l : Lane) (x : LaneState) : (s.setLane l x).hostEnd = s.hostEnd := rfl
@[simp] theorem setLane_arbiter (s : State) (l : Lane) (x : LaneState) : (s.setLane l x).arbiter = s.arbiter := rfl
@[simp] theorem setLane_memory (s : State) (l : Lane) (x : LaneState) : (s.setLane l x).memory = s.memory := rfl
@[simp] theorem setLane_powerCycle (s : State) (l : Lane) (x : LaneState) : (s.setLane l x).powerCycle = s.powerCycle := rfl
@[simp] theorem setLane_scrubQueue (s : State) (l : Lane) (x : LaneState) : (s.setLane l x).scrubQueue = s.scrubQueue := rfl
@[simp] theorem setLane_capture (s : State) (l : Lane) (x : LaneState) : (s.setLane l x).capture = s.capture := rfl
@[simp] theorem setLane_mem (s : State) (l : Lane) (x : LaneState) : (s.setLane l x).mem = s.mem := rfl
@[simp] theorem setLane_settings (s : State) (l : Lane) (x : LaneState) : (s.setLane l x).settings = s.settings := rfl
@[simp] theorem setLane_regions (s : State) (l : Lane) (x : LaneState) : (s.setLane l x).regions = s.regions := rfl
@[simp] theorem setLane_window0 (s : State) (l : Lane) (x : LaneState) : (s.setLane l x).window0 = s.window0 := rfl
@[simp] theorem setLane_window1 (s : State) (l : Lane) (x : LaneState) : (s.setLane l x).window1 = s.window1 := rfl
@[simp] theorem setLane_summary (s : State) (l : Lane) (x : LaneState) : (s.setLane l x).summary = s.summary := rfl
@[simp] theorem setLane_primary (s : State) (l : Lane) (x : LaneState) : (s.setLane l x).primary = s.primary := rfl
@[simp] theorem setLane_writer (s : State) (l : Lane) (x : LaneState) : (s.setLane l x).writer = s.writer := rfl

@[simp] theorem raiseClass_pending (s : State) (c : SummaryClass) (l : Option Lane) (n : Option Serial) (a : Option Nat) : (s.raiseClass c l n a).pending = s.pending := rfl
@[simp] theorem raiseClass_web (s : State) (c : SummaryClass) (l : Option Lane) (n : Option Serial) (a : Option Nat) : (s.raiseClass c l n a).web = s.web := rfl
@[simp] theorem raiseClass_lanes (s : State) (c : SummaryClass) (l : Option Lane) (n : Option Serial) (a : Option Nat) : (s.raiseClass c l n a).lanes = s.lanes := rfl
@[simp] theorem raiseClass_early (s : State) (c : SummaryClass) (l : Option Lane) (n : Option Serial) (a : Option Nat) : (s.raiseClass c l n a).early = s.early := rfl
@[simp] theorem raiseClass_engine (s : State) (c : SummaryClass) (l : Option Lane) (n : Option Serial) (a : Option Nat) : (s.raiseClass c l n a).engine = s.engine := rfl
@[simp] theorem raiseClass_hostPort (s : State) (c : SummaryClass) (l : Option Lane) (n : Option Serial) (a : Option Nat) : (s.raiseClass c l n a).hostPort = s.hostPort := rfl
@[simp] theorem raiseClass_hostEnd (s : State) (c : SummaryClass) (l : Option Lane) (n : Option Serial) (a : Option Nat) : (s.raiseClass c l n a).hostEnd = s.hostEnd := rfl
@[simp] theorem raiseClass_arbiter (s : State) (c : SummaryClass) (l : Option Lane) (n : Option Serial) (a : Option Nat) : (s.raiseClass c l n a).arbiter = s.arbiter := rfl
@[simp] theorem raiseClass_memory (s : State) (c : SummaryClass) (l : Option Lane) (n : Option Serial) (a : Option Nat) : (s.raiseClass c l n a).memory = s.memory := rfl
@[simp] theorem raiseClass_powerCycle (s : State) (c : SummaryClass) (l : Option Lane) (n : Option Serial) (a : Option Nat) : (s.raiseClass c l n a).powerCycle = s.powerCycle := rfl
@[simp] theorem raiseClass_scrubQueue (s : State) (c : SummaryClass) (l : Option Lane) (n : Option Serial) (a : Option Nat) : (s.raiseClass c l n a).scrubQueue = s.scrubQueue := rfl
@[simp] theorem raiseClass_capture (s : State) (c : SummaryClass) (l : Option Lane) (n : Option Serial) (a : Option Nat) : (s.raiseClass c l n a).capture = s.capture := rfl
@[simp] theorem raiseClass_mem (s : State) (c : SummaryClass) (l : Option Lane) (n : Option Serial) (a : Option Nat) : (s.raiseClass c l n a).mem = s.mem := rfl
@[simp] theorem raiseClass_settings (s : State) (c : SummaryClass) (l : Option Lane) (n : Option Serial) (a : Option Nat) : (s.raiseClass c l n a).settings = s.settings := rfl
@[simp] theorem raiseClass_regions (s : State) (c : SummaryClass) (l : Option Lane) (n : Option Serial) (a : Option Nat) : (s.raiseClass c l n a).regions = s.regions := rfl
@[simp] theorem raiseClass_window0 (s : State) (c : SummaryClass) (l : Option Lane) (n : Option Serial) (a : Option Nat) : (s.raiseClass c l n a).window0 = s.window0 := rfl
@[simp] theorem raiseClass_window1 (s : State) (c : SummaryClass) (l : Option Lane) (n : Option Serial) (a : Option Nat) : (s.raiseClass c l n a).window1 = s.window1 := rfl
@[simp] theorem raiseClass_summary (s : State) (c : SummaryClass) (l : Option Lane) (n : Option Serial) (a : Option Nat) : (s.raiseClass c l n a).summary = s.summary ||| BitVec.ofNat 13 (2 ^ c.bit) := rfl
@[simp] theorem raiseClass_primary (s : State) (c : SummaryClass) (l : Option Lane) (n : Option Serial) (a : Option Nat) : (s.raiseClass c l n a).primary = offerPrimary s.primary ⟨c, l, n, a, s.web.position⟩ := rfl
@[simp] theorem raiseClass_writer (s : State) (c : SummaryClass) (l : Option Lane) (n : Option Serial) (a : Option Nat) : (s.raiseClass c l n a).writer = s.writer := rfl
@[simp] theorem raiseClass_lane (s : State) (c : SummaryClass) (l : Option Lane) (n : Option Serial) (a : Option Nat) (k : Lane) : (s.raiseClass c l n a).lane k = s.lane k := rfl

@[simp] theorem storeLocation_pending (s : State) (a : Nat) (x : Location) : (s.storeLocation a x).pending = s.pending := rfl
@[simp] theorem storeLocation_web (s : State) (a : Nat) (x : Location) : (s.storeLocation a x).web = s.web := rfl
@[simp] theorem storeLocation_lanes (s : State) (a : Nat) (x : Location) : (s.storeLocation a x).lanes = s.lanes := rfl
@[simp] theorem storeLocation_early (s : State) (a : Nat) (x : Location) : (s.storeLocation a x).early = s.early := rfl
@[simp] theorem storeLocation_engine (s : State) (a : Nat) (x : Location) : (s.storeLocation a x).engine = s.engine := rfl
@[simp] theorem storeLocation_hostPort (s : State) (a : Nat) (x : Location) : (s.storeLocation a x).hostPort = s.hostPort := rfl
@[simp] theorem storeLocation_hostEnd (s : State) (a : Nat) (x : Location) : (s.storeLocation a x).hostEnd = s.hostEnd := rfl
@[simp] theorem storeLocation_arbiter (s : State) (a : Nat) (x : Location) : (s.storeLocation a x).arbiter = s.arbiter := rfl
@[simp] theorem storeLocation_memory (s : State) (a : Nat) (x : Location) : (s.storeLocation a x).memory = Memory.storeInside s.memory a x := rfl
@[simp] theorem storeLocation_powerCycle (s : State) (a : Nat) (x : Location) : (s.storeLocation a x).powerCycle = s.powerCycle := rfl
@[simp] theorem storeLocation_scrubQueue (s : State) (a : Nat) (x : Location) : (s.storeLocation a x).scrubQueue = s.scrubQueue := rfl
@[simp] theorem storeLocation_capture (s : State) (a : Nat) (x : Location) : (s.storeLocation a x).capture = s.capture := rfl
@[simp] theorem storeLocation_mem (s : State) (a : Nat) (x : Location) : (s.storeLocation a x).mem = s.mem := rfl
@[simp] theorem storeLocation_settings (s : State) (a : Nat) (x : Location) : (s.storeLocation a x).settings = s.settings := rfl
@[simp] theorem storeLocation_regions (s : State) (a : Nat) (x : Location) : (s.storeLocation a x).regions = s.regions := rfl
@[simp] theorem storeLocation_window0 (s : State) (a : Nat) (x : Location) : (s.storeLocation a x).window0 = s.window0 := rfl
@[simp] theorem storeLocation_window1 (s : State) (a : Nat) (x : Location) : (s.storeLocation a x).window1 = s.window1 := rfl
@[simp] theorem storeLocation_summary (s : State) (a : Nat) (x : Location) : (s.storeLocation a x).summary = s.summary := rfl
@[simp] theorem storeLocation_primary (s : State) (a : Nat) (x : Location) : (s.storeLocation a x).primary = s.primary := rfl
@[simp] theorem storeLocation_writer (s : State) (a : Nat) (x : Location) : (s.storeLocation a x).writer = s.writer := rfl
@[simp] theorem storeLocation_lane (s : State) (a : Nat) (x : Location) (k : Lane) : (s.storeLocation a x).lane k = s.lane k := rfl

@[simp] theorem storeWord_pending (s : State) (a : Nat) (d : Word) : (s.storeWord a d).pending = s.pending := rfl
@[simp] theorem storeWord_web (s : State) (a : Nat) (d : Word) : (s.storeWord a d).web = s.web := rfl
@[simp] theorem storeWord_lanes (s : State) (a : Nat) (d : Word) : (s.storeWord a d).lanes = s.lanes := rfl
@[simp] theorem storeWord_early (s : State) (a : Nat) (d : Word) : (s.storeWord a d).early = s.early := rfl
@[simp] theorem storeWord_engine (s : State) (a : Nat) (d : Word) : (s.storeWord a d).engine = s.engine := rfl
@[simp] theorem storeWord_hostPort (s : State) (a : Nat) (d : Word) : (s.storeWord a d).hostPort = s.hostPort := rfl
@[simp] theorem storeWord_hostEnd (s : State) (a : Nat) (d : Word) : (s.storeWord a d).hostEnd = s.hostEnd := rfl
@[simp] theorem storeWord_arbiter (s : State) (a : Nat) (d : Word) : (s.storeWord a d).arbiter = s.arbiter := rfl
@[simp] theorem storeWord_memory (s : State) (a : Nat) (d : Word) : (s.storeWord a d).memory = Memory.storeInside s.memory a (checkedLocation d) := rfl
@[simp] theorem storeWord_powerCycle (s : State) (a : Nat) (d : Word) : (s.storeWord a d).powerCycle = s.powerCycle := rfl
@[simp] theorem storeWord_scrubQueue (s : State) (a : Nat) (d : Word) : (s.storeWord a d).scrubQueue = s.scrubQueue := rfl
@[simp] theorem storeWord_capture (s : State) (a : Nat) (d : Word) : (s.storeWord a d).capture = s.capture := rfl
@[simp] theorem storeWord_mem (s : State) (a : Nat) (d : Word) : (s.storeWord a d).mem = s.mem := rfl
@[simp] theorem storeWord_settings (s : State) (a : Nat) (d : Word) : (s.storeWord a d).settings = s.settings := rfl
@[simp] theorem storeWord_regions (s : State) (a : Nat) (d : Word) : (s.storeWord a d).regions = s.regions := rfl
@[simp] theorem storeWord_window0 (s : State) (a : Nat) (d : Word) : (s.storeWord a d).window0 = s.window0 := rfl
@[simp] theorem storeWord_window1 (s : State) (a : Nat) (d : Word) : (s.storeWord a d).window1 = s.window1 := rfl
@[simp] theorem storeWord_summary (s : State) (a : Nat) (d : Word) : (s.storeWord a d).summary = s.summary := rfl
@[simp] theorem storeWord_primary (s : State) (a : Nat) (d : Word) : (s.storeWord a d).primary = s.primary := rfl
@[simp] theorem storeWord_writer (s : State) (a : Nat) (d : Word) : (s.storeWord a d).writer = s.writer := rfl
@[simp] theorem storeWord_lane (s : State) (a : Nat) (d : Word) (k : Lane) : (s.storeWord a d).lane k = s.lane k := rfl

@[simp] theorem endHost_pending (s : State) (ok : Bool) (d : Option Word) : (s.endHost ok d).pending = s.pending := rfl
@[simp] theorem endHost_web (s : State) (ok : Bool) (d : Option Word) : (s.endHost ok d).web = s.web := rfl
@[simp] theorem endHost_lanes (s : State) (ok : Bool) (d : Option Word) : (s.endHost ok d).lanes = s.lanes := rfl
@[simp] theorem endHost_early (s : State) (ok : Bool) (d : Option Word) : (s.endHost ok d).early = s.early := rfl
@[simp] theorem endHost_engine (s : State) (ok : Bool) (d : Option Word) : (s.endHost ok d).engine = s.engine := rfl
@[simp] theorem endHost_hostPort (s : State) (ok : Bool) (d : Option Word) : (s.endHost ok d).hostPort = s.hostPort := rfl
@[simp] theorem endHost_hostEnd (s : State) (ok : Bool) (d : Option Word) : (s.endHost ok d).hostEnd = some ⟨ok, d⟩ := rfl
@[simp] theorem endHost_arbiter (s : State) (ok : Bool) (d : Option Word) : (s.endHost ok d).arbiter = s.arbiter := rfl
@[simp] theorem endHost_memory (s : State) (ok : Bool) (d : Option Word) : (s.endHost ok d).memory = s.memory := rfl
@[simp] theorem endHost_powerCycle (s : State) (ok : Bool) (d : Option Word) : (s.endHost ok d).powerCycle = s.powerCycle := rfl
@[simp] theorem endHost_scrubQueue (s : State) (ok : Bool) (d : Option Word) : (s.endHost ok d).scrubQueue = s.scrubQueue := rfl
@[simp] theorem endHost_capture (s : State) (ok : Bool) (d : Option Word) : (s.endHost ok d).capture = s.capture := rfl
@[simp] theorem endHost_mem (s : State) (ok : Bool) (d : Option Word) : (s.endHost ok d).mem = s.mem := rfl
@[simp] theorem endHost_settings (s : State) (ok : Bool) (d : Option Word) : (s.endHost ok d).settings = s.settings := rfl
@[simp] theorem endHost_regions (s : State) (ok : Bool) (d : Option Word) : (s.endHost ok d).regions = s.regions := rfl
@[simp] theorem endHost_window0 (s : State) (ok : Bool) (d : Option Word) : (s.endHost ok d).window0 = s.window0 := rfl
@[simp] theorem endHost_window1 (s : State) (ok : Bool) (d : Option Word) : (s.endHost ok d).window1 = s.window1 := rfl
@[simp] theorem endHost_summary (s : State) (ok : Bool) (d : Option Word) : (s.endHost ok d).summary = s.summary := rfl
@[simp] theorem endHost_primary (s : State) (ok : Bool) (d : Option Word) : (s.endHost ok d).primary = s.primary := rfl
@[simp] theorem endHost_writer (s : State) (ok : Bool) (d : Option Word) : (s.endHost ok d).writer = s.writer := rfl
@[simp] theorem endHost_lane (s : State) (ok : Bool) (d : Option Word) (k : Lane) : (s.endHost ok d).lane k = s.lane k := rfl

@[simp] theorem setMem_pending (s : State) (m : MemUnit) : (s.setMem m).pending = s.pending := rfl
@[simp] theorem setMem_web (s : State) (m : MemUnit) : (s.setMem m).web = s.web := rfl
@[simp] theorem setMem_lanes (s : State) (m : MemUnit) : (s.setMem m).lanes = s.lanes := rfl
@[simp] theorem setMem_early (s : State) (m : MemUnit) : (s.setMem m).early = s.early := rfl
@[simp] theorem setMem_engine (s : State) (m : MemUnit) : (s.setMem m).engine = s.engine := rfl
@[simp] theorem setMem_hostPort (s : State) (m : MemUnit) : (s.setMem m).hostPort = s.hostPort := rfl
@[simp] theorem setMem_hostEnd (s : State) (m : MemUnit) : (s.setMem m).hostEnd = s.hostEnd := rfl
@[simp] theorem setMem_arbiter (s : State) (m : MemUnit) : (s.setMem m).arbiter = s.arbiter := rfl
@[simp] theorem setMem_memory (s : State) (m : MemUnit) : (s.setMem m).memory = s.memory := rfl
@[simp] theorem setMem_powerCycle (s : State) (m : MemUnit) : (s.setMem m).powerCycle = s.powerCycle := rfl
@[simp] theorem setMem_scrubQueue (s : State) (m : MemUnit) : (s.setMem m).scrubQueue = s.scrubQueue := rfl
@[simp] theorem setMem_capture (s : State) (m : MemUnit) : (s.setMem m).capture = s.capture := rfl
@[simp] theorem setMem_mem (s : State) (m : MemUnit) : (s.setMem m).mem = m := rfl
@[simp] theorem setMem_settings (s : State) (m : MemUnit) : (s.setMem m).settings = s.settings := rfl
@[simp] theorem setMem_regions (s : State) (m : MemUnit) : (s.setMem m).regions = s.regions := rfl
@[simp] theorem setMem_window0 (s : State) (m : MemUnit) : (s.setMem m).window0 = s.window0 := rfl
@[simp] theorem setMem_window1 (s : State) (m : MemUnit) : (s.setMem m).window1 = s.window1 := rfl
@[simp] theorem setMem_summary (s : State) (m : MemUnit) : (s.setMem m).summary = s.summary := rfl
@[simp] theorem setMem_primary (s : State) (m : MemUnit) : (s.setMem m).primary = s.primary := rfl
@[simp] theorem setMem_writer (s : State) (m : MemUnit) : (s.setMem m).writer = s.writer := rfl
@[simp] theorem setMem_lane (s : State) (m : MemUnit) (k : Lane) : (s.setMem m).lane k = s.lane k := rfl

@[simp] theorem setEngine_pending (s : State) (e : EngineState) : (s.setEngine e).pending = s.pending := rfl
@[simp] theorem setEngine_web (s : State) (e : EngineState) : (s.setEngine e).web = s.web := rfl
@[simp] theorem setEngine_lanes (s : State) (e : EngineState) : (s.setEngine e).lanes = s.lanes := rfl
@[simp] theorem setEngine_early (s : State) (e : EngineState) : (s.setEngine e).early = s.early := rfl
@[simp] theorem setEngine_engine (s : State) (e : EngineState) : (s.setEngine e).engine = { s.engine with state := e } := rfl
@[simp] theorem setEngine_hostPort (s : State) (e : EngineState) : (s.setEngine e).hostPort = s.hostPort := rfl
@[simp] theorem setEngine_hostEnd (s : State) (e : EngineState) : (s.setEngine e).hostEnd = s.hostEnd := rfl
@[simp] theorem setEngine_arbiter (s : State) (e : EngineState) : (s.setEngine e).arbiter = s.arbiter := rfl
@[simp] theorem setEngine_memory (s : State) (e : EngineState) : (s.setEngine e).memory = s.memory := rfl
@[simp] theorem setEngine_powerCycle (s : State) (e : EngineState) : (s.setEngine e).powerCycle = s.powerCycle := rfl
@[simp] theorem setEngine_scrubQueue (s : State) (e : EngineState) : (s.setEngine e).scrubQueue = s.scrubQueue := rfl
@[simp] theorem setEngine_capture (s : State) (e : EngineState) : (s.setEngine e).capture = s.capture := rfl
@[simp] theorem setEngine_mem (s : State) (e : EngineState) : (s.setEngine e).mem = s.mem := rfl
@[simp] theorem setEngine_settings (s : State) (e : EngineState) : (s.setEngine e).settings = s.settings := rfl
@[simp] theorem setEngine_regions (s : State) (e : EngineState) : (s.setEngine e).regions = s.regions := rfl
@[simp] theorem setEngine_window0 (s : State) (e : EngineState) : (s.setEngine e).window0 = s.window0 := rfl
@[simp] theorem setEngine_window1 (s : State) (e : EngineState) : (s.setEngine e).window1 = s.window1 := rfl
@[simp] theorem setEngine_summary (s : State) (e : EngineState) : (s.setEngine e).summary = s.summary := rfl
@[simp] theorem setEngine_primary (s : State) (e : EngineState) : (s.setEngine e).primary = s.primary := rfl
@[simp] theorem setEngine_writer (s : State) (e : EngineState) : (s.setEngine e).writer = s.writer := rfl
@[simp] theorem setEngine_lane (s : State) (e : EngineState) (k : Lane) : (s.setEngine e).lane k = s.lane k := rfl

@[simp] theorem setPublication_pending (s : State) (p : List Nat) : (s.setPublication p).pending = s.pending := rfl
@[simp] theorem setPublication_web (s : State) (p : List Nat) : (s.setPublication p).web = s.web := rfl
@[simp] theorem setPublication_lanes (s : State) (p : List Nat) : (s.setPublication p).lanes = s.lanes := rfl
@[simp] theorem setPublication_early (s : State) (p : List Nat) : (s.setPublication p).early = s.early := rfl
@[simp] theorem setPublication_engine (s : State) (p : List Nat) : (s.setPublication p).engine = s.engine := rfl
@[simp] theorem setPublication_hostPort (s : State) (p : List Nat) : (s.setPublication p).hostPort = s.hostPort := rfl
@[simp] theorem setPublication_hostEnd (s : State) (p : List Nat) : (s.setPublication p).hostEnd = s.hostEnd := rfl
@[simp] theorem setPublication_arbiter (s : State) (p : List Nat) : (s.setPublication p).arbiter = s.arbiter := rfl
@[simp] theorem setPublication_memory (s : State) (p : List Nat) : (s.setPublication p).memory = s.memory := rfl
@[simp] theorem setPublication_powerCycle (s : State) (p : List Nat) : (s.setPublication p).powerCycle = s.powerCycle := rfl
@[simp] theorem setPublication_scrubQueue (s : State) (p : List Nat) : (s.setPublication p).scrubQueue = s.scrubQueue := rfl
@[simp] theorem setPublication_capture (s : State) (p : List Nat) : (s.setPublication p).capture = s.capture := rfl
@[simp] theorem setPublication_mem (s : State) (p : List Nat) : (s.setPublication p).mem = s.mem := rfl
@[simp] theorem setPublication_settings (s : State) (p : List Nat) : (s.setPublication p).settings = s.settings := rfl
@[simp] theorem setPublication_regions (s : State) (p : List Nat) : (s.setPublication p).regions = s.regions := rfl
@[simp] theorem setPublication_window0 (s : State) (p : List Nat) : (s.setPublication p).window0 = s.window0 := rfl
@[simp] theorem setPublication_window1 (s : State) (p : List Nat) : (s.setPublication p).window1 = s.window1 := rfl
@[simp] theorem setPublication_summary (s : State) (p : List Nat) : (s.setPublication p).summary = s.summary := rfl
@[simp] theorem setPublication_primary (s : State) (p : List Nat) : (s.setPublication p).primary = s.primary := rfl
@[simp] theorem setPublication_writer (s : State) (p : List Nat) : (s.setPublication p).writer = { s.writer with publication := p } := rfl
@[simp] theorem setPublication_lane (s : State) (p : List Nat) (k : Lane) : (s.setPublication p).lane k = s.lane k := rfl

@[simp] theorem lockPort_pending (s : State) : (s.lockPort).pending = s.pending := rfl
@[simp] theorem lockPort_web (s : State) : (s.lockPort).web = s.web := rfl
@[simp] theorem lockPort_lanes (s : State) : (s.lockPort).lanes = s.lanes := rfl
@[simp] theorem lockPort_early (s : State) : (s.lockPort).early = s.early := rfl
@[simp] theorem lockPort_engine (s : State) : (s.lockPort).engine = s.engine := rfl
@[simp] theorem lockPort_hostPort (s : State) : (s.lockPort).hostPort = s.hostPort := rfl
@[simp] theorem lockPort_hostEnd (s : State) : (s.lockPort).hostEnd = s.hostEnd := rfl
@[simp] theorem lockPort_arbiter (s : State) : (s.lockPort).arbiter = { s.arbiter with lock := true } := rfl
@[simp] theorem lockPort_memory (s : State) : (s.lockPort).memory = s.memory := rfl
@[simp] theorem lockPort_powerCycle (s : State) : (s.lockPort).powerCycle = s.powerCycle := rfl
@[simp] theorem lockPort_scrubQueue (s : State) : (s.lockPort).scrubQueue = s.scrubQueue := rfl
@[simp] theorem lockPort_capture (s : State) : (s.lockPort).capture = s.capture := rfl
@[simp] theorem lockPort_mem (s : State) : (s.lockPort).mem = s.mem := rfl
@[simp] theorem lockPort_settings (s : State) : (s.lockPort).settings = s.settings := rfl
@[simp] theorem lockPort_regions (s : State) : (s.lockPort).regions = s.regions := rfl
@[simp] theorem lockPort_window0 (s : State) : (s.lockPort).window0 = s.window0 := rfl
@[simp] theorem lockPort_window1 (s : State) : (s.lockPort).window1 = s.window1 := rfl
@[simp] theorem lockPort_summary (s : State) : (s.lockPort).summary = s.summary := rfl
@[simp] theorem lockPort_primary (s : State) : (s.lockPort).primary = s.primary := rfl
@[simp] theorem lockPort_writer (s : State) : (s.lockPort).writer = s.writer := rfl
@[simp] theorem lockPort_lane (s : State) (k : Lane) : (s.lockPort).lane k = s.lane k := rfl

@[simp] theorem freePort_pending (s : State) : (s.freePort).pending = s.pending := rfl
@[simp] theorem freePort_web (s : State) : (s.freePort).web = s.web := rfl
@[simp] theorem freePort_lanes (s : State) : (s.freePort).lanes = s.lanes := rfl
@[simp] theorem freePort_early (s : State) : (s.freePort).early = s.early := rfl
@[simp] theorem freePort_engine (s : State) : (s.freePort).engine = s.engine := rfl
@[simp] theorem freePort_hostPort (s : State) : (s.freePort).hostPort = s.hostPort := rfl
@[simp] theorem freePort_hostEnd (s : State) : (s.freePort).hostEnd = s.hostEnd := rfl
@[simp] theorem freePort_arbiter (s : State) : (s.freePort).arbiter = { s.arbiter with grant := none, lock := false } := rfl
@[simp] theorem freePort_memory (s : State) : (s.freePort).memory = s.memory := rfl
@[simp] theorem freePort_powerCycle (s : State) : (s.freePort).powerCycle = s.powerCycle := rfl
@[simp] theorem freePort_scrubQueue (s : State) : (s.freePort).scrubQueue = s.scrubQueue := rfl
@[simp] theorem freePort_capture (s : State) : (s.freePort).capture = s.capture := rfl
@[simp] theorem freePort_mem (s : State) : (s.freePort).mem = s.mem := rfl
@[simp] theorem freePort_settings (s : State) : (s.freePort).settings = s.settings := rfl
@[simp] theorem freePort_regions (s : State) : (s.freePort).regions = s.regions := rfl
@[simp] theorem freePort_window0 (s : State) : (s.freePort).window0 = s.window0 := rfl
@[simp] theorem freePort_window1 (s : State) : (s.freePort).window1 = s.window1 := rfl
@[simp] theorem freePort_summary (s : State) : (s.freePort).summary = s.summary := rfl
@[simp] theorem freePort_primary (s : State) : (s.freePort).primary = s.primary := rfl
@[simp] theorem freePort_writer (s : State) : (s.freePort).writer = s.writer := rfl
@[simp] theorem freePort_lane (s : State) (k : Lane) : (s.freePort).lane k = s.lane k := rfl

/-! ## Giving an event (11 R178): everything it can change is the sequence number, the event queue, and EVENTS_LOST -/

@[simp] theorem giveAt_pending (s : State) (p : WebPos) (b : EventBody) : (s.giveAt p b).pending = s.pending := by
  simp only [State.giveAt, State.raiseClass]; split <;> (try split) <;> rfl
@[simp] theorem giveAt_web (s : State) (p : WebPos) (b : EventBody) : (s.giveAt p b).web = s.web := by
  simp only [State.giveAt, State.raiseClass]; split <;> (try split) <;> rfl
@[simp] theorem giveAt_lanes (s : State) (p : WebPos) (b : EventBody) : (s.giveAt p b).lanes = s.lanes := by
  simp only [State.giveAt, State.raiseClass]; split <;> (try split) <;> rfl
@[simp] theorem giveAt_early (s : State) (p : WebPos) (b : EventBody) : (s.giveAt p b).early = s.early := by
  simp only [State.giveAt, State.raiseClass]; split <;> (try split) <;> rfl
@[simp] theorem giveAt_engine (s : State) (p : WebPos) (b : EventBody) : (s.giveAt p b).engine = s.engine := by
  simp only [State.giveAt, State.raiseClass]; split <;> (try split) <;> rfl
@[simp] theorem giveAt_hostPort (s : State) (p : WebPos) (b : EventBody) : (s.giveAt p b).hostPort = s.hostPort := by
  simp only [State.giveAt, State.raiseClass]; split <;> (try split) <;> rfl
@[simp] theorem giveAt_hostEnd (s : State) (p : WebPos) (b : EventBody) : (s.giveAt p b).hostEnd = s.hostEnd := by
  simp only [State.giveAt, State.raiseClass]; split <;> (try split) <;> rfl
@[simp] theorem giveAt_arbiter (s : State) (p : WebPos) (b : EventBody) : (s.giveAt p b).arbiter = s.arbiter := by
  simp only [State.giveAt, State.raiseClass]; split <;> (try split) <;> rfl
@[simp] theorem giveAt_memory (s : State) (p : WebPos) (b : EventBody) : (s.giveAt p b).memory = s.memory := by
  simp only [State.giveAt, State.raiseClass]; split <;> (try split) <;> rfl
@[simp] theorem giveAt_powerCycle (s : State) (p : WebPos) (b : EventBody) : (s.giveAt p b).powerCycle = s.powerCycle := by
  simp only [State.giveAt, State.raiseClass]; split <;> (try split) <;> rfl
@[simp] theorem giveAt_scrubQueue (s : State) (p : WebPos) (b : EventBody) : (s.giveAt p b).scrubQueue = s.scrubQueue := by
  simp only [State.giveAt, State.raiseClass]; split <;> (try split) <;> rfl
@[simp] theorem giveAt_capture (s : State) (p : WebPos) (b : EventBody) : (s.giveAt p b).capture = s.capture := by
  simp only [State.giveAt, State.raiseClass]; split <;> (try split) <;> rfl
@[simp] theorem giveAt_mem (s : State) (p : WebPos) (b : EventBody) : (s.giveAt p b).mem = s.mem := by
  simp only [State.giveAt, State.raiseClass]; split <;> (try split) <;> rfl
@[simp] theorem giveAt_settings (s : State) (p : WebPos) (b : EventBody) : (s.giveAt p b).settings = s.settings := by
  simp only [State.giveAt, State.raiseClass]; split <;> (try split) <;> rfl
@[simp] theorem giveAt_regions (s : State) (p : WebPos) (b : EventBody) : (s.giveAt p b).regions = s.regions := by
  simp only [State.giveAt, State.raiseClass]; split <;> (try split) <;> rfl
@[simp] theorem giveAt_window0 (s : State) (p : WebPos) (b : EventBody) : (s.giveAt p b).window0 = s.window0 := by
  simp only [State.giveAt, State.raiseClass]; split <;> (try split) <;> rfl
@[simp] theorem giveAt_window1 (s : State) (p : WebPos) (b : EventBody) : (s.giveAt p b).window1 = s.window1 := by
  simp only [State.giveAt, State.raiseClass]; split <;> (try split) <;> rfl
@[simp] theorem giveAt_lane (s : State) (p : WebPos) (b : EventBody) (m : Lane) :
    (s.giveAt p b).lane m = s.lane m := by
  simp only [State.lane, giveAt_lanes]

@[simp] theorem giveAt_writer_holding (s : State) (p : WebPos) (b : EventBody) :
    (s.giveAt p b).writer.holding = s.writer.holding := by
  simp only [State.giveAt, State.raiseClass]; split <;> (try split) <;> rfl
@[simp] theorem giveAt_writer_stackWrite (s : State) (p : WebPos) (b : EventBody) :
    (s.giveAt p b).writer.stackWrite = s.writer.stackWrite := by
  simp only [State.giveAt, State.raiseClass]; split <;> (try split) <;> rfl
@[simp] theorem giveAt_writer_stackRead (s : State) (p : WebPos) (b : EventBody) :
    (s.giveAt p b).writer.stackRead = s.writer.stackRead := by
  simp only [State.giveAt, State.raiseClass]; split <;> (try split) <;> rfl
@[simp] theorem giveAt_writer_stackWords (s : State) (p : WebPos) (b : EventBody) :
    (s.giveAt p b).writer.stackWords = s.writer.stackWords := by
  simp only [State.giveAt, State.raiseClass]; split <;> (try split) <;> rfl
@[simp] theorem giveAt_writer_eventWrite (s : State) (p : WebPos) (b : EventBody) :
    (s.giveAt p b).writer.eventWrite = s.writer.eventWrite := by
  simp only [State.giveAt, State.raiseClass]; split <;> (try split) <;> rfl
@[simp] theorem giveAt_writer_eventRead (s : State) (p : WebPos) (b : EventBody) :
    (s.giveAt p b).writer.eventRead = s.writer.eventRead := by
  simp only [State.giveAt, State.raiseClass]; split <;> (try split) <;> rfl
@[simp] theorem giveAt_writer_eventWords (s : State) (p : WebPos) (b : EventBody) :
    (s.giveAt p b).writer.eventWords = s.writer.eventWords := by
  simp only [State.giveAt, State.raiseClass]; split <;> (try split) <;> rfl
@[simp] theorem giveAt_writer_publication (s : State) (p : WebPos) (b : EventBody) :
    (s.giveAt p b).writer.publication = s.writer.publication := by
  simp only [State.giveAt, State.raiseClass]; split <;> (try split) <;> rfl
@[simp] theorem giveAt_writer_lastKind (s : State) (p : WebPos) (b : EventBody) :
    (s.giveAt p b).writer.lastKind = s.writer.lastKind := by
  simp only [State.giveAt, State.raiseClass]; split <;> (try split) <;> rfl
@[simp] theorem giveAt_writer_eventSequence (s : State) (p : WebPos) (b : EventBody) :
    (s.giveAt p b).writer.eventSequence = s.writer.eventSequence + 1 := by
  simp only [State.giveAt, State.raiseClass]; split <;> (try split) <;> rfl

theorem giveAt_events_length (s : State) (p : WebPos) (b : EventBody) (h : s.writer.events.length ≤ 8) :
    (s.giveAt p b).writer.events.length ≤ 8 := by
  have e : (s.giveAt p b).writer.events = s.writer.events ∨
      (s.writer.events.length < 8 ∧ ∃ e, (s.giveAt p b).writer.events = s.writer.events ++ [e]) := by
    by_cases hk : s.settings.reportingMode.keeps b.code.severity = true
    · by_cases hl : s.writer.events.length < 8
      · right; refine ⟨hl, ?_⟩; simp [State.giveAt, Config.eventPlaces, hk, hl]
      · left; simp [State.giveAt, State.raiseClass, Config.eventPlaces, hk, hl]
    · left; simp [State.giveAt, hk]
  rcases e with e | ⟨hl, x, e⟩
  · rw [e]; exact h
  · rw [e]; simp only [List.length_append, List.length_cons, List.length_nil]; omega

/-! ## The end of a step -/

@[simp] theorem commitExcept_pending (p q : State) (x : List Nat) : (State.commitExcept p q x).pending = q.pending := rfl
@[simp] theorem commitExcept_web (p q : State) (x : List Nat) : (State.commitExcept p q x).web = q.web := rfl
@[simp] theorem commitExcept_lanes (p q : State) (x : List Nat) : (State.commitExcept p q x).lanes = q.lanes := rfl
@[simp] theorem commitExcept_early (p q : State) (x : List Nat) : (State.commitExcept p q x).early = q.early := rfl
@[simp] theorem commitExcept_engine (p q : State) (x : List Nat) : (State.commitExcept p q x).engine = q.engine := rfl
@[simp] theorem commitExcept_hostPort (p q : State) (x : List Nat) : (State.commitExcept p q x).hostPort = q.hostPort := rfl
@[simp] theorem commitExcept_hostEnd (p q : State) (x : List Nat) : (State.commitExcept p q x).hostEnd = q.hostEnd := rfl
@[simp] theorem commitExcept_memory (p q : State) (x : List Nat) : (State.commitExcept p q x).memory = q.memory := rfl
@[simp] theorem commitExcept_powerCycle (p q : State) (x : List Nat) : (State.commitExcept p q x).powerCycle = q.powerCycle := rfl
@[simp] theorem commitExcept_scrubQueue (p q : State) (x : List Nat) : (State.commitExcept p q x).scrubQueue = q.scrubQueue := rfl
@[simp] theorem commitExcept_capture (p q : State) (x : List Nat) : (State.commitExcept p q x).capture = q.capture := rfl
@[simp] theorem commitExcept_mem (p q : State) (x : List Nat) : (State.commitExcept p q x).mem = q.mem := rfl
@[simp] theorem commitExcept_settings (p q : State) (x : List Nat) : (State.commitExcept p q x).settings = q.settings := rfl
@[simp] theorem commitExcept_regions (p q : State) (x : List Nat) : (State.commitExcept p q x).regions = q.regions := rfl
@[simp] theorem commitExcept_window0 (p q : State) (x : List Nat) : (State.commitExcept p q x).window0 = q.window0 := rfl
@[simp] theorem commitExcept_window1 (p q : State) (x : List Nat) : (State.commitExcept p q x).window1 = q.window1 := rfl
@[simp] theorem commitExcept_summary (p q : State) (x : List Nat) : (State.commitExcept p q x).summary = q.summary := rfl
@[simp] theorem commitExcept_primary (p q : State) (x : List Nat) : (State.commitExcept p q x).primary = q.primary := rfl
@[simp] theorem commitExcept_lane (p q : State) (x : List Nat) (m : Lane) :
    (State.commitExcept p q x).lane m = q.lane m := rfl
@[simp] theorem commitExcept_grant (p q : State) (x : List Nat) : (State.commitExcept p q x).arbiter.grant = none := rfl
@[simp] theorem commitExcept_lock (p q : State) (x : List Nat) : (State.commitExcept p q x).arbiter.lock = false := rfl

/-- A step ends with its block's own effect, the publication set and the arbiter's bookkeeping aside. -/
theorem commitExcept_bookkept (p q : State) (x : List Nat) :
    State.commitExcept p q x = q.bookkeptAs (State.commitExcept p q x) := rfl

/-- A block's step ends with the block's own effect. -/
theorem act_bookkept (s : State) (f : State → State) : s.act f = (f s).bookkeptAs (s.act f) := rfl

end Sys2Proof.Machine
end

