-- ==== Sys2Proof/Laws/Arbiter.lean ====
section
/-! SUPPORT. The work of a host cycle does not read the arbiter: each operation commutes with a change of the arbiter,
so a granted cycle does what it would do to the state before its grant. -/

namespace Sys2Proof.Machine

/-- The arbiter replaced. -/
def State.withArbiter (s : State) (x : Arbiter) : State := { s with arbiter := x }

theorem withArbiter_ite (c : Prop) [Decidable c] (p q : State) (x : Arbiter) :
    (if c then p else q).withArbiter x = if c then p.withArbiter x else q.withArbiter x := by
  split <;> rfl

@[simp] theorem withArbiter_arbiter (s : State) (x : Arbiter) : (s.withArbiter x).arbiter = x := rfl
@[simp] theorem withArbiter_withArbiter (s : State) (x y : Arbiter) :
    (s.withArbiter x).withArbiter y = s.withArbiter y := rfl
@[simp] theorem withArbiter_pending (s : State) (x : Arbiter) : (s.withArbiter x).pending = s.pending := rfl
@[simp] theorem withArbiter_web (s : State) (x : Arbiter) : (s.withArbiter x).web = s.web := rfl
@[simp] theorem withArbiter_lanes (s : State) (x : Arbiter) : (s.withArbiter x).lanes = s.lanes := rfl
@[simp] theorem withArbiter_early (s : State) (x : Arbiter) : (s.withArbiter x).early = s.early := rfl
@[simp] theorem withArbiter_engine (s : State) (x : Arbiter) : (s.withArbiter x).engine = s.engine := rfl
@[simp] theorem withArbiter_hostPort (s : State) (x : Arbiter) : (s.withArbiter x).hostPort = s.hostPort := rfl
@[simp] theorem withArbiter_hostEnd (s : State) (x : Arbiter) : (s.withArbiter x).hostEnd = s.hostEnd := rfl
@[simp] theorem withArbiter_memory (s : State) (x : Arbiter) : (s.withArbiter x).memory = s.memory := rfl
@[simp] theorem withArbiter_powerCycle (s : State) (x : Arbiter) : (s.withArbiter x).powerCycle = s.powerCycle := rfl
@[simp] theorem withArbiter_scrubQueue (s : State) (x : Arbiter) : (s.withArbiter x).scrubQueue = s.scrubQueue := rfl
@[simp] theorem withArbiter_capture (s : State) (x : Arbiter) : (s.withArbiter x).capture = s.capture := rfl
@[simp] theorem withArbiter_mem (s : State) (x : Arbiter) : (s.withArbiter x).mem = s.mem := rfl
@[simp] theorem withArbiter_settings (s : State) (x : Arbiter) : (s.withArbiter x).settings = s.settings := rfl
@[simp] theorem withArbiter_regions (s : State) (x : Arbiter) : (s.withArbiter x).regions = s.regions := rfl
@[simp] theorem withArbiter_window0 (s : State) (x : Arbiter) : (s.withArbiter x).window0 = s.window0 := rfl
@[simp] theorem withArbiter_window1 (s : State) (x : Arbiter) : (s.withArbiter x).window1 = s.window1 := rfl
@[simp] theorem withArbiter_summary (s : State) (x : Arbiter) : (s.withArbiter x).summary = s.summary := rfl
@[simp] theorem withArbiter_primary (s : State) (x : Arbiter) : (s.withArbiter x).primary = s.primary := rfl
@[simp] theorem withArbiter_writer (s : State) (x : Arbiter) : (s.withArbiter x).writer = s.writer := rfl

/-! ## What is read through the state -/

@[simp] theorem lane_withArbiter (s : State) (x : Arbiter) (l : Lane) :
    (s.withArbiter x).lane l = s.lane l := rfl
@[simp] theorem location_withArbiter (s : State) (x : Arbiter) (a : Nat) :
    (s.withArbiter x).location a = s.location a := rfl
@[simp] theorem addressClass_withArbiter (s : State) (x : Arbiter) (a : Nat) :
    (s.withArbiter x).addressClass a = s.addressClass a := rfl
@[simp] theorem slotProtected_withArbiter (s : State) (x : Arbiter) (l : Lane) (k : Nat) :
    (s.withArbiter x).slotProtected l k = s.slotProtected l k := rfl
@[simp] theorem readOutcome_withArbiter (s : State) (x : Arbiter) (a : Nat) :
    (s.withArbiter x).readOutcome a = s.readOutcome a := rfl
@[simp] theorem readData_withArbiter (s : State) (x : Arbiter) (a : Nat) :
    (s.withArbiter x).readData a = s.readData a := rfl
@[simp] theorem closeParks_withArbiter (s : State) (x : Arbiter) (l : Lane) :
    (s.withArbiter x).closeParks l = s.closeParks l := rfl
@[simp] theorem noLaneActive_withArbiter (s : State) (x : Arbiter) :
    (s.withArbiter x).noLaneActive = s.noLaneActive := rfl
@[simp] theorem runOutDone_withArbiter (s : State) (x : Arbiter) :
    (s.withArbiter x).runOutDone = s.runOutDone := rfl
@[simp] theorem engineGoing_withArbiter (s : State) (x : Arbiter) :
    (s.withArbiter x).engineGoing = s.engineGoing := rfl
@[simp] theorem inService_withArbiter (s : State) (x : Arbiter) (l : Lane) :
    (s.withArbiter x).inService l = s.inService l := rfl
@[simp] theorem verdictOutcome_withArbiter (s : State) (x : Arbiter) (d : Word) :
    (s.withArbiter x).verdictOutcome d = s.verdictOutcome d := rfl
@[simp] theorem putTaken_withArbiter (s : State) (x : Arbiter) (l : Lane) (p : RingIndex) :
    (s.withArbiter x).putTaken l p = s.putTaken l p := rfl
@[simp] theorem exemptWindow_withArbiter (s : State) (x : Arbiter) (n : WindowName) :
    (s.withArbiter x).exemptWindow n = s.exemptWindow n := by cases n <;> rfl
@[simp] theorem eligibleLanes_withArbiter (s : State) (x : Arbiter) (m : Byte) :
    (s.withArbiter x).eligibleLanes m = s.eligibleLanes m := rfl
@[simp] theorem runFailure_withArbiter (s : State) (x : Arbiter) (ls : List Lane) :
    (s.withArbiter x).runFailure ls = s.runFailure ls := rfl
@[simp] theorem clearLaneRefusal_withArbiter (s : State) (x : Arbiter) (l : Lane) :
    (s.withArbiter x).clearLaneRefusal l = s.clearLaneRefusal l := rfl
@[simp] theorem memoryAction_withArbiter (s : State) (x : Arbiter) (c o : Byte) :
    (s.withArbiter x).memoryAction c o = s.memoryAction c o := rfl

/-! ## What changes the state -/

@[simp] theorem setLane_withArbiter (s : State) (x : Arbiter) (l : Lane) (y : LaneState) :
    (s.withArbiter x).setLane l y = (s.setLane l y).withArbiter x := rfl
@[simp] theorem storeWord_withArbiter (s : State) (x : Arbiter) (a : Nat) (d : Word) :
    (s.withArbiter x).storeWord a d = (s.storeWord a d).withArbiter x := rfl
@[simp] theorem storeLocation_withArbiter (s : State) (x : Arbiter) (a : Nat) (d : Location) :
    (s.withArbiter x).storeLocation a d = (s.storeLocation a d).withArbiter x := rfl
@[simp] theorem setMem_withArbiter (s : State) (x : Arbiter) (m : MemUnit) :
    (s.withArbiter x).setMem m = (s.setMem m).withArbiter x := rfl
@[simp] theorem endHost_withArbiter (s : State) (x : Arbiter) (k : Bool) (d : Option Word) :
    (s.withArbiter x).endHost k d = (s.endHost k d).withArbiter x := rfl
@[simp] theorem endOk_withArbiter (s : State) (x : Arbiter) :
    (s.withArbiter x).endOk = (s.endOk).withArbiter x := rfl
@[simp] theorem endError_withArbiter (s : State) (x : Arbiter) :
    (s.withArbiter x).endError = (s.endError).withArbiter x := rfl
@[simp] theorem storeControl_withArbiter (s : State) (x : Arbiter) (o : Nat) (d : Word) :
    (s.withArbiter x).storeControl o d = (s.storeControl o d).withArbiter x := rfl
@[simp] theorem raiseClass_withArbiter (s : State) (x : Arbiter) (c : SummaryClass) (l : Option Lane)
    (n : Option Serial) (a : Option Nat) :
    (s.withArbiter x).raiseClass c l n a = (s.raiseClass c l n a).withArbiter x := rfl
@[simp] theorem giveAt_withArbiter (s : State) (x : Arbiter) (p : WebPos) (b : EventBody) :
    (s.withArbiter x).giveAt p b = (s.giveAt p b).withArbiter x := by
  by_cases h : s.settings.reportingMode.keeps b.code.severity = true <;>
    by_cases k : s.writer.events.length < Config.eventPlaces <;>
      simp [State.giveAt, State.withArbiter, State.raiseClass, h, k]
@[simp] theorem give_withArbiter (s : State) (x : Arbiter) (b : EventBody) :
    (s.withArbiter x).give b = (s.give b).withArbiter x := giveAt_withArbiter s x s.web.position b
@[simp] theorem giveRaise_withArbiter (s : State) (x : Arbiter) (c : SummaryClass) (b : EventBody) :
    (s.withArbiter x).giveRaise c b = (s.giveRaise c b).withArbiter x := by
  simp [State.giveRaise]
@[simp] theorem refuseSetting_withArbiter (s : State) (x : Arbiter) (o : Nat) (d : Word) :
    (s.withArbiter x).refuseSetting o d = (s.refuseSetting o d).withArbiter x := by
  simp [State.refuseSetting]
@[simp] theorem refuseProtected_withArbiter (s : State) (x : Arbiter) (b : EventBody) :
    (s.withArbiter x).refuseProtected b = (s.refuseProtected b).withArbiter x := by
  simp [State.refuseProtected]
@[simp] theorem blockWrite_withArbiter (s : State) (x : Arbiter) (l : Option Lane) (a : Nat) :
    (s.withArbiter x).blockWrite l a = (s.blockWrite l a).withArbiter x := by
  simp [State.blockWrite]
@[simp] theorem refusePartial_withArbiter (s : State) (x : Arbiter) (a : Nat) (be : BitVec 4) :
    (s.withArbiter x).refusePartial a be = (s.refusePartial a be).withArbiter x := by
  simp [State.refusePartial]
@[simp] theorem countCorrection_withArbiter (s : State) (x : Arbiter) :
    (s.withArbiter x).countCorrection = (s.countCorrection).withArbiter x := by
  simp only [State.countCorrection, withArbiter_ite]
  congr 1
  exact giveRaise_withArbiter
    { s with capture := { s.capture with count := raiseHolding Config.countHold s.capture.count } } x _ _
@[simp] theorem detectCorrectable_withArbiter (s : State) (x : Arbiter) (c : Source) (a b : Nat) :
    (s.withArbiter x).detectCorrectable c a b = (s.detectCorrectable c a b).withArbiter x := by
  simp only [State.detectCorrectable, countCorrection_withArbiter]; rfl
@[simp] theorem offerUncorrectable_withArbiter (s : State) (x : Arbiter) (c : Source) (k : Bool) (a : Nat) (d : Detail) :
    (s.withArbiter x).offerUncorrectable c k a d = (s.offerUncorrectable c k a d).withArbiter x := by
  rfl
@[simp] theorem consumeUncorrectable_withArbiter (s : State) (x : Arbiter) (c : Source) (a : Nat) (d : Detail) :
    (s.withArbiter x).consumeUncorrectable c a d = (s.consumeUncorrectable c a d).withArbiter x := by
  simp [State.consumeUncorrectable, State.reportUncorrectable]
@[simp] theorem offerScrub_withArbiter (s : State) (x : Arbiter) (a : Nat) :
    (s.withArbiter x).offerScrub a = (s.offerScrub a).withArbiter x := by
  simp only [State.offerScrub, withArbiter_ite]; rfl
@[simp] theorem reportHostRead_withArbiter (s : State) (x : Arbiter) (a : Nat) (o : ReadOutcome) :
    (s.withArbiter x).reportHostRead a o = (s.reportHostRead a o).withArbiter x := by
  cases o <;> simp [State.reportHostRead]
@[simp] theorem hostRead_withArbiter (s : State) (x : Arbiter) (a : Nat) :
    (s.withArbiter x).hostRead a = (s.hostRead a).withArbiter x := by
  simp [State.hostRead]
@[simp] theorem setEngine_withArbiter (s : State) (x : Arbiter) (e : EngineState) :
    (s.withArbiter x).setEngine e = (s.setEngine e).withArbiter x := by
  rfl
@[simp] theorem setService_withArbiter (s : State) (x : Arbiter) (l : Lane) (v : Service) :
    (s.withArbiter x).setService l v = (s.setService l v).withArbiter x := by
  rfl
@[simp] theorem setGate_withArbiter (s : State) (x : Arbiter) (l : Lane) (g : Gate) :
    (s.withArbiter x).setGate l g = (s.setGate l g).withArbiter x := by
  rfl
@[simp] theorem listMissing_withArbiter (s : State) (x : Arbiter) (l : Lane) (m : MissingItem) :
    (s.withArbiter x).listMissing l m = (s.listMissing l m).withArbiter x := by
  rfl
@[simp] theorem testStopped_withArbiter (s : State) (x : Arbiter) :
    (s.withArbiter x).testStopped = (s.testStopped).withArbiter x := by
  simp only [State.testStopped, withArbiter_ite, runOutDone_withArbiter, withArbiter_engine]
  congr 1
  exact give_withArbiter (s.setEngine .stopped) x _
@[simp] theorem settleEngine_withArbiter (s : State) (x : Arbiter) :
    (s.withArbiter x).settleEngine = (s.settleEngine).withArbiter x := by
  by_cases h : s.engine.state = .running ∧ s.noLaneActive = true <;>
    simp [State.settleEngine, h]
@[simp] theorem placeRecord_withArbiter (s : State) (x : Arbiter) (r : StackRecord) :
    (s.withArbiter x).placeRecord r = (s.placeRecord r).withArbiter x := by
  simp only [State.placeRecord, withArbiter_ite]
  congr 1
  exact giveRaise_withArbiter (s.setLane r.lane { s.lane r.lane with parked := some r }) x _ _
@[simp] theorem closeWith_withArbiter (s : State) (x : Arbiter) (r : StackRecord) :
    (s.withArbiter x).closeWith r = (s.closeWith r).withArbiter x := by
  simp [State.closeWith]
@[simp] theorem closeStack_withArbiter (s : State) (x : Arbiter) (l : Lane) (w : CloseReason) :
    (s.withArbiter x).closeStack l w = (s.closeStack l w).withArbiter x := by
  simp only [State.closeStack, lane_withArbiter]
  split
  · simp
  · by_cases h : ((s.lane l).carry.isEmpty || (s.lane l).parked.isSome) = true <;> simp only [h] <;> simp
@[simp] theorem announceFault_withArbiter (s : State) (x : Arbiter) (l : Lane) (c : FaultCause) :
    (s.withArbiter x).announceFault l c = (s.announceFault l c).withArbiter x := by
  simp [State.announceFault]
@[simp] theorem closeFaulted_withArbiter (s : State) (x : Arbiter) (l : Lane) (w : CloseReason) :
    (s.withArbiter x).closeFaulted l w = (s.closeFaulted l w).withArbiter x := by
  by_cases h : s.closeParks l = true <;> simp [State.closeFaulted, h]
@[simp] theorem runOutComplete_withArbiter (s : State) (x : Arbiter) (l : Lane) :
    (s.withArbiter x).runOutComplete l = (s.runOutComplete l).withArbiter x := by
  simp [State.runOutComplete]
@[simp] theorem rewind_withArbiter (s : State) (x : Arbiter) (l : Lane) :
    (s.withArbiter x).rewind l = (s.rewind l).withArbiter x := by
  by_cases h : (s.lane l).windowDepth = 0 <;> simp [State.rewind, h]
@[simp] theorem discardEarly_withArbiter (s : State) (x : Arbiter) (l : Lane) :
    (s.withArbiter x).discardEarly l = (s.discardEarly l).withArbiter x := by
  simp only [State.discardEarly, withArbiter_ite]
  congr 1
  exact give_withArbiter { s with early := s.early.filter (fun e => e.lane != l) } x _
@[simp] theorem laneFault_withArbiter (s : State) (x : Arbiter) (l : Lane) (c : FaultCause) :
    (s.withArbiter x).laneFault l c = (s.laneFault l c).withArbiter x := by
  simp only [State.laneFault, lane_withArbiter]
  split
  · rfl
  · simp
  all_goals
    simp only [setLane_withArbiter, announceFault_withArbiter, rewind_withArbiter, discardEarly_withArbiter,
      lane_withArbiter]
    by_cases k : ((((s.setLane l ((s.lane l).faultedBy c)).announceFault l c).rewind l).discardEarly l |>.lane
      l).queue.isEmpty = true <;> simp only [k] <;> simp
@[simp] theorem closeAndFault_withArbiter (s : State) (x : Arbiter) (l : Lane) (w : CloseReason) :
    (s.withArbiter x).closeAndFault l w = (s.closeAndFault l w).withArbiter x := by
  by_cases h : s.closeParks l = true <;> simp [State.closeAndFault, h]
@[simp] theorem drainComplete_withArbiter (s : State) (x : Arbiter) (l : Lane) :
    (s.withArbiter x).drainComplete l = (s.drainComplete l).withArbiter x := by
  simp [State.drainComplete]
@[simp] theorem abandonQueue_withArbiter (s : State) (x : Arbiter) (l : Lane) :
    (s.withArbiter x).abandonQueue l = (s.abandonQueue l).withArbiter x := by
  by_cases h : (s.lane l).queue.isEmpty = true <;> simp only [State.abandonQueue, h, lane_withArbiter] <;> simp
@[simp] theorem haltLane_withArbiter (s : State) (x : Arbiter) (l : Lane) :
    (s.withArbiter x).haltLane l = (s.haltLane l).withArbiter x := by
  by_cases h : (s.lane l).service = .bypassed <;> simp [State.haltLane, h]
theorem foldl_withArbiter (f : State → Lane → State) (x : Arbiter)
    (h : ∀ s l, f (s.withArbiter x) l = (f s l).withArbiter x) (ls : List Lane) (s : State) :
    ls.foldl f (s.withArbiter x) = (ls.foldl f s).withArbiter x := by
  induction ls generalizing s with
  | nil => rfl
  | cons l ls ih => rw [List.foldl_cons, List.foldl_cons, h, ih]
@[simp] theorem raiseHalt_withArbiter (s : State) (x : Arbiter) (c : HaltCause) :
    (s.withArbiter x).raiseHalt c = (s.raiseHalt c).withArbiter x := by
  cases c <;> rfl
@[simp] theorem enterHalted_withArbiter (s : State) (x : Arbiter) (c : HaltCause) :
    (s.withArbiter x).enterHalted c = (s.enterHalted c).withArbiter x := by
  have e : ({ s.withArbiter x with engine := { s.engine with state := .halted, cause := some c } } : State) =
      State.withArbiter { s with engine := { s.engine with state := .halted, cause := some c } } x := rfl
  simp only [State.enterHalted, withArbiter_engine, e, give_withArbiter, raiseHalt_withArbiter, State.forLanes]
  exact foldl_withArbiter _ _ (fun s l => haltLane_withArbiter s x l) _ _
@[simp] theorem takeHalt_withArbiter (s : State) (x : Arbiter) (c : HaltCause) :
    (s.withArbiter x).takeHalt c = (s.takeHalt c).withArbiter x := by
  by_cases h : s.engine.state = .halted <;> simp [State.takeHalt, h]
@[simp] theorem activate_withArbiter (s : State) (x : Arbiter) (l : Lane) :
    (s.withArbiter x).activate l = (s.activate l).withArbiter x := by
  rfl
@[simp] theorem drainLane_withArbiter (s : State) (x : Arbiter) (l : Lane) :
    (s.withArbiter x).drainLane l = (s.drainLane l).withArbiter x := by
  by_cases h : ((s.setService l .draining).lane l).orderedCount = 0 <;> simp [State.drainLane, h]

/-! ## Engine commands -/

/-- A command's answer under another arbiter. -/
theorem engineAction_withArbiter (s : State) (x : Arbiter) (c o : Byte) :
    (s.withArbiter x).engineAction c o = (((s.engineAction c o).1).withArbiter x, (s.engineAction c o).2) := by
  have hr : ∀ m, (s.withArbiter x).commandRun m = (((s.commandRun m).1).withArbiter x, (s.commandRun m).2) := by
    intro m
    by_cases h : s.engine.state = .halted ∨ s.engine.state = .draining
    · simp [State.commandRun, h]
    · by_cases k : (s.eligibleLanes m).isEmpty = true
      · simp [State.commandRun, h, List.isEmpty_iff.mp k]
      · simp only [State.commandRun, withArbiter_engine, eligibleLanes_withArbiter, runFailure_withArbiter, if_neg h,
          if_neg k, setEngine_withArbiter, foldl_withArbiter _ _ (fun s l => activate_withArbiter s x l)]
        cases s.runFailure (s.eligibleLanes m) <;> rfl
  have hd : ∀ m, (s.withArbiter x).commandDrain m = (((s.commandDrain m).1).withArbiter x, (s.commandDrain m).2) := by
    intro m
    simp only [State.commandDrain, withArbiter_engine, lane_withArbiter,
      foldl_withArbiter _ _ (fun s l => drainLane_withArbiter s x l), settleEngine_withArbiter]
    by_cases h : s.engine.state = .stopped ∨ s.engine.state = .halted
    · simp only [if_pos h]
    · simp only [if_neg h]
      by_cases k : ((maskLanes m).filter (fun l => (s.lane l).service == .active)).isEmpty = true
      · simp only [if_pos k]
      · simp only [if_neg k]
  have hh : (s.withArbiter x).commandHalt = (((s.commandHalt).1).withArbiter x, (s.commandHalt).2) := by
    simp [State.commandHalt]
  have hc : (s.withArbiter x).commandClearHalt = (((s.commandClearHalt).1).withArbiter x, (s.commandClearHalt).2) := by
    by_cases h : s.engine.state = .halted <;> by_cases k : s.engine.safe = true <;>
      simp [State.commandClearHalt, h, k]
  have hs : ∀ l, (s.withArbiter x).commandCloseStack l =
      (((s.commandCloseStack l).1).withArbiter x, (s.commandCloseStack l).2) := by
    intro l
    by_cases h : (s.lane l).openStack.isSome = true <;>
      simp only [State.commandCloseStack, lane_withArbiter, h] <;> simp
  have hl : ∀ l, (s.withArbiter x).commandClearLane l =
      (((s.commandClearLane l).1).withArbiter x, (s.commandClearLane l).2) := by
    intro l
    simp only [State.commandClearLane, clearLaneRefusal_withArbiter, withArbiter_engine, activate_withArbiter,
      setService_withArbiter, testStopped_withArbiter]
    cases s.clearLaneRefusal l
    · by_cases h : s.engine.state = .running <;> simp [h]
    · rfl
  have hb : ∀ l, (s.withArbiter x).commandBypass l = (((s.commandBypass l).1).withArbiter x, (s.commandBypass l).2) := by
    intro l
    by_cases h : (s.lane l).service = .off <;> simp [State.commandBypass, h]
  have hu : ∀ l, (s.withArbiter x).commandUnbypass l =
      (((s.commandUnbypass l).1).withArbiter x, (s.commandUnbypass l).2) := by
    intro l
    by_cases h : (s.lane l).service = .bypassed <;> simp [State.commandUnbypass, h]
  simp only [State.engineAction, hr, hd, hh, hc, hs, hl, hb, hu]
  split
  · by_cases k : maskValid o = true <;> simp [k]
  · by_cases k : maskValid o = true <;> simp [k]
  · rfl
  · rfl
  · by_cases k : o.toNat < 4 <;> simp [k]
  · by_cases k : o.toNat < 4 <;> simp [k]
  · by_cases k : o.toNat < 4 <;> simp [k]
  · by_cases k : o.toNat < 4 <;> simp [k]
  · rfl

@[simp] theorem recordReply_withArbiter (s : State) (x : Arbiter) (c : Byte) (r : Reply) :
    (s.withArbiter x).recordReply c r = (s.recordReply c r).withArbiter x := by
  rfl
@[simp] theorem announceReply_withArbiter (s : State) (x : Arbiter) (c : Byte) (r : Reply) :
    (s.withArbiter x).announceReply c r = (s.announceReply c r).withArbiter x := by
  by_cases h : r.result = .done <;> simp [State.announceReply, h]
@[simp] theorem engineCommand_withArbiter (s : State) (x : Arbiter) (d : Word) :
    (s.withArbiter x).engineCommand d = (s.engineCommand d).withArbiter x := by
  by_cases h : complementMatches d = true <;> simp [State.engineCommand, engineAction_withArbiter, h]
@[simp] theorem memoryCommand_withArbiter (s : State) (x : Arbiter) (d : Word) :
    (s.withArbiter x).memoryCommand d = (s.memoryCommand d).withArbiter x := by
  simp [State.memoryCommand]

/-! ## Control words, verdicts and host cycles -/

@[simp] theorem writeSetting_withArbiter (s : State) (x : Arbiter) (y : Setting) (d : Word) :
    (s.withArbiter x).writeSetting y d = (s.writeSetting y d).withArbiter x := by
  by_cases h : (isGeometry y && s.engine.state != .stopped) = true
  · simp only [State.writeSetting, withArbiter_engine, h]; simp
  · simp only [State.writeSetting, withArbiter_engine, withArbiter_settings, h]
    cases s.settings.take y d with
    | none => simp
    | some p =>
      by_cases k : y = .checkMode ∧ p.1.checkMode ≠ .checkScrub <;> simp [State.settleScrub, k] <;> rfl
@[simp] theorem setExemptWindow_withArbiter (s : State) (x : Arbiter) (n : WindowName) (w : ExemptWindow) :
    (s.withArbiter x).setExemptWindow n w = (s.setExemptWindow n w).withArbiter x := by
  cases n <;> rfl
@[simp] theorem recheckWindow_withArbiter (s : State) (x : Arbiter) (n : WindowName) :
    (s.withArbiter x).recheckWindow n = (s.recheckWindow n).withArbiter x := by
  by_cases h : ((s.exemptWindow n).active && (s.exemptWindow n).overlapsMapped s.regions) = true <;>
    simp only [State.recheckWindow, exemptWindow_withArbiter, withArbiter_regions, h] <;> simp
@[simp] theorem resetRing_withArbiter (s : State) (x : Arbiter) (e : MapEntryName) :
    (s.withArbiter x).resetRing e = (s.resetRing e).withArbiter x := by
  cases e <;> rfl
@[simp] theorem writeMap_withArbiter (s : State) (x : Arbiter) (e : MapEntryName) (d : Word) :
    (s.withArbiter x).writeMap e d = (s.writeMap e d).withArbiter x := by
  by_cases k : (s.regions.locked || s.engine.state != .stopped) = true
  · simp only [State.writeMap, withArbiter_engine, withArbiter_regions, k]; simp
  · simp only [State.writeMap, withArbiter_engine, withArbiter_regions, k]
    have h := resetRing_withArbiter { s with regions := s.regions.withEntry e (takenEntry e d) } x e
    change State.storeControl (State.recheckWindow (State.recheckWindow (State.resetRing
      (State.withArbiter { s with regions := s.regions.withEntry e (takenEntry e d) } x) e) .w0) .w1) _ _ = _
    rw [h]; simp
@[simp] theorem writeLock_withArbiter (s : State) (x : Arbiter) (d : Word) :
    (s.withArbiter x).writeLock d = (s.writeLock d).withArbiter x := by
  have e := storeControl_withArbiter { s with regions := { s.regions with locked := true } } x 0x067
    (RegionMap.lockWord { s.regions with locked := true })
  by_cases h : d = 1
  · subst h
    cases m : s.regions.locked
    · cases n : s.regions.lockable
      · simp [State.writeLock, m, n]
      · simp only [State.writeLock, withArbiter_regions, m, n, if_true, Bool.false_eq_true, if_false]
        exact e
    · simp [State.writeLock, m]
  · by_cases k : d = 0
    · subst k; simp [State.writeLock]
    · simp only [State.writeLock, if_neg h, if_neg k, refuseSetting_withArbiter, withArbiter_regions,
        storeControl_withArbiter]
@[simp] theorem writeWindow_withArbiter (s : State) (x : Arbiter) (n : WindowName) (k : WindowWord) (d : Word) :
    (s.withArbiter x).writeWindow n k d = (s.writeWindow n k d).withArbiter x := by
  by_cases h : ((s.exemptWindow n).withWord k d).evaluate s.regions = .refused <;>
    simp only [State.writeWindow, exemptWindow_withArbiter, withArbiter_regions, setExemptWindow_withArbiter, h] <;>
      simp
@[simp] theorem writePut_withArbiter (s : State) (x : Arbiter) (l : Lane) (d : Word) :
    (s.withArbiter x).writePut l d = (s.writePut l d).withArbiter x := by
  by_cases h : s.putTaken l (indexField d) = true <;> simp [State.writePut, h]
@[simp] theorem writeStackRead_withArbiter (s : State) (x : Arbiter) (d : Word) :
    (s.withArbiter x).writeStackRead d = (s.writeStackRead d).withArbiter x := by
  by_cases h : readIndexTaken s.writer.stackRead s.writer.stackWrite (indexField d) = true
  · simp only [State.writeStackRead, withArbiter_writer, h, if_true]
    exact storeControl_withArbiter { s with writer := { s.writer with stackRead := indexField d } } x _ _
  · simp [State.writeStackRead, h]
@[simp] theorem writeEventRead_withArbiter (s : State) (x : Arbiter) (d : Word) :
    (s.withArbiter x).writeEventRead d = (s.writeEventRead d).withArbiter x := by
  by_cases h : readIndexTaken s.writer.eventRead s.writer.eventWrite (indexField d) = true
  · simp only [State.writeEventRead, withArbiter_writer, h, if_true]
    exact storeControl_withArbiter { s with writer := { s.writer with eventRead := indexField d } } x _ _
  · simp [State.writeEventRead, h]
@[simp] theorem acknowledge_withArbiter (s : State) (x : Arbiter) (d : Word) :
    (s.withArbiter x).acknowledge d = (s.acknowledge d).withArbiter x := by
  rfl
@[simp] theorem writeControl_withArbiter (s : State) (x : Arbiter) (o : Nat) (d : Word) :
    (s.withArbiter x).writeControl o d = (s.writeControl o d).withArbiter x := by
  simp only [State.writeControl]
  split <;> simp
@[simp] theorem applyVerdict_withArbiter (s : State) (x : Arbiter) (d : Word) (o : VerdictOutcome) :
    (s.withArbiter x).applyVerdict d o = (s.applyVerdict d o).withArbiter x := by
  cases o <;> simp [State.applyVerdict]
  rfl
@[simp] theorem takeVerdict_withArbiter (s : State) (x : Arbiter) (a : Nat) (d : Word) :
    (s.withArbiter x).takeVerdict a d = (s.takeVerdict a d).withArbiter x := by
  simp [State.takeVerdict]
@[simp] theorem hostWrite_withArbiter (s : State) (x : Arbiter) (a : Nat) (d : Word) :
    (s.withArbiter x).hostWrite a d = (s.hostWrite a d).withArbiter x := by
  simp only [State.hostWrite, addressClass_withArbiter, slotProtected_withArbiter]
  cases s.addressClass a with
  | orderSlot l k => cases h : s.slotProtected l k <;> simp [h]
  | _ => simp

end Sys2Proof.Machine
end

