-- ==== Sys2Proof/Laws/Memory.lean ====
section
/-! SUPPORT. Job memory: what a store leaves at every address, and that it keeps the canonical form. -/

namespace Sys2Proof.Machine

/-- The canonical form above a bound holds above any lower bound. -/
theorem Memory.wfAbove_weaken {lo hi : Option Nat} {m : Memory} (h : Memory.wfAbove hi m = true)
    (hle : ∀ c : Nat, hi.all (fun b => b < c) = true → lo.all (fun b => b < c) = true) :
    Memory.wfAbove lo m = true := by
  cases m with
  | nil => rfl
  | cons p m =>
    obtain ⟨a, x⟩ := p
    simp only [Memory.wfAbove, Bool.and_eq_true] at h ⊢
    exact ⟨⟨⟨hle a h.1.1.1, h.1.1.2⟩, h.1.2⟩, h.2⟩

/-- An address at or below the bound is not listed. -/
theorem Memory.lookup_below {a : Nat} {m : Memory} (h : Memory.wfAbove (some a) m = true) :
    Memory.lookup m a = Memory.unlisted a := by
  induction m generalizing a with
  | nil => rfl
  | cons p m ih =>
    obtain ⟨b, x⟩ := p
    simp only [Memory.wfAbove, Bool.and_eq_true, Option.all_some, decide_eq_true_eq] at h
    have hne : a ≠ b := by omega
    simp only [Memory.lookup, if_neg hne]
    exact ih (Memory.wfAbove_weaken h.2 (by simp only [Option.all_some, decide_eq_true_eq]; intro c hc; omega))

/-- A store leaves every other address as it was. -/
theorem Memory.lookup_store_other (m : Memory) (x : Location) {a b : Nat} (h : b ≠ a) :
    Memory.lookup (Memory.store m a x) b = Memory.lookup m b := by
  induction m with
  | nil =>
    simp only [Memory.store]
    split
    · rfl
    · simp only [Memory.lookup, if_neg h]
  | cons p m ih =>
    obtain ⟨c, y⟩ := p
    simp only [Memory.store]
    split
    · split
      · rfl
      · simp only [Memory.lookup, if_neg h]
    · split
      · rename_i hac
        subst hac
        split
        · simp only [Memory.lookup, if_neg h]
        · simp only [Memory.lookup, if_neg h]
      · simp only [Memory.lookup, ih]

/-- A store leaves its own address holding what was stored. -/
theorem Memory.lookup_store_self {lo : Option Nat} (m : Memory) (a : Nat) (x : Location)
    (h : Memory.wfAbove lo m = true) : Memory.lookup (Memory.store m a x) a = some x := by
  induction m generalizing lo with
  | nil =>
    simp only [Memory.store]
    split
    · simp only [Memory.lookup]; assumption
    · simp only [Memory.lookup, if_true]
  | cons p m ih =>
    obtain ⟨c, y⟩ := p
    simp only [Memory.wfAbove, Bool.and_eq_true] at h
    simp only [Memory.store]
    split
    · rename_i hlt
      split
      · rename_i hu
        have hne : a ≠ c := by omega
        simp only [Memory.lookup, if_neg hne]
        rw [Memory.lookup_below (Memory.wfAbove_weaken h.2
          (by simp only [Option.all_some, decide_eq_true_eq]; intro d hd; omega)), hu]
      · simp only [Memory.lookup, if_true]
    · split
      · rename_i hac
        subst hac
        split
        · rename_i hu
          rw [Memory.lookup_below h.2, hu]
        · simp only [Memory.lookup, if_true]
      · rename_i hne
        simp only [Memory.lookup, if_neg hne]
        exact ih h.2

/-- A store above a bound keeps the canonical form above it. -/
theorem Memory.store_wfAbove {lo : Option Nat} {m : Memory} {a : Nat} (x : Location) (ha : a < Config.memoryWords)
    (hlo : lo.all (fun b => b < a) = true) (h : Memory.wfAbove lo m = true) :
    Memory.wfAbove lo (Memory.store m a x) = true := by
  induction m generalizing lo with
  | nil =>
    simp only [Memory.store]
    split
    · rfl
    · rename_i hu
      simp only [Memory.wfAbove, Bool.and_eq_true, decide_eq_true_eq]
      exact ⟨⟨⟨hlo, ha⟩, hu⟩, trivial⟩
  | cons p m ih =>
    obtain ⟨c, y⟩ := p
    have h0 := h
    simp only [Memory.wfAbove, Bool.and_eq_true] at h
    simp only [Memory.store]
    split
    · rename_i hlt
      split
      · exact h0
      · rename_i hu
        simp only [Memory.wfAbove, Bool.and_eq_true, decide_eq_true_eq, Option.all_some]
        exact ⟨⟨⟨hlo, ha⟩, hu⟩, ⟨⟨hlt, by simpa using h.1.1.2⟩, by simpa using h.1.2⟩, h.2⟩
    · split
      · rename_i hac
        subst hac
        split
        · exact Memory.wfAbove_weaken h.2 (by
            intro d hd
            cases lo with
            | none => rfl
            | some b =>
              simp only [Option.all_some, decide_eq_true_eq] at hlo hd ⊢
              omega)
        · rename_i hu
          simp only [Memory.wfAbove, Bool.and_eq_true, decide_eq_true_eq]
          exact ⟨⟨⟨hlo, ha⟩, hu⟩, h.2⟩
      · rename_i hnlt hne
        simp only [Memory.wfAbove, Bool.and_eq_true]
        refine ⟨h.1, ih ?_ h.2⟩
        simp only [Option.all_some, decide_eq_true_eq]
        omega

/-- Every store keeps the canonical form. -/
theorem Memory.storeInside_wf {m : Memory} (a : Nat) (x : Location) (h : Memory.wf m = true) :
    Memory.wf (Memory.storeInside m a x) = true := by
  simp only [Memory.storeInside]
  split
  · exact Memory.store_wfAbove x (by assumption) rfl h
  · exact h

/-- The memory after reset has the canonical form. -/
theorem Memory.wf_reset : Memory.wf State.reset.memory = true := rfl

/-! ## What a read finds after a store -/

theorem location_storeLocation_self (s : State) {a : Nat} (x : Location) (ha : a < Config.memoryWords)
    (h : Memory.wf s.memory = true) : (s.storeLocation a x).location a = x := by
  simp only [State.location, storeLocation_memory, Memory.storeInside, if_pos ha,
    Memory.lookup_store_self s.memory a x h]

theorem location_storeLocation_other (s : State) (x : Location) {a b : Nat} (h : b ≠ a) :
    (s.storeLocation a x).location b = s.location b := by
  have e : Memory.lookup (Memory.storeInside s.memory a x) b = Memory.lookup s.memory b := by
    simp only [Memory.storeInside]
    split
    · exact Memory.lookup_store_other s.memory x h
    · rfl
  simp only [State.location, storeLocation_memory, storeLocation_powerCycle, e]

/-- A store within job memory changes the stored location alone. -/
theorem storeLocation_storedOnly (s : State) {a : Nat} (x : Location) (ha : a < Config.memoryWords)
    (h : Memory.wf s.memory = true) : s.storedOnly (s.storeLocation a x) a x :=
  ⟨location_storeLocation_self s x ha h, fun _ hb => location_storeLocation_other s x hb⟩

/-- Locations depend on memory and the power cycle alone. -/
theorem location_congr {s t : State} (hm : t.memory = s.memory) (hp : t.powerCycle = s.powerCycle) (a : Nat) :
    t.location a = s.location a := by
  simp only [State.location, hm, hp]

/-- A state with the same memory and power cycle reads the same everywhere. -/
theorem sameMemory_of_eq {s t : State} (hm : t.memory = s.memory) (hp : t.powerCycle = s.powerCycle) :
    s.sameMemory t := location_congr hm hp

end Sys2Proof.Machine
end

