-- ==== Sys2Proof/Laws/HostPath.lean ====
section
/-! SUPPORT. What a host cycle does when HOST is granted next: the work of its address, the step's bookkeeping aside. -/

namespace Sys2Proof.Machine

/-- Two states that differ in the arbiter alone, in what `bookkeptAs` takes elsewhere, are bookkept alike. -/
theorem withArbiter_bookkeptAs (s t : State) (x : Arbiter) (h1 : x.lastServed = s.arbiter.lastServed)
    (h2 : x.lastLane = s.arbiter.lastLane) (h3 : x.imageWriting = s.arbiter.imageWriting)
    (h4 : x.resetWaiting = s.arbiter.resetWaiting) : (s.withArbiter x).bookkeptAs t = s.bookkeptAs t := by
  simp [State.bookkeptAs, State.withArbiter, h1, h2, h3, h4]

/-- A merge's lock is gone at the end of its step. -/
theorem lockPort_eq (s : State) : s.lockPort = s.withArbiter { s.arbiter with lock := true } := rfl

theorem checkedMerge_bookkeptAs (s t : State) (x : Arbiter) (a : Nat) (d : Word) (be : BitVec 4)
    (h1 : x.lastServed = s.arbiter.lastServed) (h2 : x.lastLane = s.arbiter.lastLane)
    (h3 : x.imageWriting = s.arbiter.imageWriting) (h4 : x.resetWaiting = s.arbiter.resetWaiting) :
    ((s.withArbiter x).checkedMerge a d be).bookkeptAs t = (s.checkedMerge a d be).bookkeptAs t := by
  have hl : ∀ y : State, y.lockPort = y.withArbiter { y.arbiter with lock := true } := fun _ => rfl
  simp only [State.checkedMerge, readOutcome_withArbiter, readData_withArbiter, hl, withArbiter_withArbiter]
  cases s.readOutcome a <;>
    simp only [storeWord_withArbiter, storeLocation_withArbiter, detectCorrectable_withArbiter,
      consumeUncorrectable_withArbiter, endOk_withArbiter, endError_withArbiter] <;>
    simp [State.bookkeptAs, State.withArbiter, State.endOk, State.endError, h1, h2, h3, h4]

/-- An operation that commutes with a change of the arbiter leaves the arbiter as it stands. -/
theorem arbiter_of_commutes {f : State → State} (h : ∀ s x, f (s.withArbiter x) = (f s).withArbiter x) (s : State) :
    (f s).arbiter = s.arbiter := by
  have e := congrArg State.arbiter (h s s.arbiter)
  exact e

/-- Such an operation, bookkept, does the same under another arbiter. -/
theorem bookkeptAs_of_commutes {f : State → State} (h : ∀ s x, f (s.withArbiter x) = (f s).withArbiter x) (s t : State)
    (x : Arbiter) (h1 : x.lastServed = s.arbiter.lastServed) (h2 : x.lastLane = s.arbiter.lastLane)
    (h3 : x.imageWriting = s.arbiter.imageWriting) (h4 : x.resetWaiting = s.arbiter.resetWaiting) :
    (f (s.withArbiter x)).bookkeptAs t = (f s).bookkeptAs t := by
  rw [h]
  have e := arbiter_of_commutes h s
  exact withArbiter_bookkeptAs (f s) t x (by rw [e, h1]) (by rw [e, h2]) (by rw [e, h3]) (by rw [e, h4])

/-- The work of a host cycle, bookkept, under another arbiter. -/
theorem hostWork_bookkeptAs (s t : State) (x : Arbiter) (c : HostCycle) (h1 : x.lastServed = s.arbiter.lastServed)
    (h2 : x.lastLane = s.arbiter.lastLane) (h3 : x.imageWriting = s.arbiter.imageWriting)
    (h4 : x.resetWaiting = s.arbiter.resetWaiting) :
    ((s.withArbiter x).hostWork c).bookkeptAs t = (s.hostWork c).bookkeptAs t := by
  have hw : ∀ (a : Nat) (d : Word), ((s.withArbiter x).hostWrite a d).bookkeptAs t = (s.hostWrite a d).bookkeptAs t :=
    fun a d => bookkeptAs_of_commutes (f := fun u => u.hostWrite a d) (fun u y => hostWrite_withArbiter u y a d)
      s t x h1 h2 h3 h4
  cases c with
  | read a =>
    exact bookkeptAs_of_commutes (f := fun u => u.hostRead a.toNat) (fun u y => hostRead_withArbiter u y a.toNat)
      s t x h1 h2 h3 h4
  | write a d => exact hw a.toNat d
  | partialWrite a d be =>
    have hp : ∀ u : State, ((u.withArbiter x).refusePartial a.toNat be) = (u.refusePartial a.toNat be).withArbiter x :=
      fun u => refusePartial_withArbiter u x a.toNat be
    simp only [State.hostWork]
    split
    · simp only [State.hostPartialWrite, addressClass_withArbiter, slotProtected_withArbiter]
      have hr := bookkeptAs_of_commutes (f := fun u => u.refusePartial a.toNat be)
        (fun u y => refusePartial_withArbiter u y a.toNat be) s t x h1 h2 h3 h4
      have hb : ∀ l, _ := fun l => bookkeptAs_of_commutes (f := fun u => u.blockWrite l a.toNat)
        (fun u y => blockWrite_withArbiter u y l a.toNat) s t x h1 h2 h3 h4
      have hm := checkedMerge_bookkeptAs s t x a.toNat d be h1 h2 h3 h4
      cases s.addressClass a.toNat with
      | orderSlot l k => cases h : s.slotProtected l k <;> simp only [h] <;> first | exact hm | exact hb (some l)
      | plain => exact hm
      | exempt =>
        show ((((s.withArbiter x).lockPort.storeLocation a.toNat _).endOk).bookkeptAs t) = _
        simp [State.bookkeptAs, State.withArbiter, State.rawMerge, State.lockPort, State.storeLocation, State.endOk,
          State.endHost, State.location, h1, h2, h3, h4]
      | verdict => exact hr
      | control => exact hr
      | stackRing => exact hb none
      | eventRing => exact hb none
    · exact hw a.toNat d

/-! ## The steps of a block on its own state -/

/-- What a block's step ends with, given the block's own effect. -/
theorem act_eq {s u : State} {f : State → State} (h : f s = u) : s.act f = u.bookkeptAs (s.act f) := by
  subst h; exact act_bookkept s f

/-- A block's step stores nothing where its own effect stores nothing. -/
theorem act_sameMemory {s u : State} {f : State → State} (h : f s = u) (hm : u.memory = s.memory)
    (hp : u.powerCycle = s.powerCycle) : s.sameMemory (s.act f) := by
  subst h; exact sameMemory_of_eq hm hp

/-- Both at once. -/
theorem act_both {s u : State} {f : State → State} (h : f s = u) (hm : u.memory = s.memory)
    (hp : u.powerCycle = s.powerCycle) : s.sameMemory (s.act f) ∧ s.act f = u.bookkeptAs (s.act f) :=
  ⟨act_sameMemory h hm hp, act_eq h⟩

/-! ## Host cycles -/

/-- With no internal grant owed, HOST is granted on the state as it stands. -/
theorem beforeHost_of_none_owed (s : State) (h : s.owed = none) : s.beforeHost = s := by
  simp [State.beforeHost, State.serveOwed, h]

/-- A host cycle that is granted at once does the work of its address. -/
theorem hostCycle_next (s : State) (c : HostCycle) (h : s.hostNext) :
    s.hostCycle c = (s.hostWork c).bookkeptAs (s.hostCycle c) := by
  have e : s.hostCycle c = State.commit s (s.grantHost.hostWork c) := by
    simp [State.hostCycle, h.1, beforeHost_of_none_owed s h.2, State.takeCycle]
  have b : State.commit s (s.grantHost.hostWork c) =
      (s.grantHost.hostWork c).bookkeptAs (State.commit s (s.grantHost.hostWork c)) := commitExcept_bookkept _ _ _
  have g := hostWork_bookkeptAs s (State.commit s (s.grantHost.hostWork c)) s.grantHost.arbiter c rfl rfl rfl rfl
  rw [e]; rw [b] at *
  exact g

/-- An offset of the control page is the address of its word. -/
theorem pageAddress_toNat {off : Nat} (h : off < 512) : (BitVec.ofNat 22 (pageAddress off)).toNat = pageAddress off := by
  simp [pageAddress, Config.pageBase, BitVec.toNat_ofNat]; omega

theorem addressClass_page (s : State) {off : Nat} (h : off < 512) : s.addressClass (pageAddress off) = .control := by
  have e : inRange Config.pageBase Config.pageWords (pageAddress off) = true := by
    have h1 : Config.pageBase ≤ pageAddress off := Nat.le_add_right _ _
    have h2 : pageAddress off < Config.pageBase + Config.pageWords := Nat.add_lt_add_left h _
    simp [inRange, h1, h2]
  simp only [State.addressClass, e, if_true]

/-- A full-word write to the control page that is granted at once does what its word says. -/
theorem pageWrite_next (s : State) {off : Nat} (d : Word) (h : s.hostNext) (ho : off < 512) :
    s.pageWrite off d = (s.writeControl off d).bookkeptAs (s.pageWrite off d) := by
  have e := hostCycle_next s (.write (BitVec.ofNat 22 (pageAddress off)) d) h
  have w : s.hostWork (.write (BitVec.ofNat 22 (pageAddress off)) d) = s.writeControl off d := by
    simp only [State.hostWork, State.hostWrite, pageAddress_toNat ho, addressClass_page s ho]
    simp [pageAddress]
  rw [w] at e
  exact e

/-- The same, given what the word's write does. -/
theorem pageWrite_eq {s u : State} {off : Nat} {d : Word} (h : s.hostNext) (ho : off < 512)
    (e : s.writeControl off d = u) : s.pageWrite off d = u.bookkeptAs (s.pageWrite off d) := by
  subst e; exact pageWrite_next s d h ho

/-- The same for a cycle anywhere. -/
theorem hostCycle_eq {s u : State} {c : HostCycle} (h : s.hostNext) (e : s.hostWork c = u) :
    s.hostCycle c = u.bookkeptAs (s.hostCycle c) := by
  subst e; exact hostCycle_next s c h

/-- A host cycle stores nothing where its work stores nothing. -/
theorem hostCycle_sameMemory {s u : State} {c : HostCycle} (h : s.hostNext) (e : s.hostWork c = u)
    (hm : u.memory = s.memory) (hp : u.powerCycle = s.powerCycle) : s.sameMemory (s.hostCycle c) := by
  rw [hostCycle_eq h e]; exact sameMemory_of_eq hm hp

/-- The work of a full-word write to an address of the control page. -/
theorem hostWork_page_address (s : State) {a : Address} {off : Nat} (d : Word) (ho : off < 512)
    (ha : a.toNat = pageAddress off) : s.hostWork (.write a d) = s.writeControl off d := by
  simp only [State.hostWork, State.hostWrite, ha, addressClass_page s ho]
  have e : pageAddress off - Config.pageBase = off := Nat.add_sub_cancel_left _ _
  simp only [e]

/-- The work of a write to the control page. -/
theorem hostWork_page (s : State) {off : Nat} (d : Word) (ho : off < 512) :
    s.hostWork (.write (BitVec.ofNat 22 (pageAddress off)) d) = s.writeControl off d := by
  simp only [State.hostWork, State.hostWrite, pageAddress_toNat ho, addressClass_page s ho]
  simp [pageAddress]

end Sys2Proof.Machine
end

