-- ==== Sys2Proof/Laws/LabelWork.lean ====
section
/-! SUPPORT. What the operations of the label and lane blocks change: nothing outside `labelWorkAs`, and no lane but
their own. -/

namespace Sys2Proof.Machine

/-! ## Nothing outside the label and lane blocks -/

/-- `t` is `s` but for what the label and lane blocks own. -/
def State.labelWorkOnly (s t : State) : Prop := t = s.labelWorkAs t

theorem labelWorkOnly_refl (s : State) : s.labelWorkOnly s := rfl

theorem labelWorkOnly_trans {s t u : State} (h : s.labelWorkOnly t) (k : t.labelWorkOnly u) : s.labelWorkOnly u := by
  unfold State.labelWorkOnly at *; rw [k, h]; rfl

theorem labelWorkOnly_ite {s t u : State} {c : Prop} [Decidable c] (h : s.labelWorkOnly t) (k : s.labelWorkOnly u) :
    s.labelWorkOnly (if c then t else u) := by
  split
  · exact h
  · exact k

theorem labelWorkOnly_sameMemory {s t : State} (h : s.labelWorkOnly t) : s.sameMemory t := by
  rw [h]; exact sameMemory_of_eq rfl rfl

theorem setLane_labelWork (s : State) (l : Lane) (x : LaneState) : s.labelWorkOnly (s.setLane l x) := rfl
theorem raiseClass_labelWork (s : State) (c : SummaryClass) (l : Option Lane) (n : Option Serial) (a : Option Nat) :
    s.labelWorkOnly (s.raiseClass c l n a) := rfl
theorem giveAt_labelWork (s : State) (p : WebPos) (b : EventBody) : s.labelWorkOnly (s.giveAt p b) := by
  unfold State.labelWorkOnly
  by_cases h : s.settings.reportingMode.keeps b.code.severity = true <;>
    by_cases k : s.writer.events.length < Config.eventPlaces <;>
      simp [State.giveAt, State.labelWorkAs, State.raiseClass, h, k]
theorem give_labelWork (s : State) (b : EventBody) : s.labelWorkOnly (s.give b) := giveAt_labelWork _ _ _
theorem giveRaise_labelWork (s : State) (c : SummaryClass) (b : EventBody) : s.labelWorkOnly (s.giveRaise c b) :=
  labelWorkOnly_trans (give_labelWork s b) (raiseClass_labelWork _ _ _ _ _)
theorem setEngine_labelWork (s : State) (e : EngineState) : s.labelWorkOnly (s.setEngine e) := rfl
theorem setService_labelWork (s : State) (l : Lane) (v : Service) : s.labelWorkOnly (s.setService l v) := rfl
theorem setGate_labelWork (s : State) (l : Lane) (g : Gate) : s.labelWorkOnly (s.setGate l g) := rfl
theorem listMissing_labelWork (s : State) (l : Lane) (m : MissingItem) : s.labelWorkOnly (s.listMissing l m) := rfl
theorem testStopped_labelWork (s : State) : s.labelWorkOnly s.testStopped :=
  labelWorkOnly_ite (labelWorkOnly_trans (setEngine_labelWork s _) (give_labelWork _ _)) rfl
theorem settleEngine_labelWork (s : State) : s.labelWorkOnly s.settleEngine :=
  labelWorkOnly_trans (labelWorkOnly_ite (setEngine_labelWork s _) (labelWorkOnly_refl s)) (testStopped_labelWork _)
theorem placeRecord_labelWork (s : State) (r : StackRecord) : s.labelWorkOnly (s.placeRecord r) :=
  labelWorkOnly_ite rfl (labelWorkOnly_trans (setLane_labelWork s _ _) (giveRaise_labelWork _ _ _))
theorem closeWith_labelWork (s : State) (r : StackRecord) : s.labelWorkOnly (s.closeWith r) :=
  labelWorkOnly_trans (placeRecord_labelWork s r) (give_labelWork _ _)
theorem closeStack_labelWork (s : State) (l : Lane) (w : CloseReason) : s.labelWorkOnly (s.closeStack l w) := by
  unfold State.closeStack
  split
  · exact labelWorkOnly_trans (setLane_labelWork s _ _) (closeWith_labelWork _ _)
  · exact labelWorkOnly_ite rfl (labelWorkOnly_trans (setLane_labelWork s _ _) (closeWith_labelWork _ _))
theorem announceFault_labelWork (s : State) (l : Lane) (c : FaultCause) : s.labelWorkOnly (s.announceFault l c) :=
  giveRaise_labelWork _ _ _
theorem closeFaulted_labelWork (s : State) (l : Lane) (w : CloseReason) : s.labelWorkOnly (s.closeFaulted l w) :=
  labelWorkOnly_ite (labelWorkOnly_trans (closeStack_labelWork s l w) (announceFault_labelWork _ _ _))
    (closeStack_labelWork s l w)
theorem runOutComplete_labelWork (s : State) (l : Lane) : s.labelWorkOnly (s.runOutComplete l) :=
  labelWorkOnly_trans (closeFaulted_labelWork s l _) (testStopped_labelWork _)
theorem rewind_labelWork (s : State) (l : Lane) : s.labelWorkOnly (s.rewind l) :=
  labelWorkOnly_ite (setLane_labelWork s _ _) (labelWorkOnly_trans (setLane_labelWork s _ _) (give_labelWork _ _))
theorem discardEarly_labelWork (s : State) (l : Lane) : s.labelWorkOnly (s.discardEarly l) := by
  have h : s.labelWorkOnly { s with early := s.early.filter (fun e => e.lane != l) } := rfl
  exact labelWorkOnly_ite h (labelWorkOnly_trans h (give_labelWork _ _))
theorem laneFault_labelWork (s : State) (l : Lane) (c : FaultCause) : s.labelWorkOnly (s.laneFault l c) := by
  have h : s.labelWorkOnly ((((s.setLane l ((s.lane l).faultedBy c)).announceFault l c).rewind l).discardEarly l) :=
    labelWorkOnly_trans (labelWorkOnly_trans (labelWorkOnly_trans (setLane_labelWork s _ _)
      (announceFault_labelWork _ _ _)) (rewind_labelWork _ _)) (discardEarly_labelWork _ _)
  unfold State.laneFault
  split
  · rfl
  · exact announceFault_labelWork s l c
  all_goals
    exact labelWorkOnly_trans (labelWorkOnly_ite (labelWorkOnly_trans h (runOutComplete_labelWork _ _)) h)
      (settleEngine_labelWork _)
theorem closeAndFault_labelWork (s : State) (l : Lane) (w : CloseReason) : s.labelWorkOnly (s.closeAndFault l w) :=
  labelWorkOnly_ite (labelWorkOnly_trans (closeStack_labelWork s l w) (laneFault_labelWork _ _ _))
    (closeStack_labelWork s l w)
theorem drainComplete_labelWork (s : State) (l : Lane) : s.labelWorkOnly (s.drainComplete l) :=
  labelWorkOnly_trans (labelWorkOnly_trans (labelWorkOnly_trans (labelWorkOnly_trans (setService_labelWork s _ _)
    (discardEarly_labelWork _ _)) (rewind_labelWork _ _)) (closeAndFault_labelWork _ _ _)) (testStopped_labelWork _)
theorem abandonQueue_labelWork (s : State) (l : Lane) : s.labelWorkOnly (s.abandonQueue l) :=
  labelWorkOnly_ite (setLane_labelWork s _ _) (labelWorkOnly_trans (setLane_labelWork s _ _) (give_labelWork _ _))
theorem haltLane_labelWork (s : State) (l : Lane) : s.labelWorkOnly (s.haltLane l) := by
  have h := labelWorkOnly_trans (labelWorkOnly_trans (abandonQueue_labelWork s l) (closeStack_labelWork _ l .halt))
    (setLane_labelWork _ l (((s.abandonQueue l).closeStack l .halt).lane l).haltedOutputs)
  exact labelWorkOnly_ite h (labelWorkOnly_trans (labelWorkOnly_trans h (rewind_labelWork _ _))
    (discardEarly_labelWork _ _))
theorem forLanes_labelWork {f : State → Lane → State} (h : ∀ (s : State) (l : Lane), s.labelWorkOnly (f s l)) (s : State) :
    s.labelWorkOnly (s.forLanes f) :=
  labelWorkOnly_trans (labelWorkOnly_trans (labelWorkOnly_trans (h s .l0) (h _ .l1)) (h _ .l2)) (h _ .l3)
theorem raiseHalt_labelWork (s : State) (c : HaltCause) : s.labelWorkOnly (s.raiseHalt c) := by cases c <;> rfl
theorem enterHalted_labelWork (s : State) (c : HaltCause) : s.labelWorkOnly (s.enterHalted c) := by
  have h : s.labelWorkOnly { s with engine := { s.engine with state := .halted, cause := some c } } := rfl
  exact labelWorkOnly_trans (labelWorkOnly_trans (labelWorkOnly_trans h (give_labelWork _ _))
    (raiseHalt_labelWork _ _)) (forLanes_labelWork haltLane_labelWork _)
theorem takeHalt_labelWork (s : State) (c : HaltCause) : s.labelWorkOnly (s.takeHalt c) :=
  labelWorkOnly_ite rfl (enterHalted_labelWork s c)
theorem safeRise_labelWork (s : State) : s.labelWorkOnly s.safeRise := by
  have h : s.labelWorkOnly { s with engine := { s.engine with safe := true } } := rfl
  exact labelWorkOnly_ite rfl (labelWorkOnly_trans h (takeHalt_labelWork _ _))
theorem drainLane_labelWork (s : State) (l : Lane) : s.labelWorkOnly (s.drainLane l) := by
  have h := setService_labelWork s l .draining
  exact labelWorkOnly_ite (labelWorkOnly_trans h (drainComplete_labelWork _ _)) h
theorem spill_labelWork (s : State) (l : Lane) (m : MissingItem) : s.labelWorkOnly (s.spill l m) :=
  labelWorkOnly_trans (listMissing_labelWork s l _) (give_labelWork _ _)
theorem takeStackLabel_labelWork (s : State) (l : Lane) (r : LabelRecord) : s.labelWorkOnly (s.takeStackLabel l r) := by
  have h := labelWorkOnly_trans (spill_labelWork s l (r.item .spill)) (setGate_labelWork _ l .reject)
  unfold State.takeStackLabel
  split
  · exact labelWorkOnly_ite (labelWorkOnly_trans (labelWorkOnly_trans (closeAndFault_labelWork s l _)
      (spill_labelWork _ _ _)) (setGate_labelWork _ _ _))
      (labelWorkOnly_trans (setLane_labelWork s _ _) (setGate_labelWork _ _ _))
  · exact h
  · exact h
theorem takeItem_labelWork (s : State) (l : Lane) (r : LabelRecord) : s.labelWorkOnly (s.takeItem l r) := by
  unfold State.takeItem
  split
  · exact takeStackLabel_labelWork s l r
  · exact labelWorkOnly_trans (listMissing_labelWork s _ _) (setGate_labelWork _ _ _)
  · exact labelWorkOnly_trans (listMissing_labelWork s _ _) (setGate_labelWork _ _ _)
theorem testClose_labelWork (s : State) (l : Lane) (r : LabelRecord) : s.labelWorkOnly (s.testClose l r) :=
  labelWorkOnly_ite (closeAndFault_labelWork s l _) (labelWorkOnly_ite (closeAndFault_labelWork s l _) rfl)
theorem afterGate_labelWork (s : State) (l : Lane) : s.labelWorkOnly (s.afterGate l) :=
  labelWorkOnly_ite (drainComplete_labelWork s l) (labelWorkOnly_ite (runOutComplete_labelWork s l) rfl)
theorem takeGate_labelWork (s : State) (l : Lane) : s.labelWorkOnly (s.takeGate l) := by
  unfold State.takeGate
  split
  · rfl
  · exact labelWorkOnly_ite (labelWorkOnly_trans (labelWorkOnly_trans (labelWorkOnly_trans (setLane_labelWork s _ _)
      (takeItem_labelWork _ _ _)) (testClose_labelWork _ _ _)) (afterGate_labelWork _ _)) rfl
theorem takeConfirmLimit_labelWork (s : State) (l : Lane) : s.labelWorkOnly (s.takeConfirmLimit l) := by
  unfold State.takeConfirmLimit
  split
  · rfl
  · have h := setLane_labelWork s l { s.lane l with queue := confirmQueue (s.lane l).queue }
    refine labelWorkOnly_ite (labelWorkOnly_trans (labelWorkOnly_ite (labelWorkOnly_trans
      (labelWorkOnly_trans h (setLane_labelWork _ _ _)) (laneFault_labelWork _ _ _))
      (labelWorkOnly_trans h (setLane_labelWork _ _ _))) (give_labelWork _ _)) h
theorem reofferWord_labelWork (s : State) (l : Lane) (n : Option Serial) (p : WebPos) (a : Nat) (w : FetchedWord) :
    s.labelWorkOnly (s.reofferWord l n p a w) := by
  unfold State.reofferWord
  split
  · have h : ∀ d, s.labelWorkOnly (s.offerUncorrectable (.fetch l) true a d) := fun _ => rfl
    exact labelWorkOnly_trans (labelWorkOnly_trans (h _) (giveAt_labelWork _ _ _)) (raiseClass_labelWork _ _ _ _ _)
  · rfl
  · rfl
  · rfl
theorem reofferEntry_labelWork (s : State) (l : Lane) (p : WebPos) (n : Option Serial) (e : WindowEntry) :
    s.labelWorkOnly (s.reofferEntry l p n e) :=
  labelWorkOnly_trans (labelWorkOnly_trans (labelWorkOnly_trans (reofferWord_labelWork s _ _ _ _ _)
    (reofferWord_labelWork _ _ _ _ _ _)) (reofferWord_labelWork _ _ _ _ _ _)) (reofferWord_labelWork _ _ _ _ _ _)
theorem bindingEvents_labelWork (s : State) (l : Lane) (p : WebPos) (b : Binding) :
    s.labelWorkOnly (s.bindingEvents l p b) := by
  cases b with
  | valid e => rfl
  | drain => rfl
  | starved => exact labelWorkOnly_trans (giveAt_labelWork s _ _) (raiseClass_labelWork _ _ _ _ _)
  | faulty e c =>
    have h := fun b => labelWorkOnly_trans (giveAt_labelWork s p b) (raiseClass_labelWork _ .orderFault (some l)
      (Binding.faulty e c).serial none)
    exact labelWorkOnly_ite (labelWorkOnly_trans (h _) (reofferEntry_labelWork _ _ _ _ _)) (h _)
theorem foldl_labelWork {α : Type} {f : State → α → State} (h : ∀ (s : State) (x : α), s.labelWorkOnly (f s x)) (xs : List α)
    (s : State) : s.labelWorkOnly (xs.foldl f s) := by
  induction xs generalizing s with
  | nil => rfl
  | cons x xs ih => exact labelWorkOnly_trans (h s x) (ih _)
theorem evictEarly_labelWork (s : State) (l : Lane) (n : Serial) : s.labelWorkOnly (s.evictEarly l n) := by
  have h : ∀ e : List EarlyEntry, s.labelWorkOnly { s with early := e } := fun _ => rfl
  exact labelWorkOnly_trans (h _) (foldl_labelWork (fun t _ => give_labelWork t _) _ _)
theorem bindSerial_labelWork (s : State) (l : Lane) (r : LabelRecord) : s.labelWorkOnly (s.bindSerial l r).1 := by
  unfold State.bindSerial
  split
  · rfl
  · exact labelWorkOnly_trans (setLane_labelWork s _ _) (evictEarly_labelWork _ _ _)
theorem createRecord_labelWork (s : State) (l : Lane) (t : LabelStart) : s.labelWorkOnly (s.createRecord l t).1 :=
  labelWorkOnly_trans (labelWorkOnly_trans (labelWorkOnly_trans (setLane_labelWork s l _) (bindSerial_labelWork _ _ _))
    (setLane_labelWork _ _ _)) (bindingEvents_labelWork _ _ _ _)
theorem answerTracker_labelWork (s : State) (l : Lane) (m : WebPos) (p : Half) (n : Nat) :
    s.labelWorkOnly (s.answerTracker l m p n) := rfl
theorem markPulse_labelWork (s : State) (l : Lane) : s.labelWorkOnly (s.markPulse l) := by
  have h := fun t n => labelWorkOnly_trans (createRecord_labelWork s l t)
    (answerTracker_labelWork _ l s.web.position (s.createRecord l t).2.pitch n)
  refine labelWorkOnly_ite rfl (labelWorkOnly_ite (give_labelWork s _) ?_)
  unfold State.measureMark
  split
  · exact h _ _
  · exact labelWorkOnly_ite (give_labelWork s _)
      (labelWorkOnly_ite (labelWorkOnly_trans (h _ _) (giveAt_labelWork _ _ _)) (h _ _))
theorem takeExpiry_labelWork (s : State) (l : Lane) : s.labelWorkOnly (s.takeExpiry l) := by
  have h := fun (k : Tracked) t n => labelWorkOnly_trans (createRecord_labelWork s l t)
    (answerTracker_labelWork _ l k.pred (s.createRecord l t).2.pitch n)
  unfold State.takeExpiry
  refine labelWorkOnly_ite rfl (labelWorkOnly_ite rfl ?_)
  split
  · rfl
  · rename_i k _
    have g := fun b n t => labelWorkOnly_trans (h k t n) (giveAt_labelWork _ k.pred b)
    exact labelWorkOnly_ite (labelWorkOnly_trans (g _ _ _) (laneFault_labelWork _ _ _)) (g _ _ _)

end Sys2Proof.Machine
end

