-- ==== Sys2Proof/Laws/Lanes.lean ====
section
/-! SUPPORT. What the operations of a lane change outside that lane: no other lane; and what they leave of the lane, the
holding list and the engine. -/

namespace Sys2Proof.Machine

/-! ## No lane but their own -/

/-- `t` has the lanes of `s`, lane `l` aside. -/
def State.lanesBut (s : State) (l : Lane) (t : State) : Prop := ∀ m, m ≠ l → t.lane m = s.lane m

theorem lanesBut_refl (s : State) (l : Lane) : s.lanesBut l s := fun _ _ => rfl
theorem lanesBut_trans {s t u : State} {l : Lane} (h : s.lanesBut l t) (k : t.lanesBut l u) : s.lanesBut l u :=
  fun m hm => (k m hm).trans (h m hm)
theorem lanesBut_ite {s t u : State} {l : Lane} {c : Prop} [Decidable c] (h : s.lanesBut l t) (k : s.lanesBut l u) :
    s.lanesBut l (if c then t else u) := by
  split
  · exact h
  · exact k
theorem lanesBut_of_lanes {s t : State} {l : Lane} (h : t.lanes = s.lanes) : s.lanesBut l t :=
  fun m _ => by simp only [State.lane, h]
theorem setLane_lanesBut (s : State) (l : Lane) (x : LaneState) : s.lanesBut l (s.setLane l x) :=
  fun _ h => lane_setLane_other s x h
theorem giveAt_lanesBut (s : State) (l : Lane) (p : WebPos) (b : EventBody) : s.lanesBut l (s.giveAt p b) :=
  lanesBut_of_lanes (giveAt_lanes s p b)
theorem give_lanesBut (s : State) (l : Lane) (b : EventBody) : s.lanesBut l (s.give b) := giveAt_lanesBut _ _ _ _
theorem giveRaise_lanesBut (s : State) (l : Lane) (c : SummaryClass) (b : EventBody) : s.lanesBut l (s.giveRaise c b) :=
  lanesBut_trans (give_lanesBut s l b) (lanesBut_refl _ _)
theorem testStopped_lanesBut (s : State) (l : Lane) : s.lanesBut l s.testStopped :=
  lanesBut_ite (lanesBut_trans (lanesBut_refl s l) (give_lanesBut (s.setEngine .stopped) l _)) (lanesBut_refl _ _)
theorem settleEngine_lanesBut (s : State) (l : Lane) : s.lanesBut l s.settleEngine :=
  lanesBut_trans (lanesBut_ite (lanesBut_of_lanes (t := s.setEngine .draining) rfl) (lanesBut_refl s l))
    (testStopped_lanesBut _ l)
theorem placeRecord_lanesBut (s : State) (r : StackRecord) : s.lanesBut r.lane (s.placeRecord r) :=
  lanesBut_ite (lanesBut_refl _ _) (lanesBut_trans (setLane_lanesBut s _ _) (giveRaise_lanesBut _ _ _ _))
theorem closeWith_lanesBut (s : State) (r : StackRecord) : s.lanesBut r.lane (s.closeWith r) :=
  lanesBut_trans (placeRecord_lanesBut s r) (give_lanesBut _ _ _)
theorem closeStack_lanesBut (s : State) (l : Lane) (w : CloseReason) : s.lanesBut l (s.closeStack l w) := by
  unfold State.closeStack
  split
  · rename_i k _
    exact lanesBut_trans (setLane_lanesBut s _ _) (closeWith_lanesBut _ (k.record l w))
  · exact lanesBut_ite (lanesBut_refl _ _) (lanesBut_trans (setLane_lanesBut s _ _)
      (closeWith_lanesBut _ ((s.lane l).carry.record l (s.lane l).nextSequence w)))
theorem announceFault_lanesBut (s : State) (l : Lane) (c : FaultCause) : s.lanesBut l (s.announceFault l c) :=
  giveRaise_lanesBut _ _ _ _
theorem closeFaulted_lanesBut (s : State) (l : Lane) (w : CloseReason) : s.lanesBut l (s.closeFaulted l w) :=
  lanesBut_ite (lanesBut_trans (closeStack_lanesBut s l w) (announceFault_lanesBut _ _ _)) (closeStack_lanesBut s l w)
theorem runOutComplete_lanesBut (s : State) (l : Lane) : s.lanesBut l (s.runOutComplete l) :=
  lanesBut_trans (closeFaulted_lanesBut s l _) (testStopped_lanesBut _ l)
theorem rewind_lanesBut (s : State) (l : Lane) : s.lanesBut l (s.rewind l) :=
  lanesBut_ite (setLane_lanesBut s _ _) (lanesBut_trans (setLane_lanesBut s _ _) (give_lanesBut _ _ _))
theorem discardEarly_lanesBut (s : State) (l : Lane) : s.lanesBut l (s.discardEarly l) :=
  lanesBut_ite (lanesBut_refl s l) (lanesBut_trans (lanesBut_refl s l)
    (give_lanesBut { s with early := s.early.filter (fun e => e.lane != l) } l _))
theorem laneFault_lanesBut (s : State) (l : Lane) (c : FaultCause) : s.lanesBut l (s.laneFault l c) := by
  have h : s.lanesBut l ((((s.setLane l ((s.lane l).faultedBy c)).announceFault l c).rewind l).discardEarly l) :=
    lanesBut_trans (lanesBut_trans (lanesBut_trans (setLane_lanesBut s _ _) (announceFault_lanesBut _ _ _))
      (rewind_lanesBut _ _)) (discardEarly_lanesBut _ _)
  unfold State.laneFault
  split
  · exact lanesBut_refl _ _
  · exact announceFault_lanesBut s l c
  all_goals
    exact lanesBut_trans (lanesBut_ite (lanesBut_trans h (runOutComplete_lanesBut _ _)) h) (settleEngine_lanesBut _ l)
theorem closeAndFault_lanesBut (s : State) (l : Lane) (w : CloseReason) : s.lanesBut l (s.closeAndFault l w) :=
  lanesBut_ite (lanesBut_trans (closeStack_lanesBut s l w) (laneFault_lanesBut _ _ _)) (closeStack_lanesBut s l w)
theorem drainComplete_lanesBut (s : State) (l : Lane) : s.lanesBut l (s.drainComplete l) :=
  lanesBut_trans (lanesBut_trans (lanesBut_trans (lanesBut_trans (setLane_lanesBut s _ _)
    (discardEarly_lanesBut _ _)) (rewind_lanesBut _ _)) (closeAndFault_lanesBut _ _ _)) (testStopped_lanesBut _ l)
theorem abandonQueue_lanesBut (s : State) (l : Lane) : s.lanesBut l (s.abandonQueue l) :=
  lanesBut_ite (setLane_lanesBut s _ _) (lanesBut_trans (setLane_lanesBut s _ _) (give_lanesBut _ _ _))
theorem haltLane_lanesBut (s : State) (l : Lane) : s.lanesBut l (s.haltLane l) := by
  have h := lanesBut_trans (lanesBut_trans (abandonQueue_lanesBut s l) (closeStack_lanesBut _ l .halt))
    (setLane_lanesBut _ l (((s.abandonQueue l).closeStack l .halt).lane l).haltedOutputs)
  exact lanesBut_ite h (lanesBut_trans (lanesBut_trans h (rewind_lanesBut _ _)) (discardEarly_lanesBut _ _))
theorem spill_lanesBut (s : State) (l : Lane) (m : MissingItem) : s.lanesBut l (s.spill l m) :=
  lanesBut_trans (setLane_lanesBut s _ _) (give_lanesBut _ _ _)
theorem takeItem_lanesBut (s : State) (l : Lane) (r : LabelRecord) : s.lanesBut l (s.takeItem l r) := by
  have h : ∀ x, s.lanesBut l ((s.spill l (r.item .spill)).setLane l x) := fun x =>
    lanesBut_trans (spill_lanesBut s l (r.item .spill)) (setLane_lanesBut _ l x)
  unfold State.takeItem
  split
  · unfold State.takeStackLabel
    split
    · exact lanesBut_ite (lanesBut_trans (lanesBut_trans (closeAndFault_lanesBut s l _) (spill_lanesBut _ _ _))
        (setLane_lanesBut _ _ _)) (lanesBut_trans (setLane_lanesBut s _ _) (setLane_lanesBut _ _ _))
    · exact h _
    · exact h _
  · exact lanesBut_trans (setLane_lanesBut s _ _) (setLane_lanesBut _ _ _)
  · exact lanesBut_trans (setLane_lanesBut s _ _) (setLane_lanesBut _ _ _)
theorem takeGate_lanesBut (s : State) (l : Lane) : s.lanesBut l (s.takeGate l) := by
  unfold State.takeGate
  split
  · exact lanesBut_refl _ _
  · exact lanesBut_ite (lanesBut_trans (lanesBut_trans (lanesBut_trans (setLane_lanesBut s _ _)
      (takeItem_lanesBut _ _ _)) (lanesBut_ite (closeAndFault_lanesBut _ _ _)
        (lanesBut_ite (closeAndFault_lanesBut _ _ _) (lanesBut_refl _ _)))) (lanesBut_ite (drainComplete_lanesBut _ _)
        (lanesBut_ite (runOutComplete_lanesBut _ _) (lanesBut_refl _ _)))) (lanesBut_refl _ _)
theorem takeConfirmLimit_lanesBut (s : State) (l : Lane) : s.lanesBut l (s.takeConfirmLimit l) := by
  unfold State.takeConfirmLimit
  split
  · exact lanesBut_refl _ _
  · have h := setLane_lanesBut s l { s.lane l with queue := confirmQueue (s.lane l).queue }
    exact lanesBut_ite (lanesBut_trans (lanesBut_ite (lanesBut_trans (lanesBut_trans h (setLane_lanesBut _ _ _))
      (laneFault_lanesBut _ _ _)) (lanesBut_trans h (setLane_lanesBut _ _ _))) (give_lanesBut _ _ _)) h

/-! ## A close that finds room in the holding list (06 R98, R102) -/

/-- An open stack closed with room: its record joins the holding list. -/
theorem closeStack_room (s : State) (l : Lane) (w : CloseReason) (k : OpenStack) (h : (s.lane l).openStack = some k)
    (r : s.writer.holding.length < 4) :
    s.closeStack l w = ((s.setLane l ((s.lane l).afterStackClose k)).holdingAs (s.writer.holding ++ [k.record l w])).give
      { code := .stackClosed, lane := some l, address := some w.code, value := some (k.sequence.setWidth 32) } := by
  have hp : (s.setLane l ((s.lane l).afterStackClose k)).placeRecord (k.record l w) =
      (s.setLane l ((s.lane l).afterStackClose k)).holdingAs (s.writer.holding ++ [k.record l w]) := by
    simp [State.placeRecord, Config.holdingPlaces, r, State.holdingAs]
  simp only [State.closeStack, h, State.closeWith, hp]
  rfl

/-- With room no close parks. -/
theorem closeParks_room (s : State) (l : Lane) (r : s.writer.holding.length < 4) : s.closeParks l = false := by
  have n : ¬ 4 ≤ s.writer.holding.length := Nat.not_le.mpr r
  simp [State.closeParks, Config.holdingPlaces, n]

theorem closeAndFault_room (s : State) (l : Lane) (w : CloseReason) (r : s.writer.holding.length < 4) :
    s.closeAndFault l w = s.closeStack l w := by
  simp [State.closeAndFault, closeParks_room s l r]

end Sys2Proof.Machine
end

