-- ==== Sys2Proof/Laws/Faults.lean ====
section
/-! SUPPORT. What closes, rewinds, lane faults, run-out and drain completion leave: of their lane, the early table, the
engine, the holding list and the fault summary. -/

namespace Sys2Proof.Machine

/-! ## What is common to them -/

/-- `t` has the engine of `s`. -/
theorem give_engine (s : State) (b : EventBody) : (s.give b).engine = s.engine := giveAt_engine s _ b
theorem give_early (s : State) (b : EventBody) : (s.give b).early = s.early := giveAt_early s _ b
theorem give_lane (s : State) (b : EventBody) (m : Lane) : (s.give b).lane m = s.lane m := giveAt_lane s _ b m
theorem give_holding (s : State) (b : EventBody) : (s.give b).writer.holding = s.writer.holding :=
  giveAt_writer_holding s _ b
theorem giveRaise_engine (s : State) (c : SummaryClass) (b : EventBody) : (s.giveRaise c b).engine = s.engine :=
  give_engine s b
theorem giveRaise_early (s : State) (c : SummaryClass) (b : EventBody) : (s.giveRaise c b).early = s.early :=
  give_early s b
theorem giveRaise_lane (s : State) (c : SummaryClass) (b : EventBody) (m : Lane) :
    (s.giveRaise c b).lane m = s.lane m := give_lane s b m
theorem giveRaise_holding (s : State) (c : SummaryClass) (b : EventBody) :
    (s.giveRaise c b).writer.holding = s.writer.holding := give_holding s b

/-- A class that is raised is set. -/
theorem raiseClass_set (s : State) (c : SummaryClass) (l : Option Lane) (n : Option Serial) (a : Option Nat) :
    (s.raiseClass c l n a).summary.getLsbD c.bit = true := by
  cases c <;> simp [State.raiseClass, SummaryClass.bit]
theorem giveRaise_set (s : State) (c : SummaryClass) (b : EventBody) : (s.giveRaise c b).summary.getLsbD c.bit = true :=
  raiseClass_set _ _ _ _ _

/-- A summary bit that is set stays set through everything that is given. -/
theorem giveAt_keepsSummary (s : State) (p : WebPos) (b : EventBody) (i : Nat) (h : s.summary.getLsbD i = true) :
    (s.giveAt p b).summary.getLsbD i = true := by
  simp only [State.giveAt, State.raiseClass]
  split
  · split
    · exact h
    · simp [h]
  · exact h
theorem give_keepsSummary (s : State) (b : EventBody) (i : Nat) (h : s.summary.getLsbD i = true) :
    (s.give b).summary.getLsbD i = true := giveAt_keepsSummary s _ b i h
theorem giveRaise_keepsSummary (s : State) (c : SummaryClass) (b : EventBody) (i : Nat)
    (h : s.summary.getLsbD i = true) : (s.giveRaise c b).summary.getLsbD i = true := by
  simp [State.giveRaise, State.raiseClass, give_keepsSummary s b i h]

/-! ## Rewind and the early discard -/

@[simp] theorem rewind_lane_self (s : State) (l : Lane) : (s.rewind l).lane l = (s.lane l).rewound := by
  simp only [State.rewind]; split <;> simp [give_lane]
theorem rewind_engine (s : State) (l : Lane) : (s.rewind l).engine = s.engine := by
  simp only [State.rewind]; split <;> simp [give_engine]
theorem rewind_early (s : State) (l : Lane) : (s.rewind l).early = s.early := by
  simp only [State.rewind]; split <;> simp [give_early]
theorem rewind_holding (s : State) (l : Lane) : (s.rewind l).writer.holding = s.writer.holding := by
  simp only [State.rewind]; split <;> simp [give_holding]
theorem rewind_keepsSummary (s : State) (l : Lane) (i : Nat) (h : s.summary.getLsbD i = true) :
    (s.rewind l).summary.getLsbD i = true := by
  simp only [State.rewind]; split
  · exact h
  · exact give_keepsSummary _ _ i h

@[simp] theorem discardEarly_lane (s : State) (l m : Lane) : (s.discardEarly l).lane m = s.lane m := by
  simp only [State.discardEarly]; split
  · rfl
  · rw [give_lane]; rfl
theorem discardEarly_engine (s : State) (l : Lane) : (s.discardEarly l).engine = s.engine := by
  simp only [State.discardEarly]; split
  · rfl
  · rw [give_engine]
theorem discardEarly_early (s : State) (l : Lane) :
    (s.discardEarly l).early = s.early.filter (fun e => e.lane != l) := by
  simp only [State.discardEarly]; split
  · rfl
  · rw [give_early]
theorem discardEarly_holding (s : State) (l : Lane) : (s.discardEarly l).writer.holding = s.writer.holding := by
  simp only [State.discardEarly]; split
  · rfl
  · rw [give_holding]
theorem discardEarly_keepsSummary (s : State) (l : Lane) (i : Nat) (h : s.summary.getLsbD i = true) :
    (s.discardEarly l).summary.getLsbD i = true := by
  simp only [State.discardEarly]; split
  · exact h
  · exact give_keepsSummary _ _ i h

/-! ## Closes -/

/-- `y` is `x` after a close: what the stack assembler owns beside the open stack, now absent, may differ. -/
def LaneState.closedFrom (y x : LaneState) : Prop :=
  y = { x with
    openStack := none
    trayPulse := y.trayPulse
    stacker := y.stacker
    carry := y.carry
    nextSequence := y.nextSequence
    parked := y.parked }

theorem placeRecord_engine (s : State) (r : StackRecord) : (s.placeRecord r).engine = s.engine := by
  simp only [State.placeRecord]; split
  · rfl
  · rw [giveRaise_engine]; rfl
theorem placeRecord_early (s : State) (r : StackRecord) : (s.placeRecord r).early = s.early := by
  simp only [State.placeRecord]; split
  · rfl
  · rw [giveRaise_early]; rfl
theorem placeRecord_keepsSummary (s : State) (r : StackRecord) (i : Nat) (h : s.summary.getLsbD i = true) :
    (s.placeRecord r).summary.getLsbD i = true := by
  simp only [State.placeRecord]; split
  · exact h
  · exact giveRaise_keepsSummary _ _ _ i h
theorem closeStack_engine (s : State) (l : Lane) (w : CloseReason) : (s.closeStack l w).engine = s.engine := by
  simp only [State.closeStack, State.closeWith]; split
  · rw [give_engine, placeRecord_engine]; rfl
  · split
    · rfl
    · rw [give_engine, placeRecord_engine]; rfl
theorem closeStack_early (s : State) (l : Lane) (w : CloseReason) : (s.closeStack l w).early = s.early := by
  simp only [State.closeStack, State.closeWith]; split
  · rw [give_early, placeRecord_early]; rfl
  · split
    · rfl
    · rw [give_early, placeRecord_early]; rfl
theorem closeStack_keepsSummary (s : State) (l : Lane) (w : CloseReason) (i : Nat) (h : s.summary.getLsbD i = true) :
    (s.closeStack l w).summary.getLsbD i = true := by
  simp only [State.closeStack, State.closeWith]; split
  · exact give_keepsSummary _ _ i (placeRecord_keepsSummary _ _ i h)
  · split
    · exact h
    · exact give_keepsSummary _ _ i (placeRecord_keepsSummary _ _ i h)

theorem placeRecord_lane_self (s : State) (r : StackRecord) :
    (s.placeRecord r).lane r.lane = { s.lane r.lane with parked := ((s.placeRecord r).lane r.lane).parked } := by
  simp only [State.placeRecord]; split
  · rfl
  · simp only [giveRaise_lane, lane_setLane_self]

theorem closeStack_lane_self (s : State) (l : Lane) (w : CloseReason) :
    ((s.closeStack l w).lane l).closedFrom (s.lane l) := by
  have key : ∀ (x : LaneState) (r : StackRecord), r.lane = l → x.closedFrom (s.lane l) →
      (((s.setLane l x).closeWith r).lane l).closedFrom (s.lane l) := by
    intro x r hr hx
    have e := placeRecord_lane_self (s.setLane l x) r
    simp only [hr, lane_setLane_self] at e
    unfold LaneState.closedFrom at *
    simp only [State.closeWith, give_lane]
    rw [e]; rw [hx]
  simp only [State.closeStack]
  split
  · exact key _ _ rfl rfl
  · rename_i h
    split
    · unfold LaneState.closedFrom; rw [← h]
    · refine key _ _ rfl ?_
      unfold LaneState.closedFrom LaneState.afterCarryClose; rw [← h]

/-! ## The test for STOPPED -/

/-- The engine of `t` is that of `s`, its state aside. -/
def State.engineState (s t : State) : Prop := t.engine = { s.engine with state := t.engine.state }

theorem testStopped_lane (s : State) (m : Lane) : s.testStopped.lane m = s.lane m := by
  simp only [State.testStopped]; split
  · rw [give_lane]; rfl
  · rfl
theorem testStopped_early (s : State) : s.testStopped.early = s.early := by
  simp only [State.testStopped]; split
  · rw [give_early]; rfl
  · rfl
theorem testStopped_holding (s : State) : s.testStopped.writer.holding = s.writer.holding := by
  simp only [State.testStopped]; split
  · rw [give_holding]; rfl
  · rfl
theorem testStopped_engine (s : State) : s.testStopped.engine = { s.engine with
    state := if s.engine.state = .draining ∧ s.runOutDone = true then .stopped else s.engine.state } := by
  simp only [State.testStopped]
  by_cases h : s.engine.state = .draining ∧ s.runOutDone = true
  · rw [if_pos h, if_pos h, give_engine]; rfl
  · rw [if_neg h, if_neg h]
theorem testStopped_keepsSummary (s : State) (i : Nat) (h : s.summary.getLsbD i = true) :
    s.testStopped.summary.getLsbD i = true := by
  simp only [State.testStopped]; split
  · exact give_keepsSummary _ _ i h
  · exact h

/-- The test for STOPPED, spelled out. -/
theorem runOutDone_iff (s : State) : s.runOutDone = true ↔ ∀ m, (s.lane m).service ≠ .active ∧
    (s.lane m).service ≠ .draining ∧ ((s.lane m).service.isFaulted = true → (s.lane m).queue = []) := by
  simp only [State.runOutDone, Lane.inOrder, List.all_eq_true, Bool.and_eq_true, bne_iff_ne, Bool.not_eq_true',
    Bool.and_eq_false_iff, and_assoc]
  constructor
  · intro h m
    obtain ⟨a, b, c⟩ := h m (by cases m <;> simp)
    refine ⟨a, b, fun hf => ?_⟩
    rcases c with c | c
    · rw [hf] at c; exact absurd c (by simp)
    · simpa using c
  · intro h m _
    obtain ⟨a, b, c⟩ := h m
    refine ⟨a, b, ?_⟩
    by_cases hf : (s.lane m).service.isFaulted = true
    · right; simp [c hf]
    · left; simpa using hf

theorem noLaneActive_iff (s : State) : s.noLaneActive = true ↔ ∀ m, (s.lane m).service ≠ .active := by
  simp only [State.noLaneActive, Lane.inOrder, List.all_eq_true, bne_iff_ne]
  exact ⟨fun h m => h m (by cases m <;> simp), fun h m _ => h m⟩

theorem settleEngine_lane (s : State) (m : Lane) : s.settleEngine.lane m = s.lane m := by
  simp only [State.settleEngine, testStopped_lane]; split <;> rfl
theorem settleEngine_early (s : State) : s.settleEngine.early = s.early := by
  simp only [State.settleEngine, testStopped_early]; split <;> rfl
theorem settleEngine_holding (s : State) : s.settleEngine.writer.holding = s.writer.holding := by
  simp only [State.settleEngine, testStopped_holding]; split <;> rfl
theorem settleEngine_keepsSummary (s : State) (i : Nat) (h : s.summary.getLsbD i = true) :
    s.settleEngine.summary.getLsbD i = true := by
  simp only [State.settleEngine]
  refine testStopped_keepsSummary _ i ?_
  split <;> exact h

/-! ## Lane faults -/

theorem announceFault_lane (s : State) (l : Lane) (c : FaultCause) (m : Lane) :
    (s.announceFault l c).lane m = s.lane m := giveRaise_lane _ _ _ _
theorem announceFault_early (s : State) (l : Lane) (c : FaultCause) : (s.announceFault l c).early = s.early :=
  giveRaise_early _ _ _
theorem announceFault_engine (s : State) (l : Lane) (c : FaultCause) : (s.announceFault l c).engine = s.engine :=
  giveRaise_engine _ _ _
theorem announceFault_set (s : State) (l : Lane) (c : FaultCause) : (s.announceFault l c).summary.getLsbD 2 = true :=
  giveRaise_set s .laneFault _
theorem announceFault_keepsSummary (s : State) (l : Lane) (c : FaultCause) (i : Nat)
    (h : s.summary.getLsbD i = true) : (s.announceFault l c).summary.getLsbD i = true := giveRaise_keepsSummary _ _ _ i h

theorem closeFaulted_lane_self (s : State) (l : Lane) (w : CloseReason) :
    ((s.closeFaulted l w).lane l).closedFrom (s.lane l) := by
  simp only [State.closeFaulted]; split
  · rw [announceFault_lane]; exact closeStack_lane_self s l w
  · exact closeStack_lane_self s l w
theorem closeFaulted_early (s : State) (l : Lane) (w : CloseReason) : (s.closeFaulted l w).early = s.early := by
  simp only [State.closeFaulted]; split
  · rw [announceFault_early, closeStack_early]
  · exact closeStack_early s l w
theorem closeFaulted_engine (s : State) (l : Lane) (w : CloseReason) : (s.closeFaulted l w).engine = s.engine := by
  simp only [State.closeFaulted]; split
  · rw [announceFault_engine, closeStack_engine]
  · exact closeStack_engine s l w
theorem closeFaulted_keepsSummary (s : State) (l : Lane) (w : CloseReason) (i : Nat) (h : s.summary.getLsbD i = true) :
    (s.closeFaulted l w).summary.getLsbD i = true := by
  simp only [State.closeFaulted]; split
  · exact announceFault_keepsSummary _ _ _ i (closeStack_keepsSummary s l w i h)
  · exact closeStack_keepsSummary s l w i h

theorem runOutComplete_lane_self (s : State) (l : Lane) : ((s.runOutComplete l).lane l).closedFrom (s.lane l) := by
  simp only [State.runOutComplete, testStopped_lane]; exact closeFaulted_lane_self s l _
theorem runOutComplete_early (s : State) (l : Lane) : (s.runOutComplete l).early = s.early := by
  simp only [State.runOutComplete, testStopped_early, closeFaulted_early]
theorem runOutComplete_keepsSummary (s : State) (l : Lane) (i : Nat) (h : s.summary.getLsbD i = true) :
    (s.runOutComplete l).summary.getLsbD i = true :=
  testStopped_keepsSummary _ i (closeFaulted_keepsSummary s l _ i h)

/-- The state in which a fault of a lane that is not FAULTED leaves it, before run-out and the engine's tests. -/
def State.faultedAt (s : State) (l : Lane) (c : FaultCause) : State :=
  (((s.setLane l ((s.lane l).faultedBy c)).announceFault l c).rewind l).discardEarly l

theorem faultedAt_lane_self (s : State) (l : Lane) (c : FaultCause) :
    (s.faultedAt l c).lane l = ((s.lane l).faultedBy c).rewound := by
  simp [State.faultedAt, announceFault_lane]
theorem faultedAt_early (s : State) (l : Lane) (c : FaultCause) :
    (s.faultedAt l c).early = s.early.filter (fun e => e.lane != l) := by
  simp [State.faultedAt, discardEarly_early, rewind_early, announceFault_early]
theorem faultedAt_summary (s : State) (l : Lane) (c : FaultCause) : (s.faultedAt l c).summary.getLsbD 2 = true :=
  discardEarly_keepsSummary _ l 2 (rewind_keepsSummary _ l 2 (announceFault_set _ l c))

/-- A lane fault, as a composition. -/
theorem laneFault_eq (s : State) (l : Lane) (c : FaultCause) (hb : (s.lane l).service ≠ .bypassed)
    (hf : (s.lane l).service.isFaulted = false) : s.laneFault l c =
      (if ((s.faultedAt l c).lane l).queue.isEmpty = true then (s.faultedAt l c).runOutComplete l
        else s.faultedAt l c).settleEngine := by
  unfold State.laneFault
  cases h : (s.lane l).service with
  | bypassed => exact absurd h hb
  | faulted k => rw [h] at hf; exact absurd hf (by simp [Service.isFaulted])
  | off => rfl
  | active => rfl
  | draining => rfl

/-- What a fault leaves of its lane (07 R120). -/
theorem laneFault_lane_self (s : State) (l : Lane) (c : FaultCause) (hb : (s.lane l).service ≠ .bypassed)
    (hf : (s.lane l).service.isFaulted = false) :
    ((s.laneFault l c).lane l).faultedFrom (s.lane l) (s.lane l).queue c ∧
      ((s.laneFault l c).lane l).misses = (s.lane l).misses ∧
      ((s.laneFault l c).lane l).tracker = (s.lane l).tracker := by
  rw [laneFault_eq s l c hb hf, settleEngine_lane]
  have e := faultedAt_lane_self s l c
  have n : (((s.lane l).faultedBy c).rewound).fetch =
      (s.lane l).release + BitVec.ofNat 16 ((s.lane l).queue.countP (·.holdsOrder)) := by
    simp [LaneState.rewound, LaneState.faultedBy, LaneState.orderedCount, List.countP_map, Function.comp_def,
      LabelRecord.flagLaneFault, LabelRecord.holdsOrder]
  have base : (((s.lane l).faultedBy c).rewound).faultedFrom (s.lane l) (s.lane l).queue c :=
    ⟨rfl, rfl, rfl, rfl, rfl, rfl, rfl, n, rfl⟩
  split
  · have k := runOutComplete_lane_self (s.faultedAt l c) l
    rw [e] at k
    rw [show ((s.faultedAt l c).runOutComplete l).lane l = _ from k]
    exact ⟨base, rfl, rfl⟩
  · rw [e]; exact ⟨base, rfl, rfl⟩

theorem laneFault_early (s : State) (l : Lane) (c : FaultCause) (hb : (s.lane l).service ≠ .bypassed)
    (hf : (s.lane l).service.isFaulted = false) :
    (s.laneFault l c).early = s.early.filter (fun e => e.lane != l) := by
  rw [laneFault_eq s l c hb hf, settleEngine_early]
  split
  · rw [runOutComplete_early, faultedAt_early]
  · rw [faultedAt_early]
theorem laneFault_summary (s : State) (l : Lane) (c : FaultCause) (hb : (s.lane l).service ≠ .bypassed)
    (hf : (s.lane l).service.isFaulted = false) : (s.laneFault l c).summary.getLsbD 2 = true := by
  rw [laneFault_eq s l c hb hf]
  refine settleEngine_keepsSummary _ 2 ?_
  split
  · exact runOutComplete_keepsSummary _ l 2 (faultedAt_summary s l c)
  · exact faultedAt_summary s l c
theorem laneFault_keepsSummary (s : State) (l : Lane) (c : FaultCause) (i : Nat) (h : s.summary.getLsbD i = true)
    (hb : (s.lane l).service ≠ .bypassed) (hf : (s.lane l).service.isFaulted = false) :
    (s.laneFault l c).summary.getLsbD i = true := by
  rw [laneFault_eq s l c hb hf]
  have k : (s.faultedAt l c).summary.getLsbD i = true :=
    discardEarly_keepsSummary _ l i (rewind_keepsSummary _ l i (announceFault_keepsSummary _ l c i h))
  refine settleEngine_keepsSummary _ i ?_
  split
  · exact runOutComplete_keepsSummary _ l i k
  · exact k

/-- A FAULTED lane asserts STOPREQ. -/
theorem stopReq_of_faulted (s : State) (l : Lane) (h : (s.lane l).service.isFaulted = true) : s.stopReq = true := by
  simp only [State.stopReq, Bool.or_eq_true]
  right
  rw [List.any_eq_true]
  exact ⟨l, by cases l <;> simp [Lane.inOrder], h⟩

/-! ## Drain completion, with room in the holding list -/

/-- The lane, the early table and the engine after a drain completion that finds room (07 R116). -/
theorem drainComplete_room (s : State) (l : Lane) (r : s.writer.holding.length < 4) :
    ((s.drainComplete l).lane l).closedFrom ({ s.lane l with service := .off } : LaneState).rewound ∧
      (s.drainComplete l).early = s.early.filter (fun e => e.lane != l) ∧
      (s.drainComplete l).engine = { s.engine with
        state := if s.engine.state = .draining ∧ (s.drainComplete l).runOutDone = true then .stopped
          else s.engine.state } := by
  have hh : (((s.setService l .off).discardEarly l).rewind l).writer.holding.length < 4 := by
    rw [rewind_holding, discardEarly_holding]; exact r
  have e : s.drainComplete l =
      ((((s.setService l .off).discardEarly l).rewind l).closeStack l .drain).testStopped := by
    rw [State.drainComplete, closeAndFault_room _ _ _ hh]
  have rd : (s.drainComplete l).runOutDone =
      ((((s.setService l .off).discardEarly l).rewind l).closeStack l .drain).runOutDone := by
    rw [e]; simp only [State.runOutDone, testStopped_lane]
  refine ⟨?_, ?_, ?_⟩
  · rw [e, testStopped_lane]
    have k := closeStack_lane_self (((s.setService l .off).discardEarly l).rewind l) l .drain
    simpa [State.setService] using k
  · rw [e, testStopped_early, closeStack_early, rewind_early, discardEarly_early]; rfl
  · rw [rd, e, testStopped_engine, closeStack_engine, rewind_engine, discardEarly_engine]; rfl

/-- The engine's tests after a fault: `a` that no other lane is ACTIVE, `d` that the lanes have run out. -/
theorem engineAfterFault_of_settled (t s : State) (l : Lane) (a d : Bool)
    (ha : a = true ↔ ∀ m, m ≠ l → (s.lane m).service ≠ .active)
    (hd : d = true ↔ s.othersDone l ∧ (t.lane l).queue = [])
    (he : t.engine = { s.engine with state := match s.engine.state with
      | .running => if a then (if d then .stopped else .draining) else .running
      | .draining => if d then .stopped else .draining
      | x => x }) : t.engineAfterFault s l := by
  refine ⟨by rw [he], fun h => ?_, fun h => ?_, fun h hm => ?_, fun h => ⟨fun k => ?_, fun k => ?_⟩⟩
  · rw [he, h]
  · rw [he, h]
  · obtain ⟨m, hm, hs⟩ := hm
    have : a = false := by
      cases a
      · rfl
      · exact absurd hs (ha.mp rfl m hm)
    rw [he, h, this]; rfl
  · rw [he, hd.mpr k]
    rcases h with h | ⟨h, n⟩
    · rw [h]; rfl
    · rw [h, ha.mpr n]; rfl
  · have : d = false := by
      cases d
      · rfl
      · exact absurd (hd.mp rfl) k
    rw [he, this]
    rcases h with h | ⟨h, n⟩
    · rw [h]; rfl
    · rw [h, ha.mpr n]; rfl

/-- A lane that has run out, among others that stand as before. -/
theorem runOutDone_faulted (u s : State) (l : Lane) (hm : ∀ m, m ≠ l → u.lane m = s.lane m)
    (hf : (u.lane l).service.isFaulted = true) :
    u.runOutDone = true ↔ s.othersDone l ∧ (u.lane l).queue = [] := by
  rw [runOutDone_iff]
  constructor
  · intro h
    exact ⟨fun m k => by rw [← hm m k]; exact h m, (h l).2.2 hf⟩
  · rintro ⟨h, k⟩ m
    by_cases e : m = l
    · subst e
      refine ⟨fun q => ?_, fun q => ?_, fun _ => k⟩ <;> (rw [q] at hf; exact absurd hf (by decide))
    · rw [hm m e]; exact h m e

/-- The engine after a lane fault (07 R116, R120). -/
theorem laneFault_engine (s : State) (l : Lane) (c : FaultCause) (hb : (s.lane l).service ≠ .bypassed)
    (hf : (s.lane l).service.isFaulted = false) : (s.laneFault l c).engineAfterFault s l := by
  obtain ⟨d, hd⟩ : ∃ d, d = s.faultedAt l c := ⟨_, rfl⟩
  obtain ⟨e, he⟩ : ∃ e, e = (if (d.lane l).queue.isEmpty = true then d.runOutComplete l else d) := ⟨_, rfl⟩
  have eq := laneFault_eq s l c hb hf
  rw [← hd, ← he] at eq
  have dl : d.lane l = ((s.lane l).faultedBy c).rewound := by rw [hd]; exact faultedAt_lane_self s l c
  have dm : ∀ m, m ≠ l → d.lane m = s.lane m := by
    intro m hm
    rw [hd, State.faultedAt, discardEarly_lane, rewind_lanesBut _ l m hm, announceFault_lane, lane_setLane_other _ _ hm]
  have de : d.engine = s.engine := by
    rw [hd, State.faultedAt, discardEarly_engine, rewind_engine, announceFault_engine]; rfl
  have el : (e.lane l).service = .faulted c ∧ (e.lane l).queue = (d.lane l).queue := by
    rw [he]; split
    · have h := runOutComplete_lane_self d l
      unfold LaneState.closedFrom at h
      constructor <;> rw [h, dl] <;> rfl
    · rw [dl]; exact ⟨rfl, rfl⟩
  have em : ∀ m, m ≠ l → e.lane m = s.lane m := by
    intro m hm
    rw [he]; split
    · rw [runOutComplete_lanesBut d l m hm, dm m hm]
    · exact dm m hm
  have ef : (e.lane l).service.isFaulted = true := by rw [el.1]; rfl
  have rd : ∀ v : State, (∀ m, v.lane m = e.lane m) →
      (v.runOutDone = true ↔ s.othersDone l ∧ (e.lane l).queue = []) := by
    intro v hv
    rw [runOutDone_faulted v s l (fun m hm => by rw [hv, em m hm]) (by rw [hv]; exact ef), hv]
  have rb : ∀ v : State, (∀ m, v.lane m = e.lane m) → v.runOutDone = e.runOutDone := by
    intro v hv; rw [Bool.eq_iff_iff, rd v hv, rd e (fun _ => rfl)]
  have ee : e.engine = { s.engine with
      state := if s.engine.state = .draining ∧ e.runOutDone = true then .stopped else s.engine.state } := by
    by_cases hq : (d.lane l).queue.isEmpty = true
    · rw [if_pos hq] at he
      have h1 : (d.closeFaulted l .laneFault).engine = s.engine := by rw [closeFaulted_engine, de]
      have h2 := rb (d.closeFaulted l .laneFault) (by
        intro m; rw [he, State.runOutComplete, testStopped_lane])
      have h3 : e.engine = (d.closeFaulted l .laneFault).testStopped.engine := by rw [he]; rfl
      rw [h3, testStopped_engine, h1, h2]
    · rw [if_neg hq] at he
      have h1 : (d.lane l).queue ≠ [] := by simpa using hq
      have h2 : ¬ e.runOutDone = true := by
        rw [rd e (fun _ => rfl), el.2]; exact fun h => h1 h.2
      rw [if_neg (fun h => h2 h.2), he, de]
  have na : e.noLaneActive = true ↔ ∀ m, m ≠ l → (s.lane m).service ≠ .active := by
    rw [noLaneActive_iff]
    constructor
    · intro h m hm; rw [← em m hm]; exact h m
    · intro h m
      by_cases hm : m = l
      · rw [hm, el.1]; simp
      · rw [em m hm]; exact h m hm
  have ql : ((s.laneFault l c).lane l).queue = (e.lane l).queue := by rw [eq, settleEngine_lane]
  refine engineAfterFault_of_settled _ s l e.noLaneActive e.runOutDone na ?_ ?_
  · rw [ql]; exact rd e (fun _ => rfl)
  have st : e.engine.state = (if s.engine.state = .draining ∧ e.runOutDone = true then .stopped
      else s.engine.state) := by rw [ee]
  rw [eq, State.settleEngine, testStopped_engine]
  have rs : ∀ x, (e.setEngine x).runOutDone = e.runOutDone := fun x => rb _ (fun _ => rfl)
  cases hs : s.engine.state with
  | running =>
    have st' : e.engine.state = .running := by rw [st]; simp [hs]
    by_cases h : e.noLaneActive = true
    · rw [if_pos ⟨st', h⟩, rs]
      simp only [State.setEngine, ee, h, if_true, true_and]
    · rw [if_neg (fun q => h q.2), ee]
      simp [hs, h]
  | draining =>
    have c1 : ¬ (e.engine.state = .running ∧ e.noLaneActive = true) := by
      rw [st]; simp only [hs]; rintro ⟨q, _⟩; split at q <;> exact absurd q (by decide)
    rw [if_neg c1, ee]
    by_cases k : e.runOutDone = true <;> simp [hs, k]
  | stopped =>
    have c1 : ¬ (e.engine.state = .running ∧ e.noLaneActive = true) := by rw [st]; simp [hs]
    rw [if_neg c1, ee]; simp [hs]
  | halted =>
    have c1 : ¬ (e.engine.state = .running ∧ e.noLaneActive = true) := by rw [st]; simp [hs]
    rw [if_neg c1, ee]; simp [hs]

end Sys2Proof.Machine
end

