-- ==== Sys2Proof/Laws/Regions.lean ====
section
/-! SUPPORT. The region map as the statements say it: which addresses a mapped region holds, the lock test, and the
windows that meet a region; and the places of control words. -/

namespace Sys2Proof.Machine

/-- Base and length of a region. -/
def RegionMap.extent (m : RegionMap) : MapEntryName → Nat × Nat
  | .orderRing l => ((m.orderRing.get l).base.toNat, 4 * 2 ^ (m.orderRing.get l).size.toNat)
  | .stackRing => (m.stackRing.base.toNat, 32 * 2 ^ m.stackRing.size.toNat)
  | .eventRing => (m.eventRing.base.toNat, 4 * 2 ^ m.eventRing.size.toNat)
  | .verdictCells => (m.verdictCells.toNat, 16)

/-- A mapped region holds the addresses of its extent. -/
theorem RegionMap.holds_iff (m : RegionMap) (e : MapEntryName) (a : Nat) : m.holds e a ↔
    (RegionMap.extent m e).1 ≠ 0 ∧ (RegionMap.extent m e).1 ≤ a ∧
    a < (RegionMap.extent m e).1 + (RegionMap.extent m e).2 := by
  cases e <;> rfl

/-- No region is empty. -/
theorem RegionMap.extent_pos (m e) : 0 < (RegionMap.extent m e).2 := by
  cases e <;> simp [RegionMap.extent]

/-- The names of the map entries, in the order of the mapped ranges. -/
def mapEntryNames : List MapEntryName := [.orderRing .l0, .orderRing .l1, .orderRing .l2, .orderRing .l3, .stackRing,
    .eventRing, .verdictCells]

/-- Mapped is base not 0, as a number. -/
theorem mapped_eq_toNat (x : MapEntry) : x.mapped = (x.base.toNat != 0) := by
  simp only [MapEntry.mapped]
  by_cases h : x.base = 0
  · simp [h]
  · have : x.base.toNat ≠ 0 := fun hh => h (BitVec.eq_of_toNat_eq (by simpa using hh))
    rw [bne_iff_ne.mpr h, bne_iff_ne.mpr this]

/-- An address other than 0, as a number. -/
theorem bne_zero_toNat (x : Address) : (x != 0) = (x.toNat != 0) := by
  by_cases h : x = 0
  · simp [h]
  · have : x.toNat ≠ 0 := fun hh => h (BitVec.eq_of_toNat_eq (by simpa using hh))
    rw [bne_iff_ne.mpr h, bne_iff_ne.mpr this]

/-- The mapped ranges are the extents of the mapped regions. -/
theorem mappedRanges_eq (m : RegionMap) :
    m.mappedRanges = (mapEntryNames.filter (fun e => (RegionMap.extent m e).1 != 0)).map (RegionMap.extent m) := by
  simp only [RegionMap.mappedRanges, Lane.inOrder, mapEntryNames, mapped_eq_toNat, bne_zero_toNat, List.map_cons,
      List.map_nil, List.cons_append, List.nil_append, List.filter_cons, List.filter_nil, RegionMap.extent,
      Config.slotWords, Config.stackRecordWords, Config.eventRecordWords, Config.verdictCells, MapEntry.slots]
  have hif : ∀ (c : Bool) (x : MapEntry × Nat) (xs), List.map (fun p :
      MapEntry × Nat => (p.1.base.toNat,
      p.2 * 2 ^ p.1.size.toNat)) (if c = true then x :: xs else xs) = (if c = true then [(x.1.base.toNat,
      x.2 * 2 ^ x.1.size.toNat)] else []) ++ List.map (fun p :
      MapEntry × Nat => (p.1.base.toNat, p.2 * 2 ^ p.1.size.toNat)) xs := by
    intro c x xs; cases c <;> rfl
  have hif2 : ∀ (c : Bool) (x : MapEntryName) (xs) (f : MapEntryName →
      Nat × Nat), List.map f (if c = true then x :: xs else xs) = (if c = true then [f x] else []) ++
      List.map f xs := by
    intro c x xs f; cases c <;> rfl
  simp only [hif, hif2, List.map_nil, List.append_nil, List.append_assoc]
  have hv : (if (m.verdictCells.toNat != 0) = true then [(m.verdictCells.toNat,
      16)] else []) = (if (m.verdictCells.toNat != 0) = true then [RegionMap.extent m .verdictCells] else []) := rfl
  by_cases h0 : (m.verdictCells.toNat != 0) = true <;> simp only [h0, if_true, if_false, List.append_nil] <;> rfl

/-- Every entry is among the names. -/
theorem mem_mapEntryNames (e) : e ∈ mapEntryNames := by
  cases e <;> first | decide | (rename_i l; cases l <;> decide)

/-- Two ranges meet where they share an address. -/
theorem rangesMeet_iff (b1 n1 b2 n2 : Nat) : rangesMeet b1 n1 b2 n2 = true ↔ ∃ a, b1 ≤ a ∧ a < b1 + n1 ∧ b2 ≤ a ∧
    a < b2 + n2 := by
  simp only [rangesMeet, Bool.and_eq_true, decide_eq_true_eq]
  constructor
  · intro h; exact ⟨max b1 b2, by omega⟩
  · rintro ⟨a, h⟩; omega

/-- Ranges apart, as a property of every pair. -/
theorem rangesApart_iff : ∀ l : List (Nat × Nat), rangesApart l = true ↔
    l.Pairwise (fun r q => rangesMeet r.1 r.2 q.1 q.2 = false) := by
  intro l
  induction l with
  | nil => simp [rangesApart]
  | cons r l ih => simp [rangesApart, ih]

/-- The lock test (11 R175) by addresses. -/
theorem lockable_iff (m : RegionMap) : m.lockable = true ↔ ((∀ e a, m.holds e a → a ≤ 4193791) ∧
      ∀ e f a, e ≠ f → m.holds e a → ¬ m.holds f a) := by
  simp only [RegionMap.lockable, Bool.and_eq_true]
  rw [rangesApart_iff, mappedRanges_eq]
  have h1 : (List.map (RegionMap.extent m) (mapEntryNames.filter fun e => (RegionMap.extent m e).1 != 0)).all (fun r
      => decide (r.1 + r.2 ≤ Config.pageBase)) = true ↔ ∀ e a, m.holds e a → a ≤ 4193791 := by
    have pb : Config.pageBase = 4193792 := rfl
    simp only [List.all_map, List.all_filter, List.all_eq_true, RegionMap.holds_iff]
    constructor
    · intro h e a hh
      have := h e (mem_mapEntryNames e)
      simp only [Bool.or_eq_true, Bool.not_eq_true', bne_eq_false_iff_eq, hh.1, false_or, Function.comp,
          decide_eq_true_eq] at this; omega
    · intro h e _
      have := h e ((RegionMap.extent m e).1 + (RegionMap.extent m e).2 - 1)
      have p := RegionMap.extent_pos m e
      by_cases h0 : (RegionMap.extent m e).1 = 0
      · simp [h0]
      · have := this ⟨h0, by omega, by omega⟩
        simp only [Bool.or_eq_true, Bool.not_eq_true', bne_eq_false_iff_eq, h0, false_or, Function.comp,
            decide_eq_true_eq]; omega
  rw [h1]
  apply and_congr Iff.rfl
  rw [List.pairwise_map, List.pairwise_filter]
  have sym : ∀ e f, rangesMeet (RegionMap.extent m e).1 (RegionMap.extent m e).2 (RegionMap.extent m f).1
      (RegionMap.extent m f).2 = rangesMeet (RegionMap.extent m f).1 (RegionMap.extent m f).2 (RegionMap.extent m
      e).1 (RegionMap.extent m e).2 := by
    intro e f
    rw [Bool.eq_iff_iff, rangesMeet_iff, rangesMeet_iff]
    constructor <;> (rintro ⟨a, h⟩; exact ⟨a, by omega⟩)
  constructor
  · intro h e f a hne he hf
    rw [RegionMap.holds_iff] at he hf
    let R := fun e f : MapEntryName => e ≠ f → (((RegionMap.extent m e).1 != 0) = true →
        ((RegionMap.extent m f).1 != 0) = true →
        rangesMeet (RegionMap.extent m e).1 (RegionMap.extent m e).2 (RegionMap.extent m f).1 (RegionMap.extent m
        f).2 = false)
    haveI : Std.Symm R := ⟨by intro x y hxy hne a b; rw [← sym]; exact hxy (Ne.symm hne) b a⟩
    have hp := List.Pairwise.forall_of_forall (R := R) (l := mapEntryNames)
      (by intro x _ hx; exact absurd rfl hx) (h.imp (by intro x y hxy _ a b; exact hxy a b))
    have := hp (mem_mapEntryNames e) (mem_mapEntryNames f) hne (by simpa using he.1) (by simpa using hf.1)
    have k : rangesMeet (RegionMap.extent m e).1 (RegionMap.extent m e).2 (RegionMap.extent m f).1 (RegionMap.extent
        m f).2 = true := (rangesMeet_iff _ _ _ _).mpr ⟨a, he.2.1, he.2.2, hf.2.1, hf.2.2⟩
    rw [this] at k; exact absurd k (by simp)
  · intro h
    have nd : mapEntryNames.Nodup := by decide
    refine nd.imp ?_
    intro x y hne hx hy
    by_contra hm
    have hm : rangesMeet (RegionMap.extent m x).1 (RegionMap.extent m x).2 (RegionMap.extent m y).1 (RegionMap.extent
        m y).2 = true := by simpa using hm
    obtain ⟨a, h1, h2, h3, h4⟩ := (rangesMeet_iff _ _ _ _).mp hm
    exact h x y a hne ((RegionMap.holds_iff _ _ _).mpr ⟨by simpa using hx, h1,
        h2⟩) ((RegionMap.holds_iff _ _ _).mpr ⟨by simpa using hy, h3, h4⟩)

/-- A window overlaps a mapped region where it meets one (09 R149). -/
theorem overlapsMapped_iff (w : ExemptWindow) (m : RegionMap) : w.overlapsMapped m = true ↔ w.meets m := by
  simp only [ExemptWindow.overlapsMapped, mappedRanges_eq, List.any_map, List.any_filter, List.any_eq_true,
      ExemptWindow.meets, RegionMap.holds_iff]
  constructor
  · rintro ⟨e, _, h⟩
    simp only [Function.comp, Bool.and_eq_true, rangesMeet_iff] at h
    obtain ⟨h0, a, h⟩ := h
    exact ⟨e, a, h.1, h.2.1, by simpa using h0, h.2.2⟩
  · rintro ⟨e, a, h1, h2, h3, h4⟩
    refine ⟨e, mem_mapEntryNames e, ?_⟩
    simp only [Function.comp, Bool.and_eq_true, rangesMeet_iff]
    exact ⟨by simpa using h3, a, h1, h2, h4.1, h4.2⟩

/-! ## Places of control words -/

/-- The word at a window word's offset. -/
theorem controlWord_window (n k) : controlWord (windowOffset n k) = .window n k := by cases n <;> cases k <;> rfl

/-- Window words lie in the control page. -/
theorem windowOffset_lt (n k) : windowOffset n k < 512 := by cases n <;> cases k <;> decide

/-- Setting words lie in the control page. -/
theorem settingOffset_lt (x : Setting) :
    settingOffset x < 512 := by cases x <;> first | decide | (rename_i l; cases l <;> decide)

/-- The word at a setting's offset. -/
theorem controlWord_setting (x : Setting) : controlWord (settingOffset x) = .setting x := by
  cases x <;> first | rfl | (rename_i l; cases l <;> rfl)

/-- The words that the part alone owns. -/
theorem controlWord_partOwned : ∀ off, off < 512 → (off ≤ 1 ∨ off ∈ publishedOffsets) →
    controlWord off = .partOwned := by
  have h : ∀ x : Fin 512, (x.val ≤ 1 ∨ x.val ∈ publishedOffsets) → controlWord x.val = .partOwned := by decide +kernel
  exact fun off ho => h ⟨off, ho⟩

end Sys2Proof.Machine
end

