-- ==== Sys2Proof/Laws/Reports.lean ====
section
/-! SUPPORT. What the reports of check outcomes leave unchanged: everything but error capture, the summary with the
primary record, the event queue with its sequence number, and the scrub queue. -/

namespace Sys2Proof.Machine

/-- `t` is `s` but for what a report of a check outcome may change. -/
def State.reportOnly (s t : State) : Prop :=
  t = { s with
    capture := t.capture
    summary := t.summary
    primary := t.primary
    scrubQueue := t.scrubQueue
    writer := { s.writer with events := t.writer.events, eventSequence := t.writer.eventSequence } }

theorem reportOnly_refl (s : State) : s.reportOnly s := rfl
theorem reportOnly_trans {s t u : State} (h : s.reportOnly t) (k : t.reportOnly u) : s.reportOnly u := by
  unfold State.reportOnly at *
  rw [k]; rw [h]
theorem giveAt_reportOnly (s : State) (p : WebPos) (b : EventBody) : s.reportOnly (s.giveAt p b) := by
  simp only [State.reportOnly, State.giveAt, State.raiseClass]
  split
  · split <;> rfl
  · rfl
theorem raiseClass_reportOnly (s : State) (c : SummaryClass) (l : Option Lane) (n : Option Serial) (a : Option Nat) :
    s.reportOnly (s.raiseClass c l n a) := rfl
theorem giveRaise_reportOnly (s : State) (c : SummaryClass) (b : EventBody) : s.reportOnly (s.giveRaise c b) :=
  reportOnly_trans (giveAt_reportOnly s _ b) (raiseClass_reportOnly _ _ _ _ _)
theorem countCorrection_reportOnly (s : State) : s.reportOnly s.countCorrection := by
  simp only [State.countCorrection]
  split
  · exact reportOnly_trans (rfl : s.reportOnly { s with capture := { s.capture with count := _ } })
      (giveRaise_reportOnly _ _ _)
  · rfl
theorem detectCorrectable_reportOnly (s : State) (c : Source) (a b : Nat) : s.reportOnly (s.detectCorrectable c a b) :=
  reportOnly_trans (countCorrection_reportOnly s) rfl
theorem offerScrub_reportOnly (s : State) (a : Nat) : s.reportOnly (s.offerScrub a) := by
  simp only [State.offerScrub]
  split
  · rfl
  · split
    · rfl
    · split <;> rfl
theorem offerUncorrectable_reportOnly (s : State) (c : Source) (x : Bool) (a : Nat) (d : Detail) :
    s.reportOnly (s.offerUncorrectable c x a d) := rfl
theorem reportUncorrectable_reportOnly (s : State) (a : Nat) (d : Detail) : s.reportOnly (s.reportUncorrectable a d) :=
  giveRaise_reportOnly _ _ _
theorem consumeUncorrectable_reportOnly (s : State) (c : Source) (a : Nat) (d : Detail) :
    s.reportOnly (s.consumeUncorrectable c a d) :=
  reportOnly_trans (offerUncorrectable_reportOnly s c true a d) (reportUncorrectable_reportOnly _ a d)

@[simp] theorem countCorrection_memory (s : State) : s.countCorrection.memory = s.memory := by
  rw [countCorrection_reportOnly s]
@[simp] theorem countCorrection_powerCycle (s : State) : s.countCorrection.powerCycle = s.powerCycle := by
  rw [countCorrection_reportOnly s]
@[simp] theorem countCorrection_lanes (s : State) : s.countCorrection.lanes = s.lanes := by
  rw [countCorrection_reportOnly s]
@[simp] theorem countCorrection_web (s : State) : s.countCorrection.web = s.web := by
  rw [countCorrection_reportOnly s]
@[simp] theorem countCorrection_settings (s : State) : s.countCorrection.settings = s.settings := by
  rw [countCorrection_reportOnly s]
@[simp] theorem countCorrection_regions (s : State) : s.countCorrection.regions = s.regions := by
  rw [countCorrection_reportOnly s]
@[simp] theorem countCorrection_engine (s : State) : s.countCorrection.engine = s.engine := by
  rw [countCorrection_reportOnly s]
@[simp] theorem countCorrection_arbiter (s : State) : s.countCorrection.arbiter = s.arbiter := by
  rw [countCorrection_reportOnly s]
@[simp] theorem countCorrection_mem (s : State) : s.countCorrection.mem = s.mem := by
  rw [countCorrection_reportOnly s]
@[simp] theorem countCorrection_window0 (s : State) : s.countCorrection.window0 = s.window0 := by
  rw [countCorrection_reportOnly s]
@[simp] theorem countCorrection_window1 (s : State) : s.countCorrection.window1 = s.window1 := by
  rw [countCorrection_reportOnly s]

@[simp] theorem detectCorrectable_memory (s : State) (c : Source) (a b : Nat) : (s.detectCorrectable c a b).memory = s.memory := by
  rw [detectCorrectable_reportOnly s c a b]
@[simp] theorem detectCorrectable_powerCycle (s : State) (c : Source) (a b : Nat) : (s.detectCorrectable c a b).powerCycle = s.powerCycle := by
  rw [detectCorrectable_reportOnly s c a b]
@[simp] theorem detectCorrectable_lanes (s : State) (c : Source) (a b : Nat) : (s.detectCorrectable c a b).lanes = s.lanes := by
  rw [detectCorrectable_reportOnly s c a b]
@[simp] theorem detectCorrectable_web (s : State) (c : Source) (a b : Nat) : (s.detectCorrectable c a b).web = s.web := by
  rw [detectCorrectable_reportOnly s c a b]
@[simp] theorem detectCorrectable_settings (s : State) (c : Source) (a b : Nat) : (s.detectCorrectable c a b).settings = s.settings := by
  rw [detectCorrectable_reportOnly s c a b]
@[simp] theorem detectCorrectable_regions (s : State) (c : Source) (a b : Nat) : (s.detectCorrectable c a b).regions = s.regions := by
  rw [detectCorrectable_reportOnly s c a b]
@[simp] theorem detectCorrectable_engine (s : State) (c : Source) (a b : Nat) : (s.detectCorrectable c a b).engine = s.engine := by
  rw [detectCorrectable_reportOnly s c a b]
@[simp] theorem detectCorrectable_arbiter (s : State) (c : Source) (a b : Nat) : (s.detectCorrectable c a b).arbiter = s.arbiter := by
  rw [detectCorrectable_reportOnly s c a b]
@[simp] theorem detectCorrectable_mem (s : State) (c : Source) (a b : Nat) : (s.detectCorrectable c a b).mem = s.mem := by
  rw [detectCorrectable_reportOnly s c a b]
@[simp] theorem detectCorrectable_window0 (s : State) (c : Source) (a b : Nat) : (s.detectCorrectable c a b).window0 = s.window0 := by
  rw [detectCorrectable_reportOnly s c a b]
@[simp] theorem detectCorrectable_window1 (s : State) (c : Source) (a b : Nat) : (s.detectCorrectable c a b).window1 = s.window1 := by
  rw [detectCorrectable_reportOnly s c a b]

@[simp] theorem offerScrub_memory (s : State) (a : Nat) : (s.offerScrub a).memory = s.memory := by
  rw [offerScrub_reportOnly s a]
@[simp] theorem offerScrub_powerCycle (s : State) (a : Nat) : (s.offerScrub a).powerCycle = s.powerCycle := by
  rw [offerScrub_reportOnly s a]
@[simp] theorem offerScrub_lanes (s : State) (a : Nat) : (s.offerScrub a).lanes = s.lanes := by
  rw [offerScrub_reportOnly s a]
@[simp] theorem offerScrub_web (s : State) (a : Nat) : (s.offerScrub a).web = s.web := by
  rw [offerScrub_reportOnly s a]
@[simp] theorem offerScrub_settings (s : State) (a : Nat) : (s.offerScrub a).settings = s.settings := by
  rw [offerScrub_reportOnly s a]
@[simp] theorem offerScrub_regions (s : State) (a : Nat) : (s.offerScrub a).regions = s.regions := by
  rw [offerScrub_reportOnly s a]
@[simp] theorem offerScrub_engine (s : State) (a : Nat) : (s.offerScrub a).engine = s.engine := by
  rw [offerScrub_reportOnly s a]
@[simp] theorem offerScrub_arbiter (s : State) (a : Nat) : (s.offerScrub a).arbiter = s.arbiter := by
  rw [offerScrub_reportOnly s a]
@[simp] theorem offerScrub_mem (s : State) (a : Nat) : (s.offerScrub a).mem = s.mem := by
  rw [offerScrub_reportOnly s a]
@[simp] theorem offerScrub_window0 (s : State) (a : Nat) : (s.offerScrub a).window0 = s.window0 := by
  rw [offerScrub_reportOnly s a]
@[simp] theorem offerScrub_window1 (s : State) (a : Nat) : (s.offerScrub a).window1 = s.window1 := by
  rw [offerScrub_reportOnly s a]

@[simp] theorem offerUncorrectable_memory (s : State) (c : Source) (x : Bool) (a : Nat) (d : Detail) : (s.offerUncorrectable c x a d).memory = s.memory := by
  rw [offerUncorrectable_reportOnly s c x a d]
@[simp] theorem offerUncorrectable_powerCycle (s : State) (c : Source) (x : Bool) (a : Nat) (d : Detail) : (s.offerUncorrectable c x a d).powerCycle = s.powerCycle := by
  rw [offerUncorrectable_reportOnly s c x a d]
@[simp] theorem offerUncorrectable_lanes (s : State) (c : Source) (x : Bool) (a : Nat) (d : Detail) : (s.offerUncorrectable c x a d).lanes = s.lanes := by
  rw [offerUncorrectable_reportOnly s c x a d]
@[simp] theorem offerUncorrectable_web (s : State) (c : Source) (x : Bool) (a : Nat) (d : Detail) : (s.offerUncorrectable c x a d).web = s.web := by
  rw [offerUncorrectable_reportOnly s c x a d]
@[simp] theorem offerUncorrectable_settings (s : State) (c : Source) (x : Bool) (a : Nat) (d : Detail) : (s.offerUncorrectable c x a d).settings = s.settings := by
  rw [offerUncorrectable_reportOnly s c x a d]
@[simp] theorem offerUncorrectable_regions (s : State) (c : Source) (x : Bool) (a : Nat) (d : Detail) : (s.offerUncorrectable c x a d).regions = s.regions := by
  rw [offerUncorrectable_reportOnly s c x a d]
@[simp] theorem offerUncorrectable_engine (s : State) (c : Source) (x : Bool) (a : Nat) (d : Detail) : (s.offerUncorrectable c x a d).engine = s.engine := by
  rw [offerUncorrectable_reportOnly s c x a d]
@[simp] theorem offerUncorrectable_arbiter (s : State) (c : Source) (x : Bool) (a : Nat) (d : Detail) : (s.offerUncorrectable c x a d).arbiter = s.arbiter := by
  rw [offerUncorrectable_reportOnly s c x a d]
@[simp] theorem offerUncorrectable_mem (s : State) (c : Source) (x : Bool) (a : Nat) (d : Detail) : (s.offerUncorrectable c x a d).mem = s.mem := by
  rw [offerUncorrectable_reportOnly s c x a d]
@[simp] theorem offerUncorrectable_window0 (s : State) (c : Source) (x : Bool) (a : Nat) (d : Detail) : (s.offerUncorrectable c x a d).window0 = s.window0 := by
  rw [offerUncorrectable_reportOnly s c x a d]
@[simp] theorem offerUncorrectable_window1 (s : State) (c : Source) (x : Bool) (a : Nat) (d : Detail) : (s.offerUncorrectable c x a d).window1 = s.window1 := by
  rw [offerUncorrectable_reportOnly s c x a d]

@[simp] theorem reportUncorrectable_memory (s : State) (a : Nat) (d : Detail) : (s.reportUncorrectable a d).memory = s.memory := by
  rw [reportUncorrectable_reportOnly s a d]
@[simp] theorem reportUncorrectable_powerCycle (s : State) (a : Nat) (d : Detail) : (s.reportUncorrectable a d).powerCycle = s.powerCycle := by
  rw [reportUncorrectable_reportOnly s a d]
@[simp] theorem reportUncorrectable_lanes (s : State) (a : Nat) (d : Detail) : (s.reportUncorrectable a d).lanes = s.lanes := by
  rw [reportUncorrectable_reportOnly s a d]
@[simp] theorem reportUncorrectable_web (s : State) (a : Nat) (d : Detail) : (s.reportUncorrectable a d).web = s.web := by
  rw [reportUncorrectable_reportOnly s a d]
@[simp] theorem reportUncorrectable_settings (s : State) (a : Nat) (d : Detail) : (s.reportUncorrectable a d).settings = s.settings := by
  rw [reportUncorrectable_reportOnly s a d]
@[simp] theorem reportUncorrectable_regions (s : State) (a : Nat) (d : Detail) : (s.reportUncorrectable a d).regions = s.regions := by
  rw [reportUncorrectable_reportOnly s a d]
@[simp] theorem reportUncorrectable_engine (s : State) (a : Nat) (d : Detail) : (s.reportUncorrectable a d).engine = s.engine := by
  rw [reportUncorrectable_reportOnly s a d]
@[simp] theorem reportUncorrectable_arbiter (s : State) (a : Nat) (d : Detail) : (s.reportUncorrectable a d).arbiter = s.arbiter := by
  rw [reportUncorrectable_reportOnly s a d]
@[simp] theorem reportUncorrectable_mem (s : State) (a : Nat) (d : Detail) : (s.reportUncorrectable a d).mem = s.mem := by
  rw [reportUncorrectable_reportOnly s a d]
@[simp] theorem reportUncorrectable_window0 (s : State) (a : Nat) (d : Detail) : (s.reportUncorrectable a d).window0 = s.window0 := by
  rw [reportUncorrectable_reportOnly s a d]
@[simp] theorem reportUncorrectable_window1 (s : State) (a : Nat) (d : Detail) : (s.reportUncorrectable a d).window1 = s.window1 := by
  rw [reportUncorrectable_reportOnly s a d]

@[simp] theorem consumeUncorrectable_memory (s : State) (c : Source) (a : Nat) (d : Detail) : (s.consumeUncorrectable c a d).memory = s.memory := by
  rw [consumeUncorrectable_reportOnly s c a d]
@[simp] theorem consumeUncorrectable_powerCycle (s : State) (c : Source) (a : Nat) (d : Detail) : (s.consumeUncorrectable c a d).powerCycle = s.powerCycle := by
  rw [consumeUncorrectable_reportOnly s c a d]
@[simp] theorem consumeUncorrectable_lanes (s : State) (c : Source) (a : Nat) (d : Detail) : (s.consumeUncorrectable c a d).lanes = s.lanes := by
  rw [consumeUncorrectable_reportOnly s c a d]
@[simp] theorem consumeUncorrectable_web (s : State) (c : Source) (a : Nat) (d : Detail) : (s.consumeUncorrectable c a d).web = s.web := by
  rw [consumeUncorrectable_reportOnly s c a d]
@[simp] theorem consumeUncorrectable_settings (s : State) (c : Source) (a : Nat) (d : Detail) : (s.consumeUncorrectable c a d).settings = s.settings := by
  rw [consumeUncorrectable_reportOnly s c a d]
@[simp] theorem consumeUncorrectable_regions (s : State) (c : Source) (a : Nat) (d : Detail) : (s.consumeUncorrectable c a d).regions = s.regions := by
  rw [consumeUncorrectable_reportOnly s c a d]
@[simp] theorem consumeUncorrectable_engine (s : State) (c : Source) (a : Nat) (d : Detail) : (s.consumeUncorrectable c a d).engine = s.engine := by
  rw [consumeUncorrectable_reportOnly s c a d]
@[simp] theorem consumeUncorrectable_arbiter (s : State) (c : Source) (a : Nat) (d : Detail) : (s.consumeUncorrectable c a d).arbiter = s.arbiter := by
  rw [consumeUncorrectable_reportOnly s c a d]
@[simp] theorem consumeUncorrectable_mem (s : State) (c : Source) (a : Nat) (d : Detail) : (s.consumeUncorrectable c a d).mem = s.mem := by
  rw [consumeUncorrectable_reportOnly s c a d]
@[simp] theorem consumeUncorrectable_window0 (s : State) (c : Source) (a : Nat) (d : Detail) : (s.consumeUncorrectable c a d).window0 = s.window0 := by
  rw [consumeUncorrectable_reportOnly s c a d]
@[simp] theorem consumeUncorrectable_window1 (s : State) (c : Source) (a : Nat) (d : Detail) : (s.consumeUncorrectable c a d).window1 = s.window1 := by
  rw [consumeUncorrectable_reportOnly s c a d]

end Sys2Proof.Machine
end

