-- ==== Sys2Proof/Laws/Commands.lean ====
section
/-! SUPPORT. Writes of control words, verdict words and command cells, from the cycle to what the block does with the
word. -/

namespace Sys2Proof.Machine

/-! ## Writes of control words -/

/-- A write of a control word, given what the word's block does. -/
theorem pageWrite_answers (s : State) (h : s.hostNext) (off : Nat) (ho : off < 512) (d) (u : State) (hu :
    s.writeControl off d = u) :
  ∃ t, Host.Outcome.next (s.pageWrite off d) = (.next t : Host.Outcome State Fault Refusal) ∧
      t = u.bookkeptAs t := ⟨_, rfl, pageWrite_eq h ho hu⟩

/-- A refused write of a control word stores nothing. -/
theorem pageWrite_refused (s : State) (h : s.hostNext) (off : Nat) (ho : off < 512) (d) (b : EventBody) (hu :
    s.writeControl off d = s.refuseProtected b) :
  ∃ t, Host.Outcome.next (s.pageWrite off d) = (.next t : Host.Outcome State Fault Refusal) ∧ s.sameMemory t ∧
      t = ((s.giveRaise .protection b).endHost false none).bookkeptAs t := by
  have e : s.pageWrite off d = ((s.giveRaise .protection b).endHost false none).bookkeptAs (s.pageWrite off d) :=
      pageWrite_eq h ho hu
  refine ⟨_, rfl, ?_, e⟩
  rw [e]
  exact sameMemory_of_eq (by simp [State.bookkeptAs, State.endHost, State.giveRaise,
      State.give]) (by simp [State.bookkeptAs, State.endHost, State.giveRaise, State.give])

/-- A setting write whose value is taken. -/
theorem settingWrite_taken (s : State) (h : s.hostNext) (x : Setting) (d w : Word) (c : Settings) (hg :
    isGeometry x = true → s.engine.state = .stopped)
   (ht : s.settings.take x d = some (c, w)) (hx : x ≠ .checkMode) :
  ∃ t, exec (.settingWrite x d) s = .next t ∧
      t = ((({ s with settings := c } : State).storeWord (4193792 + settingOffset x) w).endHost true none).bookkeptAs
          t := by
  refine pageWrite_answers s h _ (settingOffset_lt x) d _ ?_
  simp only [State.writeControl, controlWord_setting, State.writeSetting, ht]
  have : (isGeometry x && s.engine.state != .stopped) = false := by
    cases hh : isGeometry x
    · rfl
    · simp [hg hh]
  simp only [this, State.settleScrub, hx, false_and, if_false]; rfl

/-- The clamp of 11 R172 as a maximum of a minimum. -/
theorem clampNat_eq (lo hi : Nat) (v : Half) (h : lo ≤ hi) :
    clampNat lo hi v.toNat = max lo (min hi (v.setWidth 32).toNat) := by
  have : (v.setWidth 32).toNat = v.toNat := by simp; omega
  rw [this]; unfold clampNat; split <;> [skip; split] <;> omega

/-- The merged word by its bytes (08 R135). -/
theorem mergeBytes_eq (d base w : Word) (be : BitVec 4) (h : ∀ i : Nat, i < 4 → w.extractLsb' (8 * i) 8 =
      if be.getLsbD i then d.extractLsb' (8 * i) 8 else base.extractLsb' (8 * i) 8) : mergeBytes base d be = w := by
  have h0 := h 0 (by omega); have h1 := h 1 (by omega); have h2 := h 2 (by omega); have h3 := h 3 (by omega)
  simp only [mergeBytes, mergeLane, ← h0, ← h1, ← h2, ← h3]
  simp only [Nat.mul_zero, Nat.mul_one, Nat.reduceMul]
  have : ∀ w : BitVec 32, BitVec.extractLsb' 24 8 w ++ BitVec.extractLsb' 16 8 w ++ BitVec.extractLsb' 8 8 w ++
      BitVec.extractLsb' 0 8 w = w := by
    intro w
    apply BitVec.eq_of_getLsbD_eq
    intro i hi
    simp only [BitVec.getLsbD_append, BitVec.getLsbD_extractLsb']
    by_cases h1 : i < 8
    · simp [h1]
    by_cases h2 : i < 16
    · have : i - 8 < 8 := by omega
      simp [h1, this]; congr 1; omega
    by_cases h3 : i < 24
    · have : i - 8 - 8 < 8 := by omega
      have h5 : ¬ i - 8 < 8 := by omega
      simp only [h1, h5, if_false]; simp [show i - 8 - 8 < 8 by omega]; congr 1; omega
    · have : i - 8 - 8 - 8< 8 := by omega
      have h5 : ¬ i - 8 < 8 := by omega
      have h6 : ¬ i - 8 - 8 < 8 := by omega
      simp only [h1, h5, h6, if_false]; simp [show i - 8 - 8 - 8 < 8 by omega]; congr 1; omega
  exact this w

/-! ## Verdict words (04) -/

/-- The outcome field holds the outcome's code, and the other 28 bits stand (04 R61). -/
theorem withOutcome_spec (d : Word) (o : VerdictOutcome) :
    (withOutcome d o).extractLsb' 28 4 = BitVec.ofNat 4 o.code ∧
    (withOutcome d o).extractLsb' 0 28 = d.extractLsb' 0 28 := by
  constructor
  · apply BitVec.eq_of_getLsbD_eq; intro i hi
    simp only [withOutcome, BitVec.getLsbD_extractLsb', BitVec.getLsbD_append]
    have : ¬ 28 + i < 28 := by omega
    simp [hi, this]
  · apply BitVec.eq_of_getLsbD_eq; intro i hi
    simp only [withOutcome, BitVec.getLsbD_extractLsb', BitVec.getLsbD_append]
    simp [hi]

/-- A verdict's cycle, given its outcome and what that does. -/
theorem verdict_answers (a : Address) (d : Word) (s : State) (h : s.hostNext) (hc : s.addressClass a.toNat = .verdict)
   (o : VerdictOutcome) (u : State) (ho : s.verdictOutcome d = o) (hu : s.applyVerdict d o = u) :
   ∃ (t : State) (w : Word), exec (.verdict a d) s = .next t ∧
        w.extractLsb' 28 4 = BitVec.ofNat 4 o.code ∧ w.extractLsb' 0 28 = d.extractLsb' 0 28 ∧
        t = ((u.storeWord a.toNat w).endHost true none).bookkeptAs t := by
  refine ⟨_, _, rfl, (withOutcome_spec d o).1, (withOutcome_spec d o).2, hostCycle_eq h ?_⟩
  simp only [State.hostWork, State.hostWrite, hc, State.takeVerdict, ho, hu]; rfl

/-- Code 0 is no verdict. -/
theorem verdictCode_none (d : Word) : verdictCode d = .none ↔ verdictCodeField d = 0 := by
  unfold verdictCode
  generalize verdictCodeField d = c
  revert c; decide

/-- A verdict's code is its field. -/
theorem verdictCode_toNat (d : Word) : (verdictCode d).code = (verdictCodeField d).toNat := by
  unfold verdictCode
  generalize verdictCodeField d = c
  revert c; decide

/-- A verdict's code as a word. -/
theorem verdictCode_field (d : Word) : BitVec.ofNat 32 (verdictCode d).code = (verdictCodeField d).setWidth 32 := by
  rw [verdictCode_toNat]; apply BitVec.eq_of_toNat_eq; simp

/-- Verdicts are told apart by their codes. -/
theorem Verdict.code_inj (v w : Verdict) (h : v.code = w.code) : v = w := by
  cases v <;> cases w <;> simp_all [Verdict.code]

/-- A record matches by the low 20 bits of its serial (04 R60). -/
theorem isMatch_iff (r : LabelRecord) (v) : r.isMatch v = true ↔ ∃ m, r.serial = some m ∧ low20 m = v := by
  unfold LabelRecord.isMatch
  cases r.serial <;> simp

/-- An early entry is for its lane and serial. -/
theorem isFor_iff (e : EarlyEntry) (l v) : e.isFor l v = true ↔ e.lane = l ∧ e.serial = v := by
  simp [EarlyEntry.isFor]

/-! ## Engine commands (07) -/

/-- The fields of an engine command word. -/
theorem engineWord_fields (code operand : Byte) (c : Half) : cellCode (engineWord code operand c) = code ∧
    cellOperand (engineWord code operand c) = operand ∧
    complementMatches (engineWord code operand c) = (c == matching code operand) := by
  refine ⟨?_, ?_, ?_⟩
  · unfold cellCode engineWord; apply BitVec.eq_of_getLsbD_eq; intro i hi
    simp only [BitVec.getLsbD_extractLsb', BitVec.getLsbD_append, hi, Nat.zero_add, decide_true, Bool.true_and,
        if_true]
  · unfold cellOperand engineWord; apply BitVec.eq_of_getLsbD_eq; intro i hi
    have h1 : ¬ 8 + i < 8 := by omega
    simp only [BitVec.getLsbD_extractLsb', BitVec.getLsbD_append, hi, h1, decide_true, Bool.true_and, if_true,
        if_false, Nat.add_sub_cancel_left]
  · have e1 : (engineWord code operand c).extractLsb' 16 16 = c := by
      unfold engineWord; apply BitVec.eq_of_getLsbD_eq; intro i hi
      have : ¬ 16 + i < 16 := by omega
      have : ¬ 16 + i < 8 := by omega
      have : ¬ 16 + i - 8 < 8 := by omega
      simp only [BitVec.getLsbD_extractLsb', BitVec.getLsbD_append, *]
      simp [show 16 + i - 8 - 8 = i by omega]
    have e2 : (engineWord code operand c).extractLsb' 0 16 = operand ++ code := by
      unfold engineWord; apply BitVec.eq_of_getLsbD_eq; intro i hi
      simp only [BitVec.getLsbD_extractLsb', BitVec.getLsbD_append, Nat.zero_add, hi, decide_true, Bool.true_and]
      split
      · rfl
      · rw [if_pos (by omega)]
    unfold complementMatches matching
    rw [e1, e2]

/-- An engine command with a matching complement, given its answer. -/
theorem engineCommand_answers (s : State) (h : s.hostNext) (code operand : Byte) (u : State) (r : Reply)
   (ha : s.engineAction code operand = (u, r)) :
  ∃ t, exec (.refusedCode code operand (matching code operand)) s = .next t ∧
      t = ((u.announceReply code r).afterEngineCommand code r.result r.detail).bookkeptAs t := by
  refine pageWrite_answers s h 0x010 (by decide) _ _ ?_
  show (s.engineCommand (engineWord code operand (matching code operand))).storeControl 0x010 0 = _
  obtain ⟨e1, e2, e3⟩ := engineWord_fields code operand (matching code operand)
  simp only [State.engineCommand, e1, e2, e3, ha, beq_self_eq_true, if_true]
  rfl

/-- An engine command that is DONE. -/
theorem engineCommand_done (s : State) (h : s.hostNext) (code operand : Byte) (u : State) (d : Byte)
   (ha : s.engineAction code operand = (u, ⟨.done, d⟩)) :
  ∃ t, exec (.refusedCode code operand (matching code operand)) s = .next t ∧
      t = (u.afterEngineCommand code .done d).bookkeptAs t := by
  have := engineCommand_answers s h code operand u _ ha
  simpa only [State.announceReply, if_true] using this

/-- A valid lane mask. -/
theorem maskValid_iff (o : Byte) : maskValid o = true ↔ (o ≠ 0 ∧ o.toNat < 16) := by
  simp [maskValid, and_comm]

/-- The lanes of a mask. -/
theorem mem_maskLanes (mask : Byte) (l : Lane) : l ∈ maskLanes mask ↔ mask.getLsbD l.number = true := by
  simp only [maskLanes, List.mem_filter, Lane.inOrder]
  cases l <;> simp

/-- The eligible lanes of a mask (07 R112). -/
theorem mem_eligibleLanes (s : State) (mask : Byte) (l : Lane) : l ∈ s.eligibleLanes mask ↔ s.runsLane mask l := by
  simp only [State.eligibleLanes, List.mem_filter, mem_maskLanes, LaneState.eligible, State.runsLane,
      Bool.and_eq_true, beq_iff_eq, List.isEmpty_iff, Option.isNone_iff_eq_none, and_assoc]

/-- The lane that an operand byte numbers. -/
theorem ofNumber_number (o : Byte) (l : Lane) (h : o.toNat = l.number) : Lane.ofNumber o.toNat = l ∧ o.toNat < 4 := by
  rw [h]; cases l <;> decide

/-- Entries into ACTIVE change the lanes alone. -/
theorem activateAll_lanes (ls : List Lane) : ∀ s : State,
    (ls.foldl State.activate s) = { s with lanes := (ls.foldl State.activate s).lanes } := by
  intro s
  induction ls generalizing s with
  | nil => rfl
  | cons l ls ih => rw [List.foldl_cons, ih]; rfl

/-- A lane not named keeps its state. -/
theorem activateAll_other (ls : List Lane) (l : Lane) (hl : l ∉ ls) : ∀ s :
    State, (ls.foldl State.activate s).lane l = s.lane l := by
  induction ls with
  | nil => intro s; rfl
  | cons m ls ih =>
    intro s
    rw [List.foldl_cons, ih (by simp at hl; exact hl.2)]
    exact lane_setLane_other s _ (by simp at hl; exact hl.1)

/-- A lane named enters ACTIVE. -/
theorem activateAll_in (ls : List Lane) (nd : ls.Nodup) (l : Lane) (hl : l ∈ ls) : ∀ s :
    State, (ls.foldl State.activate s).lane l = (s.lane l).activated := by
  induction ls with
  | nil => simp at hl
  | cons m ls ih =>
    intro s
    rw [List.nodup_cons] at nd
    rw [List.foldl_cons]
    rcases List.mem_cons.mp hl with rfl | hl
    · rw [activateAll_other _ _ nd.1]; simp [State.activate]
    · rw [ih nd.2 hl]
      have : l ≠ m := fun e => nd.1 (e ▸ hl)
      rw [State.activate, lane_setLane_other s _ this]

/-- A mask names each lane at most once. -/
theorem maskLanes_nodup (mask) : (maskLanes mask).Nodup := by
  unfold maskLanes; exact List.Nodup.filter _ (by decide)

/-- The mask of the lanes that a byte names. -/
theorem lanesMask_eq (ls : List Lane) (sub : ∃ f : Lane → Bool, ls = Lane.inOrder.filter f) (done : Byte) (hd :
    done.toNat < 16) (h : ∀ l : Lane, done.getLsbD l.number = true ↔ l ∈ ls) :
   BitVec.ofNat 8 (lanesMask ls) = done := by
  obtain ⟨f, rfl⟩ := sub
  have hh : ∀ l : Lane, done.getLsbD l.number = f l := by
    intro l; rw [Bool.eq_iff_iff, h l, List.mem_filter]
    exact ⟨fun x => x.2, fun x => ⟨by cases l <;> decide, x⟩⟩
  have g : ∀ done : Byte, done.toNat < 16 →
      BitVec.ofNat 8 (lanesMask (Lane.inOrder.filter (fun l => done.getLsbD l.number))) = done := by decide +kernel
  have := g done hd
  have e : (fun l : Lane => done.getLsbD l.number) = f := funext hh
  rw [e] at this
  exact this

/-- A choice among a mask's lanes is a choice among all in order. -/
theorem maskLanes_filter (mask : Byte) (p : Lane → Bool) : ∃ f : Lane →
    Bool, (maskLanes mask).filter p = Lane.inOrder.filter f := by
  refine ⟨fun l => p l && mask.getLsbD l.number, ?_⟩
  simp [maskLanes, List.filter_filter]

/-- No element fails a test. -/
theorem find_not_none (ls : List Lane) (f : Lane → Bool) : ls.find? (fun l => !f l) = none ↔
    ∀ l ∈ ls, f l = true := by
  simp [List.find?_eq_none]

/-- RUN check 2 of a lane. -/
theorem ringCheck_iff (s : State) (l) : s.ringCheck l = true ↔ (s.regions.orderRing.get l).base ≠ 0 := by
  simp only [State.ringCheck, MapEntry.mapped]; exact bne_iff_ne

/-- RUN check 10 of a lane. -/
theorem pitchCheck_iff (s : State) (l) : s.pitchCheck l = true ↔
    s.settings.pmin.toNat ≤ (s.settings.lanePitch.get l).toNat := by
  simp only [State.pitchCheck]; exact decide_eq_true_iff

/-- The lowest lane that meets a test is the first found. -/
theorem find_lowest (mask : Byte) (p : Lane → Bool) (g : Lane → Bool) (l : Lane) (hl :
    l ∈ (maskLanes mask).filter p) (hg : g l = true)
   (hm : ∀ m : Lane, m.number < l.number → m ∈ (maskLanes mask).filter p → g m = false) :
       ((maskLanes mask).filter p).find? g = some l := by
  simp only [List.mem_filter, mem_maskLanes] at *
  simp only [maskLanes, Lane.inOrder]
  cases l
  · simp [List.filter_cons, List.find?_cons, hl, hg]
  · have a := hm .l0 (by decide)
    simp [List.filter_cons, List.find?_cons, hl, hg]
    split_ifs <;> simp_all
  · have a := hm .l0 (by decide); have b := hm .l1 (by decide)
    simp [List.filter_cons, List.find?_cons, hl, hg]
    split_ifs <;> simp_all
  · have a := hm .l0 (by decide); have b := hm .l1 (by decide); have c := hm .l2 (by decide)
    simp [List.filter_cons, List.find?_cons, hl, hg]
    split_ifs <;> simp_all

/-- A command whose work is that of the label and lane blocks. -/
theorem afterEngineCommand_labelWork {s X t : State} {c r d} (lw : s.labelWorkOnly X) (e :
    t = (X.afterEngineCommand c r d).bookkeptAs t) :
    t = ((s.afterEngineCommand c r d).labelWorkAs t).bookkeptAs t := by
  obtain ⟨ln, ea, en, ca, su, pr, ho, ev, sq, hX⟩ : ∃ ln ea en ca su pr ho ev sq, X = { s with
    lanes := ln
    early := ea
    engine := en
    capture := ca
    summary := su
    primary := pr
    writer := { s.writer with
      holding := ho
      events := ev
      eventSequence := sq } } := ⟨_, _, _, _, _, _, _, _, _, lw⟩
  rw [hX] at e
  have t1 : t.lanes = ln := by rw [e]; rfl
  have t2 : t.early = ea := by rw [e]; rfl
  have t3 : t.engine = { en with sequence := en.sequence + 1, code := c, result := r, detail := d } := by rw [e]; rfl
  have t4 : t.capture = ca := by rw [e]; rfl
  have t5 : t.summary = su := by rw [e]; rfl
  have t6 : t.primary = pr := by rw [e]; rfl
  have t7 : t.writer.holding = ho := by rw [e]; rfl
  have t8 : t.writer.events = ev := by rw [e]; rfl
  have t9 : t.writer.eventSequence = sq := by rw [e]; rfl
  conv_lhs => rw [e]
  unfold State.labelWorkAs
  rw [t1, t2, t3, t4, t5, t6, t7, t8, t9]
  rfl

/-! ## Memory commands (10) -/

/-- A memory command, given the unit it leaves. -/
theorem memoryCommand_answers (s : State) (h : s.hostNext) (code : Byte) (rest : BitVec 24) (m : MemUnit) (hm :
    s.memoryAction code (rest.extractLsb' 0 8) = m) :
    ∃ t, exec (.memcmdRefusedCode code rest) s = .next t ∧ t = (s.afterMemoryCommand m).bookkeptAs t := by
  refine pageWrite_answers s h 0x020 (by decide) _ _ ?_
  show (s.memoryCommand (memoryWord code rest)).storeControl 0x020 0 = _
  have e1 : cellCode (memoryWord code rest) = code := by
    unfold cellCode memoryWord; apply BitVec.eq_of_getLsbD_eq; intro i hi
    simp only [BitVec.getLsbD_extractLsb', BitVec.getLsbD_append, hi, Nat.zero_add, decide_true, Bool.true_and,
        if_true]
  have e2 : cellOperand (memoryWord code rest) = rest.extractLsb' 0 8 := by
    unfold cellOperand memoryWord; apply BitVec.eq_of_getLsbD_eq; intro i hi
    have h1 : ¬ 8 + i < 8 := by omega
    simp only [BitVec.getLsbD_extractLsb', BitVec.getLsbD_append, hi, h1, decide_true, Bool.true_and, if_true,
        if_false, Nat.add_sub_cancel_left, Nat.zero_add]
  simp only [State.memoryCommand, e1, e2, hm]
  rfl

/-- Valid operands of a walk (10 R162). -/
theorem operandsValid_iff (m : MemUnit) : m.operandsValid = true ↔ (1 ≤ m.opCount.toNat ∧ m.opCount.toNat ≤ 65536 ∧
    m.opStart.toNat ≤ 4194303 ∧
      m.opStart.toNat + m.opCount.toNat ≤ 4194304) := by
  simp only [MemUnit.operandsValid, Bool.and_eq_true, decide_eq_true_eq, and_assoc]
  rfl

/-- An address that a CLEAR may write (10 R166). -/
theorem clearable_iff (s : State) (a : Nat) : s.clearForbidden a = false ↔ s.clearable a := by
  unfold State.clearForbidden State.clearable
  cases hc : s.addressClass a <;> simp
  cases (s.lane _).service <;> simp

/-- A range that a CLEAR may not write. -/
theorem rangeForbidden_iff (s : State) : s.rangeForbidden = true ↔ ∃ i, i < s.mem.opCount.toNat ∧
    ¬ s.clearable (s.mem.opStart.toNat + i) := by
  simp only [State.rangeForbidden, List.any_eq_true, List.mem_range, ← clearable_iff, Bool.not_eq_false]

end Sys2Proof.Machine
end

