-- ==== Sys2Proof/Laws/Events.lean ====
section
/-! SUPPORT. The event queue with its sequence number, by itself, and the same with the fault summary, the primary record
and error capture: what a given event and a report do to them, and what closes add. -/

namespace Sys2Proof.Machine

/-- The event queue and the sequence number. -/
structure EventPart where
  /-- the queue -/
  events   : List Event
  /-- the next sequence number -/
  sequence : Half

/-- The event part of a state. -/
def State.eventPart (s : State) : EventPart := ⟨s.writer.events, s.writer.eventSequence⟩

/-- An event given, as the event part alone has it (11 R178). -/
def EventPart.push (m : ReportingMode) (q : EventPart) (e : WebPos × EventBody) : EventPart :=
  { events :=
      if m.keeps e.2.code.severity then
        if q.events.length < Config.eventPlaces then
          q.events ++ [{ sequence := q.sequence, code := e.2.code, lane := e.2.lane, serial := e.2.serial,
                         address := e.2.address, value := e.2.value, position := e.1 }]
        else q.events
      else q.events
    sequence := q.sequence + 1 }

@[simp] theorem giveAt_eventPart (s : State) (p : WebPos) (b : EventBody) :
    (s.giveAt p b).eventPart = s.eventPart.push s.settings.reportingMode (p, b) := by
  by_cases h : s.settings.reportingMode.keeps b.code.severity = true <;>
    by_cases k : s.writer.events.length < Config.eventPlaces <;>
    simp [State.giveAt, State.eventPart, EventPart.push, State.raiseClass, h, k]
@[simp] theorem give_eventPart (s : State) (b : EventBody) :
    (s.give b).eventPart = s.eventPart.push s.settings.reportingMode (s.web.position, b) := giveAt_eventPart _ _ _
@[simp] theorem raiseClass_eventPart (s : State) (c : SummaryClass) (l : Option Lane) (n : Option Serial)
    (a : Option Nat) : (s.raiseClass c l n a).eventPart = s.eventPart := rfl
@[simp] theorem giveRaise_eventPart (s : State) (c : SummaryClass) (b : EventBody) :
    (s.giveRaise c b).eventPart = s.eventPart.push s.settings.reportingMode (s.web.position, b) := giveAt_eventPart _ _ _
@[simp] theorem setLane_eventPart (s : State) (l : Lane) (x : LaneState) : (s.setLane l x).eventPart = s.eventPart := rfl
@[simp] theorem offerUncorrectable_eventPart (s : State) (c : Source) (x : Bool) (a : Nat) (d : Detail) :
    (s.offerUncorrectable c x a d).eventPart = s.eventPart := rfl

/-- Web position and reporting mode are those of the state before. -/
def State.eventFrame (s t : State) : Prop :=
  t.web.position = s.web.position ∧ t.settings.reportingMode = s.settings.reportingMode

theorem eventFrame_of_labelWork {s t : State} (h : s.labelWorkOnly t) : s.eventFrame t := by
  unfold State.labelWorkOnly at h; rw [h]; exact ⟨rfl, rfl⟩

/-- Events given one after the other, as the event part alone has them. -/
theorem giveEach_eventPart (es : List (WebPos × EventBody)) (s : State) :
    (s.giveEach es).eventPart = es.foldl (EventPart.push s.settings.reportingMode) s.eventPart := by
  induction es generalizing s with
  | nil => rfl
  | cons e es ih =>
    show (State.giveEach (s.giveAt e.1 e.2) es).eventPart = _
    rw [ih, giveAt_eventPart]
    have := (eventFrame_of_labelWork (giveAt_labelWork s e.1 e.2)).2
    rw [this]; rfl

/-- Events given are label work. -/
theorem giveEach_labelWork (es : List (WebPos × EventBody)) (s : State) : s.labelWorkOnly (s.giveEach es) := by
  induction es generalizing s with
  | nil => exact labelWorkOnly_refl s
  | cons e es ih => exact labelWorkOnly_trans (giveAt_labelWork s e.1 e.2) (ih (s.giveAt e.1 e.2))

/-! ## Reports: events with the classes they raise -/

/-- What a report can change: the event queue, the sequence number, the fault summary and the primary record; with error
capture, which it leaves. -/
structure ReportPart where
  /-- the event queue -/
  events   : List Event
  /-- the next sequence number -/
  sequence : Half
  /-- the fault summary -/
  summary  : BitVec 13
  /-- the primary record -/
  primary  : Option PrimaryRecord
  /-- error capture -/
  capture  : ErrorCapture

/-- The report part of a state. -/
def State.reportPart (s : State) : ReportPart :=
  ⟨s.writer.events, s.writer.eventSequence, s.summary, s.primary, s.capture⟩

/-- A class raised, as the report part alone has it (11 R180). -/
def ReportPart.raise (w : WebPos) (q : ReportPart) (c : SummaryClass) (b : EventBody) : ReportPart :=
  { q with
    summary := q.summary ||| BitVec.ofNat 13 (2 ^ c.bit)
    primary := offerPrimary q.primary
      { cls := c, lane := b.lane, serial := b.serial, address := b.address, position := w } }

/-- An event given, as the report part alone has it (11 R178). -/
def ReportPart.push (m : ReportingMode) (w : WebPos) (q : ReportPart) (b : EventBody) : ReportPart :=
  let q1 : ReportPart := { q with sequence := q.sequence + 1 }
  if m.keeps b.code.severity then
    if q.events.length < Config.eventPlaces then
      { q1 with events := q.events ++
          [{ sequence := q.sequence, code := b.code, lane := b.lane, serial := b.serial, address := b.address,
             value := b.value, position := w }] }
    else q1.raise w .eventsLost { code := b.code }
  else q1

/-- A report, as the report part alone has it. -/
def ReportPart.report (m : ReportingMode) (w : WebPos) (q : ReportPart) (r : Option SummaryClass × EventBody) :
    ReportPart :=
  match r.1 with
  | none => q.push m w r.2
  | some c => (q.push m w r.2).raise w c r.2

@[simp] theorem give_reportPart (s : State) (b : EventBody) :
    (s.give b).reportPart = s.reportPart.push s.settings.reportingMode s.web.position b := by
  by_cases h : s.settings.reportingMode.keeps b.code.severity = true <;>
    by_cases k : s.writer.events.length < Config.eventPlaces <;>
    simp [State.give, State.giveAt, State.reportPart, ReportPart.push, ReportPart.raise, State.raiseClass, h, k]
@[simp] theorem setLane_reportPart (s : State) (l : Lane) (x : LaneState) :
    (s.setLane l x).reportPart = s.reportPart := rfl

/-- A report is label work. -/
theorem report_labelWork (s : State) (r : Option SummaryClass × EventBody) : s.labelWorkOnly (s.report r) := by
  obtain ⟨c, b⟩ := r
  cases c with
  | none => exact give_labelWork s b
  | some c => exact giveRaise_labelWork s c b

/-- What a report does to the report part. -/
theorem report_reportPart (s : State) (r : Option SummaryClass × EventBody) :
    (s.report r).reportPart = s.reportPart.report s.settings.reportingMode s.web.position r := by
  obtain ⟨c, b⟩ := r
  cases c with
  | none => exact give_reportPart s b
  | some c =>
    have f := eventFrame_of_labelWork (give_labelWork s b)
    show ((s.give b).raiseClass c b.lane b.serial b.address).reportPart = _
    simp only [ReportPart.report, ← give_reportPart]
    simp only [State.raiseClass, State.reportPart, ReportPart.raise, f.1]

/-- Reports one after the other. -/
theorem foldl_report_reportPart (rs : List (Option SummaryClass × EventBody)) (s : State) :
    (rs.foldl State.report s).reportPart =
      rs.foldl (ReportPart.report s.settings.reportingMode s.web.position) s.reportPart := by
  induction rs generalizing s with
  | nil => rfl
  | cons r rs ih =>
    rw [List.foldl_cons, ih, report_reportPart, List.foldl_cons]
    have f := eventFrame_of_labelWork (report_labelWork s r)
    rw [f.1, f.2]

/-- A report leaves error capture. -/
theorem report_capture (m : ReportingMode) (w : WebPos) (q : ReportPart) (r : Option SummaryClass × EventBody) :
    (q.report m w r).capture = q.capture := by
  have h : (q.push m w r.2).capture = q.capture := by unfold ReportPart.push; dsimp only; split <;> (try split) <;> rfl
  obtain ⟨c, b⟩ := r
  cases c <;> exact h

/-- Reports leave error capture. -/
theorem foldl_report_capture (m : ReportingMode) (w : WebPos) (rs : List (Option SummaryClass × EventBody))
    (q : ReportPart) : (rs.foldl (ReportPart.report m w) q).capture = q.capture := by
  induction rs generalizing q with
  | nil => rfl
  | cons r rs ih => rw [List.foldl_cons, ih, report_capture]

/-- A record placed: parked with STACK_PARKED where the holding list is full (06 R102). -/
theorem placeRecord_reportPart (s : State) (r : StackRecord) : (s.placeRecord r).reportPart =
    if s.writer.holding.length < 4 then s.reportPart
    else s.reportPart.report s.settings.reportingMode s.web.position (some .stackBacklog,
      { code := .stackParked, lane := some r.lane, value := some (r.sequence.setWidth 32) }) := by
  simp only [State.placeRecord, show Config.holdingPlaces = 4 from rfl]
  split
  · rfl
  · exact report_reportPart (s.setLane r.lane { s.lane r.lane with parked := some r }) (some .stackBacklog, _)

/-- A built record closed with (06 R98, R102). -/
theorem closeWith_reportPart (s : State) (r : StackRecord) : (s.closeWith r).reportPart =
    ((if s.writer.holding.length < 4 then [] else
        [(some .stackBacklog,
          { code := .stackParked, lane := some r.lane, value := some (r.sequence.setWidth 32) })]) ++
      [(none,
        { code := .stackClosed, lane := some r.lane, address := some r.reason.code,
          value := some (r.sequence.setWidth 32) })] : List (Option SummaryClass × EventBody)).foldl
      (ReportPart.report s.settings.reportingMode s.web.position) s.reportPart := by
  have f := eventFrame_of_labelWork (placeRecord_labelWork s r)
  rw [State.closeWith, give_reportPart, f.1, f.2, placeRecord_reportPart]
  split <;> rfl

end Sys2Proof.Machine
end

