-- ==== Sys2Proof/Laws/Formats.lean ====
section
/-! SUPPORT. The bits of a packed word (12): what each field and each concatenation puts at a bit. -/

namespace Sys2Proof.Machine

/-- A field's bits are those of its value, at their place. -/
theorem getLsbD_packField (lo width v i : Nat) :
    (packField lo width v).getLsbD i = (decide (i < 32) && (decide (lo ≤ i) && (decide (i - lo < width) && v.testBit (i - lo)))) := by
  simp only [packField, BitVec.getLsbD_ofNat, Nat.testBit_mul_two_pow, Nat.testBit_mod_two_pow]

/-- A single bit's place. -/
theorem getLsbD_packBit (lo : Nat) (b : Bool) (i : Nat) (h : lo < 32) :
    (packBit lo b).getLsbD i = (decide (i = lo) && b) := by
  simp only [packBit, getLsbD_packField]
  by_cases e : i = lo
  · subst e; cases b <;> simp [h]
  · have : ¬ (lo ≤ i ∧ i - lo < 1) := by omega
    by_cases h1 : lo ≤ i
    · have h2 : ¬ i - lo < 1 := fun h => this ⟨h1, h⟩
      simp [e, h1, h2]
    · simp [e, h1]

/-- A field is its value, cut to its width, moved to its place. -/
theorem packField_eq (lo width v : Nat) (h : lo + width ≤ 32) :
    packField lo width v = (BitVec.ofNat width v).setWidth 32 <<< lo := by
  apply BitVec.eq_of_getLsbD_eq
  intro i hi
  rw [getLsbD_packField]
  simp only [BitVec.getLsbD_shiftLeft, BitVec.getLsbD_setWidth, BitVec.getLsbD_ofNat]
  by_cases h1 : i < lo
  · simp [h1]
  · by_cases h2 : i - lo < width
    · simp [h1, h2, hi, show i - lo < 32 by omega]; omega
    · simp [h1, h2]

/-- A single bit moved to its place. -/
theorem packBit_eq (lo : Nat) (b : Bool) (h : lo < 32) : packBit lo b = (BitVec.ofBool b).setWidth 32 <<< lo := by
  unfold packBit
  rw [packField_eq _ _ _ (by omega)]
  cases b <;> rfl

/-- The memory command status word tells states and results apart (12 section 12.2). -/
theorem statusWord_differs (s t : State) (h : s.mem.state ≠ t.mem.state ∨ s.mem.result ≠ t.mem.result) :
    s.publishedWord 0x024 ≠ t.publishedWord 0x024 := by
  intro e
  have b := fun i => congrArg (fun w : Word => w.getLsbD i) e
  have bits : ∀ (u : State) (i : Nat), (u.publishedWord 0x024).getLsbD i =
      (((packField 0 8 u.mem.sequence.toNat).getLsbD i || (packField 8 8 (u.mem.walk.elim 0 BitVec.toNat)).getLsbD i ||
        (packField 16 2 u.mem.state.code).getLsbD i) || (packField 24 8 u.mem.result.code).getLsbD i) := by
    intro u i
    show (packField 0 8 _ ||| packField 8 8 _ ||| packField 16 2 _ ||| packField 24 8 _ : Word).getLsbD i = _
    simp only [BitVec.getLsbD_or]
  have state : ∀ j, j < 2 → s.mem.state.code.testBit j = t.mem.state.code.testBit j := by
    intro j hj
    have k := b (16 + j)
    simp only [bits, getLsbD_packField] at k
    have : j = 0 ∨ j = 1 := by omega
    rcases this with rfl | rfl <;> simpa using k
  have result : ∀ j, j < 4 → s.mem.result.code.testBit j = t.mem.result.code.testBit j := by
    intro j hj
    have k := b (24 + j)
    simp only [bits, getLsbD_packField] at k
    have : j = 0 ∨ j = 1 ∨ j = 2 ∨ j = 3 := by omega
    rcases this with rfl | rfl | rfl | rfl <;> simpa using k
  have s0 := state 0 (by omega)
  have s1 := state 1 (by omega)
  have r0 := result 0 (by omega)
  have r1 := result 1 (by omega)
  have r2 := result 2 (by omega)
  have r3 := result 3 (by omega)
  rcases h with h | h
  · cases hs : s.mem.state <;> cases ht : t.mem.state <;> rw [hs, ht] at h s0 s1 <;>
      first
        | exact h rfl
        | exact absurd s0 (by decide)
        | exact absurd s1 (by decide)
  · cases hs : s.mem.result <;> cases ht : t.mem.result <;> rw [hs, ht] at h r0 r1 r2 r3 <;>
      first
        | exact h rfl
        | exact absurd r0 (by decide)
        | exact absurd r1 (by decide)
        | exact absurd r2 (by decide)
        | exact absurd r3 (by decide)

end Sys2Proof.Machine
end

