-- ==== Sys2Proof/Laws/Grants.lean ====
section
/-! SUPPORT. Grants to the internal requesters: what each leaves of the arbiter, the end of the grants owed before
HOST, the outcomes of reads, and the work of a grant under another memory unit. -/

namespace Sys2Proof.Machine

/-! ## The arbiter through a grant (08 R138) -/

/-- FETCH work keeps the bypass counts. -/
theorem fetchWork_bypass (s : State) (r) : s.fetchWork.arbiter.bypass r = s.arbiter.bypass r ∧
    s.fetchWork.arbiter.imageWriting = s.arbiter.imageWriting := by
  unfold State.fetchWork
  split
  · exact ⟨rfl, rfl⟩
  · split
    · exact ⟨rfl, rfl⟩
    · simp only [State.readSlotWord, State.reportFetch]
      split <;> (cases r <;> simp [State.setLane, Arbiter.bypass])

/-- RECORD work keeps the arbiter. -/
theorem recordWork_arbiter (s : State) (k) : (s.recordWork k).arbiter = s.arbiter := by
  cases k
  · simp only [State.recordWork, State.stackWork]
    split
    · rfl
    · split
      · rfl
      · simp only [State.completeStack, State.unpark]
        split
        · rfl
        · split <;> rfl
  · simp only [State.recordWork, State.eventWork]
    split
    · rfl
    · split <;> rfl
  · simp only [State.recordWork, State.storeStatusWord]
    split <;> rfl

/-- MEMCMD work keeps the bypass counts. -/
theorem memWork_bypass (s : State) (k r) : (s.memWork k).arbiter.bypass r = s.arbiter.bypass r ∧
    (s.memWork k).arbiter.imageWriting = s.arbiter.imageWriting := by
  cases k
  · simp only [State.memWork, State.scrubWork]
    split
    · exact ⟨rfl, rfl⟩
    · split
      · exact ⟨rfl, rfl⟩
      · simp only [State.scrubAddress]
        split <;> (cases r <;> simp [Arbiter.bypass, State.lockPort, State.servedMem, State.storeWord,
            State.storeLocation])
  · simp only [State.memWork, State.walkWork, State.verifyAt, State.clearAt]
    split
    · split
      · exact ⟨rfl, rfl⟩
      · split <;> (cases r <;> simp [Arbiter.bypass, State.lockPort, State.servedMem, State.setMem, State.storeWord,
            State.storeLocation])
    · split
      · split <;> exact ⟨rfl, rfl⟩
      · exact ⟨rfl, rfl⟩

/-- The end of a step raises no bypass count. -/
theorem commitExcept_bypass (p q : State) (x) (r) :
    (State.commitExcept p q x).arbiter.bypass r ≤ q.arbiter.bypass r ∧
    (State.commitExcept p q x).arbiter.imageWriting = q.arbiter.imageWriting := by
  refine ⟨?_, rfl⟩
  have k : ∀ u : State, u.settleRequests.arbiter.bypass r ≤ u.arbiter.bypass r := by
    intro u
    cases r
    · show (if u.requesting .fetch then u.arbiter.fetchBypass else 0) ≤ u.arbiter.fetchBypass
      by_cases h : u.requesting .fetch = true <;> simp [h]
    · show (if u.requesting .record then u.arbiter.recordBypass else 0) ≤ u.arbiter.recordBypass
      by_cases h : u.requesting .record = true <;> simp [h]
    · show (if u.requesting .memcmd then u.arbiter.memcmdBypass else 0) ≤ u.arbiter.memcmdBypass
      by_cases h : u.requesting .memcmd = true <;> simp [h]
  have := k (State.publishExcept p q x).freePort
  exact this

/-- A grant clears its requester's count, raises no other, and leaves the port FREE. -/
theorem serve_arbiter (s : State) (q r : Internal) (h : s.requesting q = true) :
   (s.serve q).arbiter.bypass r ≤ (if r = q then 0 else s.arbiter.bypass r) ∧
       (s.serve q).arbiter.imageWriting = s.arbiter.imageWriting ∧ (s.serve q).arbiter.grant = none ∧
       (s.serve q).arbiter.lock = false := by
  have g : (s.grantInternal q).arbiter.bypass r = (if r = q then 0 else s.arbiter.bypass r) := by
    cases q <;> cases r <;> rfl
  have g2 : (s.grantInternal q).arbiter.imageWriting = s.arbiter.imageWriting := by cases q <;> rfl
  cases q with
  | fetch =>
    have a := commitExcept_bypass s (s.grantInternal .fetch).fetchWork [] r
    have b := fetchWork_bypass (s.grantInternal .fetch) r
    refine ⟨?_, ?_, rfl, rfl⟩
    · show (State.commitExcept _ _ _).arbiter.bypass r ≤ _
      rw [b.1, g] at a; exact a.1
    · show (State.commitExcept _ _ _).arbiter.imageWriting = _
      rw [b.2, g2] at a; exact a.2
  | record =>
    have hk : s.nextRecord.isSome = true := h
    obtain ⟨k, hk⟩ := Option.isSome_iff_exists.mp hk
    have a := commitExcept_bypass s ((s.grantInternal .record).recordWork k) indexOffsets r
    have b := recordWork_arbiter (s.grantInternal .record) k
    simp only [State.serve, hk, Option.elim]
    refine ⟨?_, ?_, rfl, rfl⟩
    · show (State.commitExcept _ _ _).arbiter.bypass r ≤ _
      rw [b, g] at a; exact a.1
    · show (State.commitExcept _ _ _).arbiter.imageWriting = _
      rw [b, g2] at a; exact a.2
  | memcmd =>
    have hk : s.nextMem.isSome = true := h
    obtain ⟨k, hk⟩ := Option.isSome_iff_exists.mp hk
    have a := commitExcept_bypass s ((s.grantInternal .memcmd).memWork k) [] r
    have b := memWork_bypass (s.grantInternal .memcmd) k r
    simp only [State.serve, hk, Option.elim, State.serveMem, State.statusLast]
    rw [b.1, b.2, g, g2] at a
    split <;> exact ⟨a.1, a.2, rfl, rfl⟩

/-- A requester that is owed a grant requests, with its count at the limit. -/
theorem owed_requests (s : State) (q : Internal) (h : s.owed = some q) : s.requesting q = true ∧
    4 ≤ s.arbiter.bypass q := by
  have := List.find?_some h
  simp only [Bool.and_eq_true] at this
  exact ⟨this.1, of_decide_eq_true this.2⟩

/-- With every count below the limit none is owed. -/
theorem owed_none (s : State) (h : ∀ r, s.arbiter.bypass r < 4) : s.owed = none := by
  apply List.find?_eq_none.mpr
  intro x _
  have := h x
  intro hh
  simp only [Bool.and_eq_true] at hh
  have := of_decide_eq_true hh.2
  have e : Config.bypassLimit = 4 := rfl
  omega

/-- How many bypass counts are at the limit. -/
def State.countsFull (s : State) : Nat := (if 4 ≤ s.arbiter.bypass .fetch then 1 else 0) + (if 4 ≤ s.arbiter.bypass
    .record then 1 else 0) + (if 4 ≤ s.arbiter.bypass .memcmd then 1 else 0)

/-- A grant that is owed lowers that number. -/
theorem serve_countsFull (s : State) (q) (h : s.owed = some q) :
    State.countsFull (s.serve q) + 1 ≤ State.countsFull s := by
  have ⟨h1, h2⟩ := owed_requests s q h
  have hf := (serve_arbiter s q .fetch h1).1
  have hr := (serve_arbiter s q .record h1).1
  have hm := (serve_arbiter s q .memcmd h1).1
  unfold State.countsFull
  cases q <;> simp at hf hr hm <;> split_ifs <;> omega

/-- After as many grants as counts at the limit HOST is next. -/
theorem serveOwed_hostNext (n : Nat) : ∀ s : State, State.countsFull s ≤ n → s.portReady = true →
    (State.serveOwed n s).hostNext := by
  induction n with
  | zero =>
    intro s h hp
    refine ⟨hp, owed_none s ?_⟩
    intro r
    unfold State.countsFull at h
    cases r <;> split_ifs at h <;> omega
  | succ n ih =>
    intro s h hp
    unfold State.serveOwed
    cases ho : s.owed with
    | none => exact ⟨hp, ho⟩
    | some q =>
      have hs := serve_countsFull s q ho
      have ⟨h1, h2⟩ := owed_requests s q ho
      have ⟨_, a, b, c⟩ := serve_arbiter s q .fetch h1
      apply ih
      · omega
      · simp only [State.portReady, a, b, c] at *
        simp at hp ⊢; exact hp.2

/-! ## Reads -/

/-- A classified read's outcome, and the data of a corrected one. -/
theorem readsChecked_under (s : State) (a o d) (h : s.readsChecked a o d) :
    (classify (s.location a)).under s.settings.blankTolerance = o ∧
    (∀ b, o = .corrected b → d = flipData (s.location a).data b) := by
  simp only [State.readsChecked] at h
  generalize classify (s.location a) = c at *
  cases c with
  | clean => obtain ⟨rfl, _⟩ := h; exact ⟨rfl, by simp⟩
  | corrected b => obtain ⟨rfl, e⟩ := h; exact ⟨rfl, fun b h => by injection h with h; subst h; exact e⟩
  | uncorrectable k => obtain ⟨rfl, _⟩ := h; exact ⟨rfl, by simp⟩
  | blank =>
    simp only at h
    split at h <;> obtain ⟨rfl, _⟩ := h <;> simp_all [ReadOutcome.under]

/-- A read's outcome and data. -/
theorem reads_spec (s : State) (a o d) (h : s.reads a o d) : s.readOutcome a = o ∧ s.readData a = d := by
  have key : s.readOutcome a = o ∧ ((∀ b, o = .corrected b → d = flipData (s.location a).data b) ∧ (o = .blank →
      d = 0) ∧ ((o = .clean ∨ ∃ k, o = .uncorrectable k) → d = (s.location a).data)) := by
    by_cases hu : s.settings.checkMode = .off ∨ s.addressClass a = .exempt
    · obtain ⟨rfl, rfl⟩ := h.1 hu
      refine ⟨?_, by simp⟩
      have : s.unclassified a = true := by rcases hu with hu | hu <;> simp [State.unclassified, hu]
      simp [State.readOutcome, this]
    · push Not at hu
      have := h.2 hu.1 hu.2
      have hq : s.unclassified a = false := by simp [State.unclassified, hu.1, hu.2]
      simp only [State.readOutcome, hq, Bool.false_eq_true, if_false]
      simp only [State.readsChecked] at this
      generalize classify (s.location a) = c at *
      cases c with
      | clean => obtain ⟨rfl, e⟩ := this; simp [ReadOutcome.under, e]
      | corrected b => obtain ⟨rfl, e⟩ := this; simp [ReadOutcome.under, e]
      | uncorrectable k => obtain ⟨rfl, e⟩ := this; simp [ReadOutcome.under, e]
      | blank =>
        simp only at this
        split at this <;> obtain ⟨rfl, e⟩ := this <;> simp_all [ReadOutcome.under]
  obtain ⟨rfl, h1, h2, h3⟩ := key
  refine ⟨rfl, ?_⟩
  simp only [State.readData]
  generalize s.readOutcome a = o at *
  cases o with
  | clean => exact (h3 (.inl rfl)).symm
  | corrected b => exact (h1 b rfl).symm
  | blank => exact (h2 rfl).symm
  | uncorrectable k => exact (h3 (.inr ⟨k, rfl⟩)).symm

/-- A word is trusted unless it is uncorrectable (03 R48). -/
theorem trusted_iff (o : ReadOutcome) : o.trusted = true ↔ ∀ x, o ≠ .uncorrectable x := by
  cases o <;> simp [ReadOutcome.trusted]

/-- The first failing order check (03 R48) by the checks that pass. -/
theorem firstFailure_eq (e : WindowEntry) (p : Option Serial) (pm : Half) (f : Option OrderCheck)
  (h : ((∀ c, e.passes p pm c) ∧ f = none ∨
          ∃ c, f = some c ∧ ¬ e.passes p pm c ∧
            ∀ m, m ∈ [OrderCheck.check, .sequence, .pitch, .target, .trim, .reserved].takeWhile (· ≠ c) →
              e.passes p pm m)) : e.firstFailure p pm = f := by
  have c1 : (e.words.any (fun w => !w.outcome.trusted) = true) ↔ ¬ e.passes p pm .check := by
    clear h; simp only [WindowEntry.passes, WindowEntry.words, ← trusted_iff]
    have : ∀ a b c d : Bool, (List.any [a, b, c, d] (fun w => !w) = true) ↔
        ¬ ∀ w ∈ [a, b, c, d], w = true := by decide
    have := this e.word0.outcome.trusted e.word1.outcome.trusted e.word2.outcome.trusted e.word3.outcome.trusted
    simpa using this
  have c2 : e.passes p pm .check → ((e.word0.outcome.trusted && p.any (fun p => !isForward e.serial p)) = true ↔
      ¬ e.passes p pm .sequence) := by
    intro h
    have : e.word0.outcome.trusted = true := (trusted_iff _).mpr (h e.word0 (by simp))
    simp only [this, Bool.true_and, WindowEntry.passes, WindowEntry.serial]
    cases p <;> simp
  have c3 : e.pitch.toNat < pm.toNat ↔ ¬ e.passes p pm .pitch := by simp [WindowEntry.passes, WindowEntry.pitch]
  have c4 : 9999 < e.override.toNat ↔ ¬ e.passes p pm .target := by simp [WindowEntry.passes, WindowEntry.override]
  have c5 : ((decide (e.trim.toInt < -64) || decide (63 < e.trim.toInt)) = true) ↔ ¬ e.passes p pm .trim := by
    rw [Bool.or_eq_true, decide_eq_true_iff, decide_eq_true_iff]
    show _ ↔ ¬ (-64 ≤ e.trim.toInt ∧ e.trim.toInt ≤ 63); omega
  have c6 : e.reservedSet = true ↔ ¬ e.passes p pm .reserved := by
    simp only [WindowEntry.passes, WindowEntry.reservedSet, Bool.or_eq_true, bne_iff_ne]
    generalize e.word1.data.extractLsb' 19 13 = q1; generalize e.word3.data.extractLsb' 8 24 = q2
    by_cases h1 : q1 = 0#13 <;> by_cases h2 : q2 = 0#24 <;> simp [h1, h2]
  unfold WindowEntry.firstFailure
  rcases h with ⟨h, rfl⟩ | ⟨c, rfl, hn, hm⟩
  · rw [if_neg (by rw [c1]; simp [h]), if_neg (by rw [c2 (h _)]; simp [h]), if_neg (by rw [c3]; simp [h]),
        if_neg (by rw [c4]; simp [h]), if_neg (by rw [c5]; simp [h]), if_neg (by rw [c6]; simp [h])]
  · cases c <;> simp at hm
    · rw [if_pos (c1.mpr hn)]
    · rw [if_neg (by rw [c1]; simp [hm]), if_pos ((c2 hm).mpr hn)]
    · rw [if_neg (by rw [c1]; simp [hm]), if_neg (by rw [c2 hm.1]; simp [hm]), if_pos (c3.mpr hn)]
    · rw [if_neg (by rw [c1]; simp [hm]), if_neg (by rw [c2 hm.1]; simp [hm]), if_neg (by rw [c3]; simp [hm]),
          if_pos (c4.mpr hn)]
    · rw [if_neg (by rw [c1]; simp [hm]), if_neg (by rw [c2 hm.1]; simp [hm]), if_neg (by rw [c3]; simp [hm]),
          if_neg (by rw [c4]; simp [hm]), if_pos (c5.mpr hn)]
    · rw [if_neg (by rw [c1]; simp [hm]), if_neg (by rw [c2 hm.1]; simp [hm]), if_neg (by rw [c3]; simp [hm]),
          if_neg (by rw [c4]; simp [hm]), if_neg (by rw [c5]; simp [hm]), if_pos (c6.mpr hn)]

/-! ## Record words -/

/-- A RECORD grant, given its work. -/
theorem serveRecord_bookkept (s : State) (k) (u : State)
  (h : u.bookkeptAs (s.serveRecord k) = ((s.grantInternal .record).recordWork k).bookkeptAs (s.serveRecord k)) :
  s.serveRecord k = u.bookkeptAs (s.serveRecord k) := by
  rw [h]; rfl

/-- A 16-bit index as a word. -/
theorem packField_half (w : BitVec 16) : packField 0 16 w.toNat = w.setWidth 32 := by
  apply BitVec.eq_of_toNat_eq
  simp [packField]; omega

/-- The stack write index word. -/
theorem publishedWord_stackWrite (s : State) :
    s.publishedWord 0x090 = s.writer.stackWrite.setWidth 32 := packField_half _

/-- The event write index word. -/
theorem publishedWord_eventWrite (s : State) :
    s.publishedWord 0x092 = s.writer.eventWrite.setWidth 32 := packField_half _

/-- One lane's value after another's is replaced. -/
theorem get_set {α} (p : PerLane α) (l m : Lane) (x : α) :
    (p.set l x).get m = if m = l then x else p.get m := by cases l <;> cases m <;> rfl

/-! ## FETCH grants -/

/-- A FETCH grant, given its work. -/
theorem serveFetch_bookkept (s : State) (u : State)
  (h : ∀ X, u.bookkeptAs X = ((s.grantInternal .fetch).fetchWork).bookkeptAs X) :
  s.serveFetch = u.bookkeptAs (s.serveFetch) := by
  rw [h]; rfl

/-- A fetch's report does not read the arbiter. -/
theorem reportFetch_withArbiter (s : State) (y : Arbiter) (l a o) :
    (s.withArbiter y).reportFetch l a o = (s.reportFetch l a o).withArbiter y := by
  cases o <;> simp [State.reportFetch]

/-! ## MEMCMD grants -/

/-- A walk's status word last changes the publication set alone. -/
theorem statusLast_eq (p q : State) : ∃ pub, State.statusLast p q = q.setPublication pub := by
  unfold State.statusLast; split
  · exact ⟨_, rfl⟩
  · exact ⟨q.writer.publication, rfl⟩

/-- A MEMCMD grant, given its work. -/
theorem serveMem_bookkept (s : State) (k) (u : State)
  (h : ∀ X, u.bookkeptAs X = ((s.grantInternal .memcmd).memWork k).bookkeptAs X) :
  s.serveMem k = u.bookkeptAs (s.serveMem k) := by
  obtain ⟨pub, hp⟩ := statusLast_eq s (State.commit s ((s.grantInternal .memcmd).memWork k))
  rw [h]
  unfold State.serveMem
  rw [hp]; rfl

/-- The memory command unit replaced. -/
def State.withMem (s : State) (m : MemUnit) : State := { s with mem := m }

/-- Replaced under a choice. -/
theorem withMem_ite (c : Prop) [Decidable c] (p q : State) (x : MemUnit) :
    State.withMem (if c then p else q) x = if c then State.withMem p x else State.withMem q x := by split <;> rfl

/-- An event does not read the memory command unit. -/
theorem giveAt_withMem (s : State) (m) (p) (b) : (State.withMem s m).giveAt p b = State.withMem (s.giveAt p b) m := by
  simp only [State.giveAt]
  rw [withMem_ite, withMem_ite]; rfl

/-- Nor does a summary class. -/
theorem giveRaise_withMem (s : State) (m) (c) (b) :
    (State.withMem s m).giveRaise c b = State.withMem (s.giveRaise c b) m := by
  simp only [State.giveRaise, State.give]
  rw [show (State.withMem s m).web = s.web from rfl, giveAt_withMem]; rfl

/-- Nor does a correctable detection. -/
theorem detectCorrectable_withMem (s : State) (m) (src a b) :
    (State.withMem s m).detectCorrectable src a b = State.withMem (s.detectCorrectable src a b) m := by
  have : (State.withMem s m).countCorrection = State.withMem s.countCorrection m := by
    simp only [State.countCorrection]
    rw [withMem_ite, ← giveRaise_withMem]; rfl
  simp only [State.detectCorrectable, this]; rfl

/-- Nor does an uncorrectable one. -/
theorem consumeUncorrectable_withMem (s : State) (m) (src a d) :
    (State.withMem s m).consumeUncorrectable src a d = State.withMem (s.consumeUncorrectable src a d) m := by
  simp only [State.consumeUncorrectable, State.reportUncorrectable]
  rw [← giveRaise_withMem]; rfl

/-- A scrub's work by the outcome of its read (09 R152). -/
theorem scrubAddress_of (w : State) (a o) (h : (classify (w.location a)).under w.settings.blankTolerance = o) :
    w.scrubAddress a =
   (match (generalizing := false) o with
    | .clean => w
    | .blank => w
    | .corrected b => (w.storeWord a (flipData (w.location a).data b)).detectCorrectable .scrub a b
    | .uncorrectable d => w.consumeUncorrectable .scrub a d) := by
  subst h; rfl

/-- A VERIFY word by the outcome of its read (10 R164). -/
theorem verifyAt_of (w : State) (a o) (hx : w.addressClass a ≠ .exempt) (h :
    (classify (w.location a)).under w.settings.blankTolerance = o) : w.verifyAt a =
   (match (generalizing := false) o with
    | .clean => w.lockPort.setMem (MemUnit.advance { w.mem with done := w.mem.done + 1 })
    | .blank => w.lockPort.setMem (MemUnit.advance { w.mem with done := w.mem.done + 1 })
    | .corrected b => ((w.lockPort.storeWord a (flipData (w.location a).data b)).detectCorrectable .verify a
          b).setMem w.mem.countCorrected.advance
    | .uncorrectable d => (w.lockPort.consumeUncorrectable .verify a d).setMem w.mem.verifyFault) := by
  subst h; rw [State.verifyAt]; simp only [if_neg hx] <;> rfl

/-- The walk past a word, written out. -/
theorem advance_eq (m : MemUnit) : MemUnit.advance m = { m with
        progress := m.progress + 1
        state := (if m.progress + 1 = m.start + m.count then .idle else m.state)
        result := (if m.progress + 1 = m.start + m.count then .done else m.result) } := by
      simp only [MemUnit.advance]; split <;> rfl

/-- An uncorrectable VERIFY word, written out (10 R165). -/
theorem verifyFault_eq (m : MemUnit) : m.verifyFault = (if m.progress = m.start then MemUnit.advance { m with
            done := m.done + 1, uncorrectable := m.uncorrectable + 1, faultAddress := some m.progress } else { m with
            done := m.done + 1, uncorrectable := m.uncorrectable + 1, faultAddress := some m.progress,
                state := .idle, result := .stoppedAtFault }) := rfl

/-- At the first word of the range. -/
theorem verifyFault_first (m : MemUnit) (h : m.progress = m.start) : m.verifyFault = MemUnit.advance { m with
            done := m.done + 1, uncorrectable := m.uncorrectable + 1,
                faultAddress := some m.progress } := by rw [verifyFault_eq, if_pos h]

/-- Past the first word. -/
theorem verifyFault_later (m : MemUnit) (h : m.progress ≠ m.start) : m.verifyFault = { m with
            done := m.done + 1, uncorrectable := m.uncorrectable + 1, faultAddress := some m.progress,
                state := .idle, result := .stoppedAtFault } := by rw [verifyFault_eq, if_neg h]

/-- What a CLEAR may not write. -/
theorem clearForbidden_iff (s : State) (a) : s.clearForbidden a = true ↔ ¬ s.clearable a := by
  simp only [State.clearForbidden, State.clearable]
  cases s.addressClass a <;> simp

end Sys2Proof.Machine
end

