-- ==== Sys2Proof/Laws/Halts.lean ====
section
/-! SUPPORT. The entry into HALTED: what it leaves of each lane and of the machine (07 R118). -/

namespace Sys2Proof.Machine

/-- A whole queue abandoned (02 R35). -/
theorem abandonOne_foldl (q : List LabelRecord) (x : LaneState) : (q.foldl LaneState.abandonOne x) = { x with
     release := x.release + BitVec.ofNat 16 (q.countP (·.holdsOrder))
     openStack := (q.foldl LaneState.abandonOne x).openStack
     carry := (q.foldl LaneState.abandonOne x).carry
     departed := x.departed + q.length } ∧
         ((q.foldl LaneState.abandonOne x).openStack.isSome = x.openStack.isSome) := by
  induction q generalizing x with
  | nil => simp
  | cons r q ih =>
    rw [List.foldl_cons]
    obtain ⟨a, b⟩ := ih (x.abandonOne r)
    refine ⟨?_, ?_⟩
    · rw [a]
      cases ho : x.openStack <;> cases hh : r.slot.isSome <;>
       simp [LaneState.abandonOne, LaneState.releaseFor, LabelRecord.holdsOrder, hh, ho, LaneState.listMissing,
           List.countP_cons, Nat.add_assoc, Nat.add_comm, Nat.add_left_comm] <;>
       (rw [BitVec.ofNat_add]; ac_rfl)
    · rw [b]
      cases ho : x.openStack <;> cases hh : r.slot.isSome <;>
       simp [LaneState.abandonOne, LaneState.releaseFor, LabelRecord.holdsOrder, hh, ho, LaneState.listMissing]

/-- What a whole queue abandoned lists (06 R95, R96). -/
theorem abandonOne_foldl_short (q : List LabelRecord) (x : LaneState) :
    (q.foldl LaneState.abandonOne x).openStack = x.openStack.map (fun k => { k with
      short := (q.foldl (fun c r => c.list ⟨r.serial, .abandoned, r.defect, r.flags.undecided⟩) k.short) }) ∧
    (q.foldl LaneState.abandonOne x).carry = (if x.openStack.isSome then x.carry else
      q.foldl (fun c r => c.list ⟨r.serial, .abandoned, r.defect, r.flags.undecided⟩) x.carry) := by
  induction q generalizing x with
  | nil => cases h : x.openStack <;> simp [h]
  | cons r q ih =>
    rw [List.foldl_cons]
    obtain ⟨a, b⟩ := ih (x.abandonOne r)
    rw [a, b]
    cases ho : x.openStack <;> cases hh : r.slot.isSome <;>
      simp [LaneState.abandonOne, LaneState.releaseFor, LabelRecord.holdsOrder, hh, ho, LaneState.listMissing,
        LabelRecord.abandonedItem]

/-- A lane whose queue is abandoned. -/
theorem abandoned_eq (x : LaneState) : x.abandoned = { x with
     release := x.release + BitVec.ofNat 16 x.orderedCount
     openStack := x.openStack.map (fun k => { k with short := x.shortAtHalt })
     carry := (if x.openStack.isSome then x.carry else x.shortAtHalt)
     departed := x.departed + x.queue.length
     queue := [] } := by
  obtain ⟨f, _⟩ := abandonOne_foldl x.queue x
  obtain ⟨a, b⟩ := abandonOne_foldl_short x.queue x
  unfold LaneState.abandoned
  rw [f, a, b]
  cases ho : x.openStack <;> simp [LaneState.shortAtHalt, ho, LaneState.orderedCount]

/-- The lane that a HALT close leaves when it builds its record, but for the parked slot (06 R98). -/
def LaneState.afterHaltClose (x : LaneState) : LaneState :=
  if x.openStack.isSome then
    { x with
      openStack := none, trayPulse := true
      stacker := .transferring (match x.openStack with
        | some k => x.stacker.changing k
        | none => .a) }
  else { x with carry := Shortfall.empty, nextSequence := x.nextSequence + 1 }

/-- The HALT close of a lane whose queue is abandoned: the record that `haltRecord` names, or nothing. -/
theorem closeStack_halt (a : State) (x : LaneState) (l : Lane) (h : a.lane l = x.abandoned) :
    (x.haltRecord l = none → a.closeStack l .halt = a) ∧
    (∀ r, x.haltRecord l = some r → r.lane = l ∧ r.reason = .halt ∧
      a.closeStack l .halt = (a.setLane l x.abandoned.afterHaltClose).closeWith r) := by
  have e := abandoned_eq x
  cases ho : x.openStack with
  | some k =>
    refine ⟨fun hn => by simp [LaneState.haltRecord, ho] at hn, fun r hr => ?_⟩
    simp only [LaneState.haltRecord, ho, Option.some.injEq] at hr
    subst hr
    refine ⟨rfl, rfl, ?_⟩
    simp only [State.closeStack, h, e, ho, Option.map_some, LaneState.afterStackClose, LaneState.afterHaltClose,
      OpenStack.record, Option.isSome_some, if_true, Stacker.changing]
  | none =>
    by_cases hc : x.shortAtHalt.isEmpty = true ∨ x.parked ≠ none
    · refine ⟨fun _ => ?_, fun r hr => by simp [LaneState.haltRecord, ho, hc] at hr⟩
      have hb : (x.shortAtHalt.isEmpty || x.parked.isSome) = true := by
        rcases hc with hc | hc
        · simp [hc]
        · simp [Option.isSome_iff_ne_none.mpr hc]
      simp [State.closeStack, h, e, ho, hb]
    · have hb : (x.shortAtHalt.isEmpty || x.parked.isSome) = false := by
        rw [not_or] at hc; simp [hc.1, Decidable.not_not.mp hc.2]
      refine ⟨fun hn => by simp [LaneState.haltRecord, ho, hc] at hn, fun r hr => ?_⟩
      simp only [LaneState.haltRecord, ho, hc, if_false, Option.some.injEq] at hr
      subst hr
      refine ⟨rfl, rfl, ?_⟩
      simp [State.closeStack, h, e, ho, hb, LaneState.afterCarryClose, LaneState.afterHaltClose, Shortfall.record]

/-- A record closed with, as its lane and the holding list have it (06 R102). -/
theorem closeWith_placed (a : State) (l : Lane) (y : LaneState) (r : StackRecord) (h : r.lane = l) :
    (((a.setLane l y).closeWith r).lane l = (if a.writer.holding.length < 4 then y else { y with parked := some r })) ∧
    ((a.setLane l y).closeWith r).writer.holding =
      a.writer.holding ++ (if a.writer.holding.length < 4 then [r] else []) ∧
    (¬ a.writer.holding.length < 4 → ((a.setLane l y).closeWith r).summary.getLsbD 4 = true) := by
  subst h
  simp only [State.closeWith, State.placeRecord, show Config.holdingPlaces = 4 from rfl, setLane_writer]
  by_cases k : a.writer.holding.length < 4
  · simp only [k, if_true, give_lane, give_holding]
    exact ⟨lane_setLane_self _ _ _, trivial, fun hh => absurd trivial hh⟩
  · simp only [k, if_false, give_lane, give_holding, giveRaise_lane, giveRaise_holding]
    refine ⟨by simp, by simp, fun _ => ?_⟩
    exact give_keepsSummary _ _ 4 (giveRaise_set _ .stackBacklog _)

/-- A lane's window rewound, as the event part has it (03 R57). -/
theorem rewind_reportPart (s : State) (l : Lane) : (s.rewind l).reportPart =
    if (s.lane l).windowDepth = 0 then s.reportPart else s.reportPart.report s.settings.reportingMode s.web.position (none,
      { code := .windowRewound, lane := some l, address := some (s.lane l).rewound.fetch.toNat,
        value := some (BitVec.ofNat 32 (s.lane l).windowDepth) }) := by
  simp only [State.rewind]; split
  · rfl
  · rw [give_reportPart]; rfl

/-- A lane's early verdicts discarded, as the event part has it (04 R70). -/
theorem discardEarly_reportPart (s : State) (l : Lane) : (s.discardEarly l).reportPart =
    if s.early.countP (fun e => e.lane == l) = 0 then s.reportPart else
      s.reportPart.report s.settings.reportingMode s.web.position (none,
        { code := .earlyDiscarded, lane := some l,
          value := some (BitVec.ofNat 32 (s.early.countP (fun e => e.lane == l))) }) := by
  simp only [State.discardEarly]; split
  · rfl
  · rw [give_reportPart]; rfl

/-- The step of a halt in which a lane's queue is abandoned and its HALT close made. -/
theorem haltClose_spec (s : State) (l : Lane) (b : State) (hb : b = (s.abandonQueue l).closeStack l .halt) :
    (b.lane l = (match (s.lane l).haltRecord l with
      | none => (s.lane l).abandoned
      | some r => if s.writer.holding.length < 4 then (s.lane l).abandoned.afterHaltClose
          else { (s.lane l).abandoned.afterHaltClose with parked := some r })) ∧
    b.writer.holding = s.writer.holding ++
      (if s.writer.holding.length < 4 then ((s.lane l).haltRecord l).toList else []) ∧
    b.engine = s.engine ∧ b.early = s.early ∧ s.labelWorkOnly b ∧
    (∀ i, s.summary.getLsbD i = true → b.summary.getLsbD i = true) ∧
    ((s.lane l).haltRecord l ≠ none → ¬ s.writer.holding.length < 4 → b.summary.getLsbD 4 = true) ∧
    b.reportPart = ((if (s.lane l).queue.isEmpty then []
        else [(none, { code := .queueAbandoned, lane := some l, value := some (BitVec.ofNat 32 (s.lane l).queue.length) })]) ++
      (match (s.lane l).haltRecord l with
        | none => []
        | some r =>
          (if s.writer.holding.length < 4 then [] else
            [(some .stackBacklog, { code := .stackParked, lane := some l, value := some (r.sequence.setWidth 32) })]) ++
          [(none, { code := .stackClosed, lane := some l, address := some 7, value := some (r.sequence.setWidth 32) })]) :
        List (Option SummaryClass × EventBody)).foldl (ReportPart.report s.settings.reportingMode s.web.position) s.reportPart := by
  obtain ⟨a, ha⟩ : ∃ a, a = s.abandonQueue l := ⟨_, rfl⟩
  have al : a.lane l = (s.lane l).abandoned := by
    rw [ha]; simp only [State.abandonQueue]; split <;> simp [give_lane]
  have ae : a.engine = s.engine := by rw [ha]; simp only [State.abandonQueue]; split <;> simp [give_engine]
  have aa : a.early = s.early := by rw [ha]; simp only [State.abandonQueue]; split <;> simp [give_early]
  have ah : a.writer.holding = s.writer.holding := by
    rw [ha]; simp only [State.abandonQueue]; split <;> simp [give_holding]
  have aw : s.labelWorkOnly a := by rw [ha]; exact abandonQueue_labelWork s l
  have asu : ∀ i, s.summary.getLsbD i = true → a.summary.getLsbD i = true := by
    intro i hi; rw [ha]; simp only [State.abandonQueue]; split
    · exact hi
    · exact give_keepsSummary _ _ i hi
  have av : a.reportPart = (if (s.lane l).queue.isEmpty then [] else
      [(none, { code := .queueAbandoned, lane := some l, value := some (BitVec.ofNat 32 (s.lane l).queue.length) })] :
      List (Option SummaryClass × EventBody)).foldl (ReportPart.report s.settings.reportingMode s.web.position) s.reportPart := by
    rw [ha]; simp only [State.abandonQueue]; split
    · rfl
    · rw [give_reportPart]; rfl
  have af := eventFrame_of_labelWork aw
  obtain ⟨cn, cs⟩ := closeStack_halt a (s.lane l) l al
  rw [← ha] at hb
  cases hr : (s.lane l).haltRecord l with
  | none =>
    have e := cn hr
    rw [hb, e]
    refine ⟨al, by simp [ah], ae, aa, aw, asu, by simp, ?_⟩
    rw [av]; simp
  | some r =>
    obtain ⟨r1, r2, r3⟩ := cs r hr
    obtain ⟨p1, p2, p3⟩ := closeWith_placed a l (s.lane l).abandoned.afterHaltClose r r1
    rw [ah] at p1 p2 p3
    have w2 := labelWorkOnly_trans aw (closeStack_labelWork a l .halt)
    rw [← hb] at w2
    rw [r3] at hb
    rw [← hb] at p1 p2 p3
    refine ⟨p1, ?_, ?_, ?_, w2, ?_, fun _ h => p3 h, ?_⟩
    · rw [p2]; rfl
    · rw [hb]; simp only [State.closeWith, give_engine, placeRecord_engine, setLane_engine, ae]
    · rw [hb]; simp only [State.closeWith, give_early, placeRecord_early, setLane_early, aa]
    · intro i hi; rw [hb]
      exact give_keepsSummary _ _ i (placeRecord_keepsSummary _ _ i (asu i hi))
    · rw [hb, closeWith_reportPart]
      simp only [setLane_reportPart, av, r1, r2, CloseReason.code]
      have h1 : (a.setLane l (s.lane l).abandoned.afterHaltClose).settings = a.settings := rfl
      have h2 : (a.setLane l (s.lane l).abandoned.afterHaltClose).web = a.web := rfl
      have h3 : (a.setLane l (s.lane l).abandoned.afterHaltClose).writer.holding = s.writer.holding := ah
      rw [h1, h2, h3, af.1, af.2, ← List.foldl_append]


/-- One lane at the entry into HALTED. -/
theorem haltLane_spec (s : State) (l : Lane) :
    ((s.haltLane l).lane l).haltedFrom (s.lane l) l (4 ≤ s.writer.holding.length) ∧
    (s.haltLane l).engine = s.engine ∧
    (s.haltLane l).early = (if (s.lane l).service = .bypassed then s.early
      else s.early.filter (fun e => e.lane != l)) ∧
    (∀ i, s.summary.getLsbD i = true → (s.haltLane l).summary.getLsbD i = true) ∧
    (s.haltLane l).writer.holding = s.writer.holding ++
      (if s.writer.holding.length < 4 then ((s.lane l).haltRecord l).toList else []) ∧
    s.labelWorkOnly (s.haltLane l) ∧
    ((s.lane l).haltRecord l ≠ none → 4 ≤ s.writer.holding.length →
      (s.haltLane l).summary.getLsbD 4 = true) ∧
    (s.haltLane l).reportPart = (s.haltReports l (decide (4 ≤ s.writer.holding.length))).foldl
      (ReportPart.report s.settings.reportingMode s.web.position) s.reportPart := by
  obtain ⟨b, hb⟩ : ∃ b, b = (s.abandonQueue l).closeStack l .halt := ⟨_, rfl⟩
  obtain ⟨bl, bh, be, ba, bw, bs, b4, bv⟩ := haltClose_spec s l b hb
  have bf := eventFrame_of_labelWork bw
  have ab := abandoned_eq (s.lane l)
  have e : s.haltLane l = (if (s.lane l).service = .bypassed then b.setLane l (b.lane l).haltedOutputs else
      ((b.setLane l (b.lane l).haltedOutputs).rewind l).discardEarly l) := by
    simp only [State.haltLane]; rw [← hb]
  -- the lane after its close, field by field
  obtain ⟨y, hy⟩ : ∃ y, y = b.lane l := ⟨_, rfl⟩
  have y0 : y = { s.lane l with
      release := (s.lane l).release + BitVec.ofNat 16 (s.lane l).orderedCount
      departed := (s.lane l).departed + (s.lane l).queue.length
      queue := []
      openStack := y.openStack, carry := y.carry, nextSequence := y.nextSequence
      parked := y.parked, trayPulse := y.trayPulse, stacker := y.stacker } := by
    rw [hy, bl, ab]
    cases (s.lane l).haltRecord l with
    | none => rfl
    | some r =>
      simp only [LaneState.afterHaltClose]
      cases (s.lane l).openStack <;> by_cases k : s.writer.holding.length < 4 <;> simp [k]
  have y1 : y.openStack = none ∧ y.trayPulse = ((s.lane l).trayPulse || (s.lane l).openStack.isSome) ∧
      ((s.lane l).openStack ≠ none → y.carry = (s.lane l).carry ∧ y.nextSequence = (s.lane l).nextSequence) ∧
      ((s.lane l).openStack = none → (s.lane l).haltRecord l = none →
        y.carry = (s.lane l).shortAtHalt ∧ y.nextSequence = (s.lane l).nextSequence) ∧
      ((s.lane l).openStack = none → (s.lane l).haltRecord l ≠ none →
        y.carry.isEmpty = true ∧ y.nextSequence = (s.lane l).nextSequence + 1) ∧
      (∀ r, (s.lane l).haltRecord l = some r → 4 ≤ s.writer.holding.length → y.parked = some r) ∧
      (((s.lane l).haltRecord l = none ∨ ¬ 4 ≤ s.writer.holding.length) → y.parked = (s.lane l).parked) := by
    rw [hy, bl, ab]
    have h4 : 4 ≤ s.writer.holding.length ↔ ¬ s.writer.holding.length < 4 := Nat.not_lt.symm
    have h5 : (s.lane l).openStack ≠ none → (s.lane l).haltRecord l ≠ none := by
      intro h; unfold LaneState.haltRecord
      cases ho : (s.lane l).openStack with
      | none => exact absurd ho h
      | some k => simp
    rw [h4]
    generalize (s.lane l).haltRecord l = hr at h5 ⊢
    cases ho : (s.lane l).openStack <;> cases hr <;> simp [ho] at h5 <;>
      by_cases k : s.writer.holding.length < 4 <;>
      simp [LaneState.afterHaltClose, k, Shortfall.empty, Shortfall.isEmpty]
  obtain ⟨y1, y2, y3, y4, y5, y6, y7⟩ := y1
  refine ⟨?_, ?_, ?_, ?_, ?_, ?_, ?_, ?_⟩
  · rw [e]
    split
    · rename_i hby
      rw [lane_setLane_self, ← hy]
      unfold LaneState.haltedFrom LaneState.haltedOutputs
      refine ⟨?_, ?_, ?_, ?_, ?_, ?_, ?_, ?_, ?_, ?_, y2, ?_, ?_, ?_, ?_, ?_, y3, y4, y5, y6, y7⟩ <;>
        first
          | rfl
          | exact y1
          | (rw [y0]; done)
          | (intro h; exact absurd hby h)
          | (intro _; rw [y0]; exact ⟨rfl, rfl, rfl, rfl⟩)
          | (rw [y0]; rfl)
    · rename_i hby
      rw [discardEarly_lane, rewind_lane_self, lane_setLane_self, ← hy]
      unfold LaneState.haltedFrom LaneState.haltedOutputs
      refine ⟨?_, ?_, ?_, ?_, ?_, ?_, ?_, ?_, ?_, ?_, y2, ?_, ?_, ?_, ?_, ?_, y3, y4, y5, y6, y7⟩ <;>
        first
          | rfl
          | exact y1
          | (intro h; exact absurd h hby)
          | (simp only [LaneState.rewound]; rw [y0]; done)
          | (simp only [LaneState.rewound]; rw [y0]; rfl)
          | skip
      · intro _
        refine ⟨rfl, rfl, ?_, ?_⟩
        · simp only [LaneState.rewound, LaneState.orderedCount]; rw [y0]; simp
        · simp only [LaneState.rewound, LaneState.oldestBefore]; rw [y0]
  · rw [e]; split
    · exact be
    · rw [discardEarly_engine, rewind_engine]; exact be
  · rw [e]; split
    · exact ba
    · rw [discardEarly_early, rewind_early]; show b.early.filter _ = _; rw [ba]
  · intro i hi
    rw [e]; split
    · exact bs i hi
    · exact discardEarly_keepsSummary _ _ i (rewind_keepsSummary _ _ i (bs i hi))
  · rw [e]; split
    · exact bh
    · rw [discardEarly_holding, rewind_holding]; exact bh
  · exact haltLane_labelWork s l
  · intro h1 h2
    have h3 := b4 h1 (Nat.not_lt.mpr h2)
    rw [e]; split
    · exact h3
    · exact discardEarly_keepsSummary _ _ 4 (rewind_keepsSummary _ _ 4 h3)
  · have hd : decide (4 ≤ s.writer.holding.length) = !decide (s.writer.holding.length < 4) := by
      by_cases k : s.writer.holding.length < 4
      · simp [k]
      · simp [k, Nat.not_lt.mp k]
    rw [e]; split
    · rename_i hby
      rw [setLane_reportPart, bv]
      congr 1
      simp only [State.haltReports, hby, if_true, List.append_nil, hd]
      congr 1
      cases (s.lane l).haltRecord l with
      | none => rfl
      | some r => by_cases k : s.writer.holding.length < 4 <;> simp [k]
    · rename_i hby
      have f1 : ((b.setLane l (b.lane l).haltedOutputs).rewind l).settings.reportingMode = s.settings.reportingMode := by
        rw [(eventFrame_of_labelWork (rewind_labelWork _ l)).2]; exact bf.2
      have f2 : ((b.setLane l (b.lane l).haltedOutputs).rewind l).web.position = s.web.position := by
        rw [(eventFrame_of_labelWork (rewind_labelWork _ l)).1]; exact bf.1
      have g1 : (b.setLane l (b.lane l).haltedOutputs).settings.reportingMode = s.settings.reportingMode := bf.2
      have g2 : (b.setLane l (b.lane l).haltedOutputs).web.position = s.web.position := bf.1
      have g3 : ((b.setLane l (b.lane l).haltedOutputs).rewind l).early = s.early := by rw [rewind_early]; exact ba
      rw [discardEarly_reportPart, rewind_reportPart, f1, f2, g1, g2, g3, lane_setLane_self, setLane_reportPart, bv, ← hy]
      have w1 : (LaneState.haltedOutputs y).windowDepth = (s.lane l).windowDepth := by
        rw [y0]; rfl
      have w2 : (LaneState.haltedOutputs y).rewound.fetch =
          (s.lane l).release + BitVec.ofNat 16 (s.lane l).orderedCount := by
        rw [y0]; simp [LaneState.haltedOutputs, LaneState.rewound, LaneState.orderedCount]
      rw [w1, w2]
      simp only [State.haltReports, hby, if_false, List.foldl_append, hd]
      have m : (match (s.lane l).haltRecord l with
          | none => []
          | some r => (if s.writer.holding.length < 4 then [] else
              [(some .stackBacklog, { code := EventCode.stackParked, lane := some l, value := some (r.sequence.setWidth 32) })]) ++
            [(none, { code := .stackClosed, lane := some l, address := some 7, value := some (r.sequence.setWidth 32) })] :
            List (Option SummaryClass × EventBody)) = (match (s.lane l).haltRecord l with
          | none => []
          | some r => (if (!decide (s.writer.holding.length < 4)) = true then
              [(some .stackBacklog, { code := EventCode.stackParked, lane := some l, value := some (r.sequence.setWidth 32) })] else []) ++
            [(none, { code := .stackClosed, lane := some l, address := some 7, value := some (r.sequence.setWidth 32) })]) := by
        cases (s.lane l).haltRecord l with
        | none => rfl
        | some r => by_cases k : s.writer.holding.length < 4 <;> simp [k]
      rw [m]
      split <;> split <;> rfl

/-- A halt's record, the reported window and the early count of a lane look at that lane and its early entries only. -/
theorem haltReports_congr (s t : State) (l : Lane) (p : Bool) (h : t.lane l = s.lane l)
    (h2 : t.early.countP (fun e => e.lane == l) = s.early.countP (fun e => e.lane == l)) :
    t.haltReports l p = s.haltReports l p := by
  simp only [State.haltReports, h, h2]

/-- What some lanes' halts give and hold, one lane after the other. -/
theorem haltLanes_spec (s : State) (ls : List Lane) (hn : ls.Nodup) :
    let t := ls.foldl State.haltLane s
    (∀ l, l ∉ ls → t.lane l = s.lane l) ∧
    t.engine = s.engine ∧
    t.early = s.early.filter (fun e => !ls.contains e.lane || (s.lane e.lane).service == .bypassed) ∧
    (∀ i, s.summary.getLsbD i = true → t.summary.getLsbD i = true) ∧
    t.writer.holding = s.writer.holding ++ (s.haltRecords ls).take (4 - s.writer.holding.length) ∧
    s.labelWorkOnly t ∧
    (∀ pre l post, ls = pre ++ l :: post →
      (t.lane l).haltedFrom (s.lane l) l (4 ≤ s.writer.holding.length + (s.haltRecords pre).length) ∧
      ((s.lane l).haltRecord l ≠ none → 4 ≤ s.writer.holding.length + (s.haltRecords pre).length →
        t.summary.getLsbD 4 = true)) ∧
    (∀ parks : Lane → Bool, (∀ pre l post, ls = pre ++ l :: post →
        (parks l = true ↔ 4 ≤ s.writer.holding.length + (s.haltRecords pre).length)) →
      t.reportPart = (ls.flatMap (fun l => s.haltReports l (parks l))).foldl
        (ReportPart.report s.settings.reportingMode s.web.position) s.reportPart) := by
  induction ls generalizing s with
  | nil =>
    refine ⟨fun _ _ => rfl, rfl, ?_, fun _ h => h, by simp [State.haltRecords], labelWorkOnly_refl s, ?_, fun _ _ => rfl⟩
    · simp
    · intro pre l post h; simp at h
  | cons m ls ih =>
    obtain ⟨hm, hn2⟩ := List.nodup_cons.mp hn
    obtain ⟨u, hu⟩ : ∃ u, u = s.haltLane m := ⟨_, rfl⟩
    obtain ⟨a, b, c, d, e, f, g, k⟩ := haltLane_spec s m
    have o := haltLane_lanesBut s m
    rw [← hu] at a b c d e f g k o
    have ul : ∀ l, l ≠ m → u.lane l = s.lane l := fun l h => o l h
    have ff := eventFrame_of_labelWork f
    obtain ⟨A, B, C, D, E, F, G, K⟩ := ih u hn2
    have hr : u.haltRecords ls = s.haltRecords ls := by
      unfold State.haltRecords
      apply List.filterMap_congr
      intro x hx
      rw [ul x (fun h => hm (h ▸ hx))]
    have hrp : ∀ pre, (∀ x ∈ pre, x ≠ m) → u.haltRecords pre = s.haltRecords pre := by
      intro pre hp
      unfold State.haltRecords
      apply List.filterMap_congr
      intro x hx
      rw [ul x (hp x hx)]
    have hlen : ∀ (q : List StackRecord), 4 ≤ u.writer.holding.length + q.length ↔
        4 ≤ s.writer.holding.length + (((s.lane m).haltRecord m).toList ++ q).length := by
      intro q
      rw [e]
      cases (s.lane m).haltRecord m <;> by_cases hh : s.writer.holding.length < 4 <;> simp [hh] <;> omega
    have hcons : ∀ pre, s.haltRecords (m :: pre) = ((s.lane m).haltRecord m).toList ++ s.haltRecords pre := by
      intro pre
      unfold State.haltRecords
      cases h : (s.lane m).haltRecord m <;> simp [List.filterMap_cons, h]
    intro t
    have ht : t = ls.foldl State.haltLane u := by rw [hu]; rfl
    rw [← ht] at A B C D E F G K
    refine ⟨?_, ?_, ?_, ?_, ?_, ?_, ?_, ?_⟩
    · intro l hl
      simp only [List.mem_cons, not_or] at hl
      rw [A l hl.2, ul l hl.1]
    · rw [B, b]
    · rw [C, c]
      have key : ∀ x : EarlyEntry, x.lane ≠ m → ((u.lane x.lane).service == Service.bypassed) =
          ((s.lane x.lane).service == Service.bypassed) := fun x h => by rw [ul x.lane h]
      split
      · rename_i hby
        apply List.filter_congr
        intro x _
        by_cases hx : x.lane = m
        · have hc1 : ls.contains x.lane = false := by rw [hx]; simpa using hm
          rw [hc1, hx]; simp [hby]
        · rw [key x hx]; simp [hx]
      · rename_i hby
        rw [List.filter_filter]
        apply List.filter_congr
        intro x _
        by_cases hx : x.lane = m
        · rw [hx]; simp [hby]
        · rw [key x hx]; simp [hx]
    · intro i hi; exact D i (d i hi)
    · rw [E, hr, hcons, e]
      cases (s.lane m).haltRecord m with
      | none => simp
      | some r =>
        by_cases hh : s.writer.holding.length < 4
        · have : 4 - s.writer.holding.length = (4 - (s.writer.holding.length + 1)) + 1 := by omega
          simp [hh, this]
        · have h0 : 4 - s.writer.holding.length = 0 := by omega
          simp [hh, h0]
    · exact labelWorkOnly_trans f F
    · intro pre l post hp
      cases pre with
      | nil =>
        simp only [List.nil_append, List.cons.injEq] at hp
        obtain ⟨rfl, rfl⟩ := hp
        have hr0 : (s.haltRecords []).length = 0 := rfl
        rw [hr0, Nat.add_zero]
        refine ⟨?_, ?_⟩
        · rw [A m hm]; exact a
        · intro h1 h2; exact D 4 (g h1 h2)
      | cons x pre =>
        simp only [List.cons_append, List.cons.injEq] at hp
        obtain ⟨rfl, hp⟩ := hp
        obtain ⟨G1, G2⟩ := G pre l post hp
        have hlm : l ≠ m := by rintro rfl; exact hm (by rw [hp]; simp)
        have hpm : ∀ x ∈ pre, x ≠ m := by rintro x hx rfl; exact hm (by rw [hp]; simp [hx])
        rw [hcons]
        rw [hrp pre hpm, ul l hlm] at G1 G2
        have hq := hlen (s.haltRecords pre)
        refine ⟨?_, fun h1 h2 => G2 h1 (hq.mpr h2)⟩
        rw [propext hq] at G1; exact G1
    · intro parks hp
      have hp1 := hp [] m ls rfl
      have hr0 : (s.haltRecords []).length = 0 := rfl
      rw [hr0, Nat.add_zero] at hp1
      have hpm : parks m = decide (4 ≤ s.writer.holding.length) := by
        rw [Bool.eq_iff_iff, hp1]; simp
      have hp2 : ∀ pre l post, ls = pre ++ l :: post →
          (parks l = true ↔ 4 ≤ u.writer.holding.length + (u.haltRecords pre).length) := by
        intro pre l post hq
        have hpm : ∀ x ∈ pre, x ≠ m := by rintro x hx rfl; exact hm (by rw [hq]; simp [hx])
        rw [hp (m :: pre) l post (by rw [hq]; rfl), hcons, hrp pre hpm, hlen]
      rw [K parks hp2, k, ff.1, ff.2, List.flatMap_cons, List.foldl_append, hpm]
      congr 1
      have : ∀ x ∈ ls, u.haltReports x (parks x) = s.haltReports x (parks x) := by
        intro x hx
        have hxm : x ≠ m := fun h => hm (h ▸ hx)
        refine haltReports_congr s u x _ (ul x hxm) ?_
        rw [c]; split
        · rfl
        · rw [List.countP_filter]
          apply List.countP_congr
          intro y _
          by_cases hy : y.lane = x <;> simp [hy, hxm]
      simp only [List.flatMap, List.map_congr_left this]

/-- The entry into HALTED. -/
theorem enterHalted_spec (s : State) (c : HaltCause) : (s.enterHalted c).haltedFrom s c ∧
    (s.enterHalted c).engine = { s.engine with state := .halted, cause := some c } := by
  obtain ⟨u, hu⟩ : ∃ u, u = (({ s with engine := { s.engine with state := .halted, cause := some c } } :
      State).give { code := .engineHalted, value := some (BitVec.ofNat 32 c.code) }).raiseHalt c := ⟨_, rfl⟩
  have e : s.enterHalted c = Lane.inOrder.foldl State.haltLane u := by rw [hu]; rfl
  have ul : ∀ l, u.lane l = s.lane l := by
    intro l; rw [hu]
    cases c <;> (simp only [State.raiseHalt, State.raiseClass]; exact give_lane _ _ _)
  have ue : u.engine = { s.engine with state := .halted, cause := some c } := by
    rw [hu]; cases c <;> (simp only [State.raiseHalt, State.raiseClass]; exact give_engine _ _)
  have ua : u.early = s.early := by
    rw [hu]; cases c <;> (simp only [State.raiseHalt, State.raiseClass]; exact give_early _ _)
  have uh : u.writer.holding = s.writer.holding := by
    rw [hu]; cases c <;> (simp only [State.raiseHalt, State.raiseClass]; exact give_holding _ _)
  have uv : u.reportPart = (s.report (c.raises, { code := .engineHalted, value := some (BitVec.ofNat 32 c.code) })).reportPart := by
    have h : u = ({ s with engine := { s.engine with state := .halted, cause := some c } } : State).report
        (c.raises, { code := .engineHalted, value := some (BitVec.ofNat 32 c.code) }) := by rw [hu]; cases c <;> rfl
    rw [h, report_reportPart, report_reportPart]; rfl
  have us1 : c = .safety → u.summary.getLsbD 0 = true := by
    rintro rfl; rw [hu]; exact raiseClass_set _ .safetyStop _ _ _
  have us2 : c = .reverseLimit → u.summary.getLsbD 1 = true := by
    rintro rfl; rw [hu]; exact raiseClass_set _ .reverseLimit _ _ _
  have uf : u.web.position = s.web.position ∧ u.settings.reportingMode = s.settings.reportingMode := by
    have w := eventFrame_of_labelWork (give_labelWork
      { s with engine := { s.engine with state := .halted, cause := some c } }
      { code := .engineHalted, value := some (BitVec.ofNat 32 c.code) })
    rw [hu]; cases c <;> exact w
  obtain ⟨A, B, C, D, E, F, G, K⟩ := haltLanes_spec u Lane.inOrder (by decide)
  rw [← e] at A B C D E F G K
  have hr : ∀ ls, u.haltRecords ls = s.haltRecords ls := by
    intro ls; unfold State.haltRecords; congr 1; funext l; rw [ul]
  have hsplit : ∀ pre l post, Lane.inOrder = pre ++ l :: post → pre = Lane.inOrder.take l.number := by
    intro pre l post h
    match pre, h with
    | [], h => simp [Lane.inOrder] at h; rw [← h.1]; rfl
    | [a], h => simp [Lane.inOrder] at h; rw [← h.2.1, ← h.1]; rfl
    | [a, b], h => simp [Lane.inOrder] at h; rw [← h.2.2.1, ← h.2.1, ← h.1]; rfl
    | [a, b, d], h => simp [Lane.inOrder] at h; rw [← h.2.2.2.1, ← h.2.2.1, ← h.2.1, ← h.1]; rfl
    | a :: b :: d :: f :: pre, h => simp [Lane.inOrder] at h
  have hat : ∀ l, ∃ post, Lane.inOrder = Lane.inOrder.take l.number ++ l :: post := by
    intro l; cases l
    · exact ⟨[.l1, .l2, .l3], rfl⟩
    · exact ⟨[.l2, .l3], rfl⟩
    · exact ⟨[.l3], rfl⟩
    · exact ⟨[], rfl⟩
  refine ⟨⟨?_, ?_, ?_, ?_, ?_, ?_, ?_, ?_, ?_, ?_, ?_⟩, ?_⟩
  · rw [B, ue]
  · rw [B, ue]
  · simp [State.stopReq, B, ue]
  · intro l
    obtain ⟨post, h⟩ := hat l
    have g := (G _ _ _ h).1
    rw [ul, uh, hr] at g
    exact g
  · rw [E, uh, hr]
  · rw [C, ua]
    apply List.filter_congr
    intro x _
    rw [ul]
    cases x.lane <;> simp [Lane.inOrder]
  · intro parks hp
    have k := K parks (by
      intro pre l post h
      rw [hp l, uh, hr, hsplit pre l post h]; rfl)
    have ev : Lane.inOrder.flatMap (fun l => u.haltReports l (parks l)) =
        Lane.inOrder.flatMap (fun l => s.haltReports l (parks l)) := by
      congr 1; funext l
      exact haltReports_congr s u l _ (ul l) (by rw [ua])
    rw [ev, uf.1, uf.2, uv, report_reportPart] at k
    have j := foldl_report_reportPart ((c.raises, { code := .engineHalted, value := some (BitVec.ofNat 32 c.code) }) ::
      Lane.inOrder.flatMap (fun l => s.haltReports l (parks l))) s
    have q : (s.enterHalted c).reportPart = _ := k.trans j.symm
    exact ⟨congrArg ReportPart.events q, congrArg ReportPart.sequence q, congrArg ReportPart.summary q,
      congrArg ReportPart.primary q⟩
  · have ht : (s.enterHalted c).reportPart.capture = s.reportPart.capture := by
      have k := K (fun l => decide (4 ≤ s.writer.holding.length + (s.haltRecords (Lane.inOrder.take l.number)).length)) (by
        intro pre l post h
        rw [decide_eq_true_iff, uh, hr, hsplit pre l post h])
      rw [k, uv, report_reportPart, foldl_report_capture]
      exact report_capture _ _ _ _
    exact ht
  · intro hc; exact D 0 (us1 hc)
  · intro hc; exact D 1 (us2 hc)
  · intro l h1 h2
    obtain ⟨post, h⟩ := hat l
    have g := (G _ _ _ h).2
    rw [ul, uh, hr] at g
    exact g h2 h1
  · rw [B, ue]

/-- What a halt's statement looks at: lanes, early table, engine, holding list, event queue, fault summary, primary record
and error capture after it, and before it those with the web position and the reporting mode, not the engine. -/
theorem haltedFrom_congr (t u s s' : State) (c) (h : t.haltedFrom s c) (e1 : u.engine = t.engine)
    (e2 : u.lanes = t.lanes) (e3 : u.early = t.early) (e4 : u.writer.holding = t.writer.holding)
    (e5 : u.reportPart = t.reportPart) (f1 : s'.lanes = s.lanes) (f2 : s'.early = s.early)
    (f3 : s'.writer.holding = s.writer.holding) (f4 : s'.reportPart = s.reportPart) (f5 : s.eventFrame s') :
    u.haltedFrom s' c := by
  have hl : ∀ l, s'.lane l = s.lane l := fun l => by simp only [State.lane, f1]
  have hl2 : ∀ l, u.lane l = t.lane l := fun l => by simp only [State.lane, e2]
  have hr : ∀ ls, s'.haltRecords ls = s.haltRecords ls := by
    intro ls; unfold State.haltRecords; congr 1; funext l; rw [hl]
  have hp : ∀ l, s'.haltParks l ↔ s.haltParks l := fun l => by simp only [State.haltParks, f3, hr]
  have hv : ∀ l p, s'.haltReports l p = s.haltReports l p := fun l p => haltReports_congr s s' l p (hl l) (by rw [f2])
  have es : u.summary = t.summary := congrArg ReportPart.summary e5
  obtain ⟨a, b, d, e, f, g, k, q, m, n, o⟩ := h
  refine ⟨by rw [e1]; exact a, by rw [e1]; exact b, ?_, ?_, ?_, ?_, ?_, ?_, ?_, ?_, ?_⟩
  · simpa only [State.stopReq, State.lane, e1, e2] using d
  · intro l
    rw [hl, hl2, propext (hp l)]; exact e l
  · rw [e4, f3, hr]; exact f
  · rw [e3, f2, g]
    apply List.filter_congr
    intro x _; rw [hl]
  · intro parks h1
    obtain ⟨k1, k2, k3, k4⟩ := k parks (fun l => (h1 l).trans (hp l))
    simp only [hv]
    have j := foldl_report_reportPart ((c.raises, { code := .engineHalted, value := some (BitVec.ofNat 32 c.code) }) ::
      Lane.inOrder.flatMap (fun l => s.haltReports l (parks l)))
    have j2 := (j s').trans ((by rw [f4, f5.1, f5.2] : _ = _).trans (j s).symm)
    exact ⟨(congrArg ReportPart.events e5).trans (k1.trans (congrArg ReportPart.events j2).symm),
      (congrArg ReportPart.sequence e5).trans (k2.trans (congrArg ReportPart.sequence j2).symm),
      es.trans (k3.trans (congrArg ReportPart.summary j2).symm),
      (congrArg ReportPart.primary e5).trans (k4.trans (congrArg ReportPart.primary j2).symm)⟩
  · exact (congrArg ReportPart.capture e5).trans (q.trans (congrArg ReportPart.capture f4).symm)
  · intro hc; rw [es]; exact m hc
  · intro hc; rw [es]; exact n hc
  · intro l h1 h2
    rw [hl] at h2; rw [es]; exact o l ((hp l).mp h1) h2

end Sys2Proof.Machine
end

