-- ==== Sys2Proof/Laws/Publication.lean ====
section
/-! SUPPORT. Status publication (11 R176): no work of a step but the status writes and the resets touches the publication
set, so that a step's end places exactly the words that changed. -/

namespace Sys2Proof.Machine

/-! ## Work that leaves the publication set -/

theorem labelWorkOnly_publication {s t : State} (h : s.labelWorkOnly t) :
    t.writer.publication = s.writer.publication := by rw [h]; rfl

theorem give_publication (s : State) (b : EventBody) : (s.give b).writer.publication = s.writer.publication :=
  giveAt_writer_publication s _ b
theorem giveRaise_publication (s : State) (c : SummaryClass) (b : EventBody) :
    (s.giveRaise c b).writer.publication = s.writer.publication := give_publication s b
theorem countCorrection_publication (s : State) : s.countCorrection.writer.publication = s.writer.publication := by
  simp only [State.countCorrection]; split
  · rw [giveRaise_publication]
  · rfl
theorem detectCorrectable_publication (s : State) (src : Source) (a b : Nat) :
    (s.detectCorrectable src a b).writer.publication = s.writer.publication := countCorrection_publication s
theorem consumeUncorrectable_publication (s : State) (src : Source) (a : Nat) (d : Detail) :
    (s.consumeUncorrectable src a d).writer.publication = s.writer.publication := giveRaise_publication _ _ _
theorem offerScrub_publication (s : State) (a : Nat) : (s.offerScrub a).writer.publication = s.writer.publication := by
  unfold State.offerScrub; split
  · rfl
  · split
    · rfl
    · split <;> rfl

theorem hostRead_publication (s : State) (a : Nat) : (s.hostRead a).writer.publication = s.writer.publication := by
  unfold State.hostRead State.endHost State.reportHostRead
  split
  · rfl
  · rfl
  · exact (offerScrub_publication _ _).trans (detectCorrectable_publication _ _ _ _)
  · exact consumeUncorrectable_publication _ _ _ _

theorem commandDrain_publication (s : State) (m : Byte) :
    (s.commandDrain m).1.writer.publication = s.writer.publication := by
  simp only [State.commandDrain]; split
  · rfl
  · split
    · rfl
    · exact (labelWorkOnly_publication (settleEngine_labelWork _)).trans
        (labelWorkOnly_publication (foldl_labelWork drainLane_labelWork _ _))
theorem commandRun_publication (s : State) (m : Byte) :
    (s.commandRun m).1.writer.publication = s.writer.publication := by
  simp only [State.commandRun]; split
  · rfl
  · split
    · rfl
    · split
      · rfl
      · exact labelWorkOnly_publication (labelWorkOnly_trans (setEngine_labelWork s .running)
          (foldl_labelWork (fun s l => setLane_labelWork s l _) _ _))
theorem engineAction_publication (s : State) (c o : Byte) :
    (s.engineAction c o).1.writer.publication = s.writer.publication := by
  have hs : ∀ l, (s.commandCloseStack l).1.writer.publication = s.writer.publication := by
    intro l; simp only [State.commandCloseStack]; split
    · exact labelWorkOnly_publication (closeAndFault_labelWork s l .host)
    · rfl
  have hl : ∀ l, (s.commandClearLane l).1.writer.publication = s.writer.publication := by
    intro l; simp only [State.commandClearLane]; split
    · rfl
    · simp only []; split
      · rfl
      · exact labelWorkOnly_publication (testStopped_labelWork (s.setService l .off))
  have hb : ∀ l, (s.commandBypass l).1.writer.publication = s.writer.publication := by
    intro l; simp only [State.commandBypass]; split <;> rfl
  have hu : ∀ l, (s.commandUnbypass l).1.writer.publication = s.writer.publication := by
    intro l; simp only [State.commandUnbypass]; split <;> rfl
  have hc : s.commandClearHalt.1.writer.publication = s.writer.publication := by
    simp only [State.commandClearHalt]; split
    · rfl
    · split <;> rfl
  simp only [State.engineAction]
  split
  · split
    · exact commandRun_publication s o
    · rfl
  · split
    · exact commandDrain_publication s o
    · rfl
  · exact labelWorkOnly_publication (takeHalt_labelWork s .command)
  · exact hc
  · split
    · exact hs _
    · rfl
  · split
    · exact hl _
    · rfl
  · split
    · exact hb _
    · rfl
  · split
    · exact hu _
    · rfl
  · rfl
theorem engineCommand_publication (s : State) (d : Word) :
    (s.engineCommand d).writer.publication = s.writer.publication := by
  simp only [State.engineCommand]; split
  · show (State.announceReply _ _ _).writer.publication = _
    unfold State.announceReply; split
    · exact engineAction_publication s _ _
    · exact (give_publication _ _).trans (engineAction_publication s _ _)
  · exact give_publication s _

theorem recheckWindow_publication (s : State) (n : WindowName) :
    (s.recheckWindow n).writer.publication = s.writer.publication := by
  simp only [State.recheckWindow]; split
  · rw [give_publication]; cases n <;> rfl
  · rfl
theorem resetRing_publication (s : State) (e : MapEntryName) :
    (s.resetRing e).writer.publication = s.writer.publication := by cases e <;> rfl

theorem writeControl_publication (s : State) (off : Nat) (d : Word) :
    (s.writeControl off d).writer.publication = s.writer.publication := by
  have refused : ∀ b, (s.refuseProtected b).writer.publication = s.writer.publication := fun b =>
    giveRaise_publication s .protection b
  unfold State.writeControl
  split
  · exact refused _
  · rfl
  · exact engineCommand_publication s d
  · rfl
  · rfl
  · rfl
  · rfl
  · rename_i x _
    unfold State.writeSetting; split
    · exact giveRaise_publication s .settingRefused _
    · split
      · exact giveRaise_publication s .settingRefused _
      · show (State.settleScrub _ _).writer.publication = _
        unfold State.settleScrub; split <;> rfl
  · rename_i e _
    unfold State.writeMap; split
    · exact giveRaise_publication s .settingRefused _
    · exact ((recheckWindow_publication _ _).trans (recheckWindow_publication _ _)).trans (resetRing_publication _ e)
  · unfold State.writeLock
    simp only [State.storeControl, State.endOk, State.endHost, State.storeWord, State.storeLocation]
    split
    · split
      · rfl
      · split
        · rfl
        · exact giveRaise_publication s _ _
    · split
      · rfl
      · exact giveRaise_publication s _ _
  · unfold State.writePut; simp only []; split
    · rfl
    · exact refused _
  · unfold State.writeStackRead; simp only []; split
    · rfl
    · exact refused _
  · unfold State.writeEventRead; simp only []; split
    · rfl
    · exact refused _
  · rfl
  · rename_i n k _
    have hw : ∀ w, (s.setExemptWindow n w).writer.publication = s.writer.publication := by intro w; cases n <;> rfl
    unfold State.writeWindow
    simp only [State.storeControl, State.endOk, State.endHost, State.storeWord, State.storeLocation]
    split
    · exact (giveRaise_publication _ _ _).trans (hw _)
    · exact hw _

theorem takeVerdict_publication (s : State) (a : Nat) (d : Word) :
    (s.takeVerdict a d).writer.publication = s.writer.publication := by
  show (s.applyVerdict d (s.verdictOutcome d)).writer.publication = _
  cases s.verdictOutcome d
  · rfl
  · rfl
  · exact giveRaise_publication s _ _
  · exact give_publication s _
  · exact give_publication s _

theorem hostWrite_publication (s : State) (a : Nat) (d : Word) :
    (s.hostWrite a d).writer.publication = s.writer.publication := by
  have block : ∀ l, (s.blockWrite l a).writer.publication = s.writer.publication := fun _ => giveRaise_publication s .protection _
  unfold State.hostWrite
  split
  · rfl
  · rfl
  · split
    · exact block _
    · rfl
  · exact takeVerdict_publication s a d
  · exact block _
  · exact block _
  · exact writeControl_publication s _ d

theorem hostPartialWrite_publication (s : State) (a : Nat) (d : Word) (be : BitVec 4) :
    (s.hostPartialWrite a d be).writer.publication = s.writer.publication := by
  have block : ∀ l, (s.blockWrite l a).writer.publication = s.writer.publication := fun _ => giveRaise_publication s .protection _
  have refuse : (s.refusePartial a be).writer.publication = s.writer.publication :=
    giveRaise_publication s .protection _
  have merge : (s.checkedMerge a d be).writer.publication = s.writer.publication := by
    unfold State.checkedMerge; dsimp only; split
    · rfl
    · rfl
    · rename_i b _
      exact detectCorrectable_publication (State.storeWord _ _ _) .hostWrite a b
    · exact consumeUncorrectable_publication (State.storeLocation _ _ _) .hostWrite a _
  unfold State.hostPartialWrite
  split
  · exact merge
  · split
    · exact block _
    · exact merge
  · rfl
  · exact refuse
  · exact refuse
  · exact block _
  · exact block _

/-- No host cycle touches the publication set before its step ends. -/
theorem hostWork_publication (s : State) (c : HostCycle) : (s.hostWork c).writer.publication = s.writer.publication := by
  cases c with
  | read a => exact hostRead_publication s _
  | write a d => exact hostWrite_publication s _ d
  | partialWrite a d be =>
    simp only [State.hostWork]; split
    · exact hostPartialWrite_publication s _ d be
    · exact hostWrite_publication s _ d

/-- Nor does the work of a FETCH grant, -/
theorem fetchWork_publication (s : State) : s.fetchWork.writer.publication = s.writer.publication := by
  unfold State.fetchWork; split
  · rfl
  · split
    · rfl
    · rename_i l _ r _
      unfold State.readSlotWord
      show (State.reportFetch _ _ _ _).writer.publication = _
      unfold State.reportFetch; split
      · rfl
      · rfl
      · exact (offerScrub_publication _ _).trans (detectCorrectable_publication _ _ _ _)
      · rfl

/-- nor that of a MEMCMD grant, -/
theorem memWork_publication (s : State) (k : MemKind) : (s.memWork k).writer.publication = s.writer.publication := by
  cases k with
  | scrub =>
    show (State.scrubWork _).writer.publication = _
    have h : ∀ u : State, u.scrubWork.writer.publication = u.writer.publication := by
      intro u; unfold State.scrubWork; split
      · rfl
      · dsimp only; split
        · rfl
        · rename_i a rest _ _
          show (State.scrubAddress (State.lockPort { u with scrubQueue := rest }) a).writer.publication = _
          unfold State.scrubAddress; dsimp only; split
          · rfl
          · rfl
          · exact detectCorrectable_publication _ _ _ _
          · exact consumeUncorrectable_publication _ _ _ _
    exact h _
  | walk =>
    show (State.walkWork _).writer.publication = _
    have h : ∀ u : State, u.walkWork.writer.publication = u.writer.publication := by
      intro u; unfold State.walkWork; split
      · unfold State.verifyAt; dsimp only; split
        · rfl
        · split
          · rfl
          · rfl
          · rename_i b _
            exact detectCorrectable_publication (State.storeWord _ _ _) .verify u.mem.progress b
          · exact consumeUncorrectable_publication u.lockPort .verify _ _
      · split
        · unfold State.clearAt; split <;> rfl
        · rfl
    exact h _

/-- nor a RECORD grant's record words. -/
theorem recordWork_publication (s : State) (k : RecordKind) (h : k ≠ .status) :
    (s.recordWork k).writer.publication = s.writer.publication := by
  cases k with
  | status => exact absurd rfl h
  | event =>
    show (State.eventWork _).writer.publication = _
    have h : ∀ u : State, u.eventWork.writer.publication = u.writer.publication := by
      intro u; unfold State.eventWork; split
      · rfl
      · split <;> rfl
    exact h _
  | stack =>
    show (State.stackWork _).writer.publication = _
    have h : ∀ u : State, u.stackWork.writer.publication = u.writer.publication := by
      intro u; unfold State.stackWork; split
      · rfl
      · split
        · rfl
        · unfold State.completeStack State.unpark
          dsimp only; split
          · rfl
          · split <;> rfl
    exact h _

/-! ## The rows by what they are -/

/-- A row that is a host cycle presents one. -/
theorem hostCycleRow_exec (c : Instr) (s : State) (h : hostCycleRow c = true) :
    ∃ x, exec c s = .next (s.hostCycle x) := by
  cases c <;> first
    | exact ⟨_, rfl⟩
    | cases h

/-- Neither the publication set nor the arbiter is touched. -/
def State.booksKept (s t : State) : Prop := t.writer.publication = s.writer.publication ∧ t.arbiter = s.arbiter

theorem labelWorkOnly_booksKept {s t : State} (h : s.labelWorkOnly t) : s.booksKept t := by
  constructor <;> rw [h] <;> rfl
theorem booksKept_trans {s t u : State} (h : s.booksKept t) (k : t.booksKept u) : s.booksKept u :=
  ⟨k.1.trans h.1, k.2.trans h.2⟩

theorem encoderTransition_booksKept (s : State) (a b : Bool) : s.booksKept (s.encoderTransition a b) := by
  have tick : ∀ u : State, u.booksKept u.forwardTick := by
    intro u; unfold State.forwardTick; split
    · exact labelWorkOnly_booksKept (s := { u with web := { u.web with position := u.web.position + 1 } })
        (forLanes_labelWork (fun s l => setLane_labelWork s l _) _)
    · exact ⟨rfl, rfl⟩
  have back : ∀ u : State, u.booksKept u.reverseTick := by
    intro u; simp only [State.reverseTick]; split
    · unfold State.reverseLimitCondition; split
      · have k := labelWorkOnly_booksKept (enterHalted_labelWork
          { u with web := { u.web with backlog := raiseHolding Config.backlogHold u.web.backlog } } .reverseLimit)
        exact ⟨k.1, k.2⟩
      · exact ⟨rfl, rfl⟩
    · exact ⟨rfl, rfl⟩
  simp only [State.encoderTransition]
  split
  · exact ⟨rfl, rfl⟩
  · split
    · exact tick { s with web := { s.web with refA := a, refB := b } }
    · split
      · exact back { s with web := { s.web with refA := a, refB := b } }
      · exact labelWorkOnly_booksKept (s := { s with web := { s.web with refA := a, refB := b } }) (give_labelWork _ _)

/-- A row that is neither a host cycle, a grant nor of the power and reset family is one block's act, which touches
neither the publication set nor the arbiter. -/
theorem blockRow_exec (c : Instr) (s : State) (h1 : hostCycleRow c = false) (h2 : grantRow c = false)
    (h3 : resetRow c = false) : ∃ f : State → State, exec c s = .next (s.act f) ∧ s.booksKept (f s) := by
  have kept : ∀ {t : State}, s.labelWorkOnly t → s.booksKept t := labelWorkOnly_booksKept
  cases c with
  | encoderTransition a b => exact ⟨_, rfl, encoderTransition_booksKept s a b⟩
  | spliceStart =>
    refine ⟨_, rfl, ?_⟩
    unfold State.spliceRise; split
    · exact ⟨rfl, rfl⟩
    · exact labelWorkOnly_booksKept (s := { s with web := { s.web with splice := true } })
        (labelWorkOnly_trans (forLanes_labelWork (fun s l => setLane_labelWork s l _) _) (give_labelWork _ _))
  | spliceFall => exact ⟨_, rfl, rfl, rfl⟩
  | markEvent l => exact ⟨_, rfl, kept (markPulse_labelWork s l)⟩
  | markWindowExpiry l => exact ⟨_, rfl, kept (takeExpiry_labelWork s l)⟩
  | deadlineEvent l =>
    refine ⟨_, rfl, kept ?_⟩
    unfold State.takeDeadline; split
    · exact labelWorkOnly_refl s
    · exact labelWorkOnly_ite (labelWorkOnly_trans (setLane_labelWork s l _) (give_labelWork _ _))
        (setLane_labelWork s l _)
  | cutEvent l =>
    refine ⟨_, rfl, kept ?_⟩
    unfold State.takeCut; split
    · exact labelWorkOnly_refl s
    · exact setLane_labelWork s l _
  | confirmLimitEvent l => exact ⟨_, rfl, kept (takeConfirmLimit_labelWork s l)⟩
  | knifePulseEnd l => exact ⟨_, rfl, rfl, rfl⟩
  | kdone l =>
    refine ⟨_, rfl, kept ?_⟩
    unfold State.kdonePulse
    exact labelWorkOnly_ite (give_labelWork s _) (setLane_labelWork s l _)
  | gateEvent l => exact ⟨_, rfl, kept (takeGate_labelWork s l)⟩
  | trayReady l =>
    refine ⟨_, rfl, kept ?_⟩
    unfold State.trayReadyPulse; split
    · exact setLane_labelWork s l _
    · exact setLane_labelWork s l _
    · exact give_labelWork s _
  | trayPulseEnd l => exact ⟨_, rfl, rfl, rfl⟩
  | safeRise => exact ⟨_, rfl, kept (safeRise_labelWork s)⟩
  | safeFall => exact ⟨_, rfl, rfl, rfl⟩
  | fetchStart l =>
    refine ⟨_, rfl, ?_⟩
    simp only [State.startFetch]; split <;> exact ⟨rfl, rfl⟩
  | powerOn _ => cases h3
  | startUpImageComplete _ => cases h3
  | lineReset _ _ => cases h3
  | _ => first
    | (cases h1; done)
    | (cases h2; done)

/-! ## What the end of a step places -/

theorem publishedWord_commit (p q : State) (x : List Nat) (o : Nat) :
    (State.commitExcept p q x).publishedWord o = q.publishedWord o := rfl

/-- The words that a step's end places, given that its work left the set. -/
theorem commitExcept_publication (p q : State) (x : List Nat) (h : q.writer.publication = p.writer.publication) :
    (State.commitExcept p q x).writer.publication =
      p.publicationWith ((p.wordsChanged (State.commitExcept p q x)).filter (fun o => !x.contains o)) := by
  show q.writer.publication ++ (changedWords p q x).filter (fun o => !q.writer.publication.contains o) = _
  rw [h]
  simp only [State.publicationWith, State.wordsChanged, changedWords, List.filter_filter, publishedWord_commit]
  congr 2
  funext o
  simp only [Bool.and_comm, Bool.and_left_comm]
theorem commit_publication (p q : State) (h : q.writer.publication = p.writer.publication) :
    (State.commit p q).writer.publication = p.publicationWith (p.wordsChanged (State.commit p q)) := by
  have e := commitExcept_publication p q [] h
  simpa [State.commit] using e

/-- A state's own words do not differ. -/
theorem publicationWith_self (s : State) : s.publicationWith (s.wordsChanged s) = s.writer.publication := by
  simp [State.publicationWith, State.wordsChanged]

end Sys2Proof.Machine
end

