-- ==== Sys2Proof/Laws/Queues.lean ====
section
/-! SUPPORT. The first record of a queue that an event takes, the steps of the label and lane blocks, and the gate
event cut into its parts. -/

namespace Sys2Proof.Machine

/-! ## The first that meets a test -/

/-- An update of the first element that meets a test, in a list cut at that element. -/
theorem updateFirst_split {α} {p : α → Bool} {f : α → α} {b : List α} {x : α} {a : List α}
   (h : ∀ y ∈ b, p y = false) (hx : p x = true) : updateFirst p f (b ++ x :: a) = b ++ f x :: a := by
  induction b with
  | nil => simp [updateFirst, hx]
  | cons y b ih => simp [updateFirst, h y (by simp), ih (fun z hz => h z (by simp [hz]))]

/-- The first element that meets a test, in a list cut at it. -/
theorem find_split {α} {p : α → Bool} {b : List α} {x : α} {a : List α}
   (h : ∀ y ∈ b, p y = false) (hx : p x = true) : (b ++ x :: a).find? p = some x := by
  induction b with
  | nil => simp [hx]
  | cons y b ih => simp [h y (by simp), ih (fun z hz => h z (by simp [hz]))]

/-- A confirm limit taken in a queue cut at the record whose limit is due (05 R79). -/
theorem confirmQueue_split {b : List LabelRecord} {r : LabelRecord} {a : List LabelRecord} (h :
    ∀ y ∈ b, y.due.confirmLimit = false) (hx : r.due.confirmLimit = true) :
   confirmQueue (b ++ r :: a) = b ++ (if r.cutState = .fired then r.dropConfirm.miss :: (match a with
          | [] => []
          | f :: fs => f.flagJoined :: fs) else r.dropConfirm :: a) := by
  induction b with
  | nil =>
    show (if r.due.confirmLimit then _ else _) = _
    rw [if_pos hx]; rfl
  | cons y b ih =>
    show (if y.due.confirmLimit then _ else _) = _
    rw [h y (by simp), if_neg (by simp), List.append_eq, ih (fun z hz => h z (by simp [hz]))]; rfl

/-! ## Steps -/

/-- A step of the label and lane blocks: it stores nothing, and beside its own work only the bookkeeping changes. -/
theorem act_labelWork {s : State} {f : State → State} (h : s.labelWorkOnly (f s)) : s.sameMemory (s.act f) ∧
    s.act f = (s.labelWorkAs (s.act f)).bookkeptAs (s.act f) := by
  refine ⟨act_sameMemory rfl (by rw [h]; rfl) (by rw [h]; rfl), ?_⟩
  have := act_bookkept s f
  rw [this]
  conv_lhs => rw [h]
  rfl

/-- The lanes after a step are those of its own work. -/
theorem act_lane (s : State) (f : State → State) (m) : (s.act f).lane m = (f s).lane m := rfl

/-- The early table after a step is that of its own work. -/
theorem act_early (s : State) (f : State → State) : (s.act f).early = (f s).early := rfl

/-- An event given and a lane replaced, in either order. -/
theorem give_setLane (l : Lane) (u : State) (b : EventBody) (x : LaneState) :
    (u.give b).setLane l x = (u.setLane l x).give b := by
  by_cases h : u.settings.reportingMode.keeps b.code.severity = true
  · by_cases h2 : u.writer.events.length < Config.eventPlaces
    · simp [State.give, State.giveAt, State.setLane, h, h2]
    · simp [State.give, State.giveAt, State.setLane, State.raiseClass, h, h2]
  · simp [State.give, State.giveAt, State.setLane, h]

/-! ## The gate event -/

/-- The lane without its head record, written out (02 R33, 03 R52). -/
theorem withoutHead_eq (x : LaneState) (r : LabelRecord) : x.withoutHead r = { x with
    queue := x.queue.tail
    departed := x.departed + 1
    release := (if r.slot.isSome then x.release + 1 else x.release) } := by
  unfold LaneState.withoutHead LaneState.releaseFor LabelRecord.holdsOrder
  cases r.slot.isSome <;> rfl

/-- The gate event of a due head record, in its parts. -/
theorem takeGate_eq (s : State) (l : Lane) (r : LabelRecord) (rest) (hq : (s.lane l).queue = r :: rest) (hd :
    r.due.gate = true) :
   s.takeGate l = (((s.setLane l ((s.lane l).withoutHead r)).takeItem l r).testClose l r).afterGate l := by
  unfold State.takeGate
  rw [hq]; simp only [hd, if_true]

/-- Nothing follows a gate event that ends no drain and no run-out. -/
theorem afterGate_none (s : State) (l) (h1 : ¬ ((s.lane l).service = .draining ∧ (s.lane l).orderedCount = 0)) (h2 :
    ¬ ((s.lane l).service.isFaulted = true ∧ (s.lane l).queue.isEmpty = true)) :
   s.afterGate l = s := by unfold State.afterGate; rw [if_neg h1, if_neg h2]

/-- A STACK label under a FILLING stacker and of the batch of any open stack is delivered (06 R93). -/
theorem takeStackLabel_deliver (s : State) (l r tray) (hst : (s.lane l).stacker = .filling tray) (hbd :
    (s.lane l).batchDiffers r.batch = false) :
   s.takeStackLabel l r = (s.setLane l ((s.lane l).deliver tray (r.batch.getD 0) r.target r.serial)).setGate l .stack
       := by
  unfold State.takeStackLabel; rw [hst]; simp only [hbd]; rfl

/-- A close of an open stack that finds room in the holding list (06 R98). -/
theorem closeAndFault_open (s : State) (l : Lane) (w : CloseReason) (k : OpenStack)
    (hk : (s.lane l).openStack = some k) (room : s.writer.holding.length < 4) (tray : Tray)
    (hst : (s.lane l).stacker = .filling tray) : s.closeAndFault l w = ((s.setLane l { s.lane l with
      openStack := none, trayPulse := true, stacker := .transferring tray }).holdingAs
        (s.writer.holding ++ [k.record l w])).give
      { code := .stackClosed, lane := some l, address := some w.code,
        value := some (k.sequence.setWidth 32) } := by
  rw [closeAndFault_room s l w room, closeStack_room s l w k hk room]
  simp only [LaneState.afterStackClose, hst, Stacker.changing]

/-- A fault of a lane with records queued and no stack open: no run-out is complete. -/
theorem laneFault_noStack (s : State) (l : Lane) (c : FaultCause) (hb : (s.lane l).service ≠ .bypassed)
    (hf : (s.lane l).service.isFaulted = false) (hq : (s.lane l).queue ≠ []) :
     s.laneFault l c = (s.faultedAt l c).settleEngine := by
  rw [laneFault_eq s l c hb hf, if_neg]
  rw [faultedAt_lane_self]
  simpa [LaneState.rewound, LaneState.faultedBy] using hq

end Sys2Proof.Machine
end

