-- ==== Sys2Proof/Laws/Requests.lean ====
section
/-! SUPPORT. The requests of the internal requesters and the arbiter's books (08 R138, R139, 09 R152): when a
requester has
a request pending, which kind it serves next, and what every step's end leaves of the arbiter. -/

namespace Sys2Proof.Machine

/-- A search finds the first element that satisfies its test. -/
theorem find_firstIn {α} (l : List α) (p : α → Bool) (x : α) : l.find? p = some x ↔ firstIn l (fun y => p y =
    true) x := by
  rw [List.find?_eq_some_iff_append]
  simp only [firstIn, Bool.not_eq_true', Bool.not_eq_true]

/-- Equivalent tests have one first element. -/
theorem firstIn_congr {α} (l : List α) (p q : α → Prop) (x : α) (h : ∀ y, p y ↔ q y) : firstIn l p x ↔ firstIn l q x
    := by
  have : p = q := funext fun y => propext (h y)
  rw [this]

/-- The kinds of MEMCMD work that wait (09 R152). -/
theorem memWaiting_iff (s : State) (k) : s.memWaiting k = true ↔
    (match k with
    | .scrub => s.scrubQueue ≠ []
    | .walk => s.mem.state = .busy) := by
  cases k <;> simp [State.memWaiting]

/-- The kind presented next: a waiting one that was not served last, or the only one (09 R152). -/
theorem presentedMem_iff (s : State) (k) : s.presentedMem = some k ↔ s.memWaiting k = true ∧
    (s.mem.lastKind ≠ k ∨ ∀ j, s.memWaiting j = true → j = k) := by
  have all : ∀ P : MemKind → Prop, (∀ j, P j) ↔ P .scrub ∧ P .walk := fun P => ⟨fun h => ⟨h _, h _⟩,
      fun h j => by cases j <;> simp [h.1, h.2]⟩
  simp only [State.presentedMem, all]
  have h : ∀ k, s.memWaiting k = true ∨ s.memWaiting k = false := fun k => by cases s.memWaiting k <;> simp
  cases hl : s.mem.lastKind <;> rcases h .scrub with a | a <;> rcases h .walk with b | b <;> cases k <;>
    simp [List.find?, a, b]

/-- The kind served next: the one presented, while it waits; else the one presented next. -/
theorem nextMem_iff (s : State) (k) : s.nextMem = some k ↔ s.memWaiting k = true ∧ (s.arbiter.memRequest = some k ∨
      (∀ j, s.arbiter.memRequest = some j → ¬ s.memWaiting j = true) ∧ (s.mem.lastKind ≠ k ∨ ∀ j, s.memWaiting j =
          true → j = k)) := by
  unfold State.nextMem
  cases hr : s.arbiter.memRequest with
  | none => simp [presentedMem_iff]
  | some j =>
    by_cases hw : s.memWaiting j = true
    · simp only [Option.filter_some, hw, if_true, Option.some_or, Option.some.injEq]
      constructor
      · rintro rfl; exact ⟨hw, .inl rfl⟩
      · rintro ⟨_, h | ⟨h, _⟩⟩
        · exact h
        · exact absurd hw (h j rfl)
    · simp only [Option.filter_some, hw, Bool.false_eq_true, if_false, Option.none_or, presentedMem_iff,
        Option.some.injEq]
      constructor
      · rintro ⟨a, b⟩; exact ⟨a, .inr ⟨fun i hi => hi ▸ (by simpa using hw), b⟩⟩
      · rintro ⟨a, h | ⟨_, h⟩⟩
        · subst h; exact absurd a (by simpa using hw)
        · exact ⟨a, h⟩

/-- MEMCMD has a request pending exactly while a kind of its work waits. -/
theorem requesting_memcmd (s : State) : s.requesting .memcmd = true ↔ ∃ k, s.memWaiting k = true := by
  show s.nextMem.isSome = true ↔ _
  rw [Option.isSome_iff_exists]
  constructor
  · rintro ⟨k, h⟩; exact ⟨k, ((nextMem_iff s k).mp h).1⟩
  · rintro ⟨k, h⟩
    by_contra hn
    push Not at hn
    have n := fun k => (not_congr (nextMem_iff s k)).mp (hn k)
    by_cases hr : ∃ j, s.arbiter.memRequest = some j ∧ s.memWaiting j = true
    · obtain ⟨j, h1, h2⟩ := hr
      exact n j ⟨h2, .inl h1⟩
    · push Not at hr
      by_cases ho : ∃ j, s.memWaiting j = true ∧ s.mem.lastKind ≠ j
      · obtain ⟨j, h1, h2⟩ := ho
        exact n j ⟨h1, .inr ⟨fun i hi => by simpa using hr i hi, .inl h2⟩⟩
      · push Not at ho
        exact n k ⟨h, .inr ⟨fun i hi => by simpa using hr i hi, .inr (fun j hj => (ho j hj).symm.trans (ho k h))⟩⟩

/-- What the settling of the requests leaves: the same requests, counts of 0 without one, the next request presented. -/
theorem settleRequests_arbiter (u : State) : let t := u.settleRequests
    (∀ r, t.requesting r = u.requesting r) ∧ (∀ r, t.arbiter.bypass r = if t.requesting r =
        true then u.arbiter.bypass r else 0) ∧
    t.arbiter.lastServed = u.arbiter.lastServed ∧ t.arbiter.lastLane = u.arbiter.lastLane ∧ t.arbiter.memRequest =
        u.nextMem ∧ t.nextMem = u.nextMem := by
  intro t
  have rq : ∀ r, t.requesting r = u.requesting r := by
    intro r
    cases r with
    | fetch => rfl
    | record => rfl
    | memcmd => rw [Bool.eq_iff_iff, requesting_memcmd, requesting_memcmd]; rfl
  refine ⟨rq, ?_, rfl, rfl, rfl, ?_⟩
  · intro r; rw [rq]; cases r <;> rfl
  · apply Option.ext; intro k
    have e : t.arbiter.memRequest = u.nextMem := rfl
    rw [nextMem_iff t k, e]
    constructor
    · rintro ⟨a, h | ⟨h, b⟩⟩
      · exact h
      · have : u.nextMem = none := by
          cases hn : u.nextMem with
          | none => rfl
          | some j => exact absurd ((nextMem_iff u j).mp hn).1 (h j hn)
        have hr : u.requesting .memcmd = true := (requesting_memcmd u).mpr ⟨k, a⟩
        have : u.nextMem.isSome = true := hr
        simp_all
    · intro h
      exact ⟨((nextMem_iff u k).mp h).1, .inl h⟩

/-- What a step's end leaves of the arbiter. -/
theorem commitExcept_arbiter (p q : State) (x) : let t := State.commitExcept p q x
    (∀ r, t.arbiter.bypass r = if t.requesting r = true then q.arbiter.bypass r else 0) ∧
    t.arbiter.lastServed = q.arbiter.lastServed ∧ t.arbiter.lastLane = q.arbiter.lastLane ∧ t.arbiter.memRequest =
        q.nextMem ∧ t.nextMem = q.nextMem := by
  intro t
  obtain ⟨_, h2, h3, h4, h5, h6⟩ := settleRequests_arbiter (State.publishExcept p q x).freePort
  refine ⟨fun r => ?_, h3, h4, h5, h6⟩
  refine (h2 r).trans ?_; cases r <;> rfl

/-- A presented request whose work still waits stays presented at a step's end. -/
theorem memRequest_kept (q t : State) (k) (hq : t.arbiter.memRequest = q.nextMem) (hw : t.memWaiting k =
    q.memWaiting k) (h : q.arbiter.memRequest = some k) (w : t.memWaiting k = true) : t.arbiter.memRequest = some k
        := by
  rw [hq, nextMem_iff]
  exact ⟨by rw [← hw]; exact w, .inl h⟩

/-- A host cycle's work touches nothing of the arbiter but the lock flag. -/
theorem hostWork_arbiter (s : State) (c : HostCycle) : ∃ b, (s.hostWork c).arbiter = { s.arbiter with lock := b } := by
  have hw : ∀ (a : Nat) (d : Word), (s.hostWrite a d).arbiter = s.arbiter := fun a d =>
    arbiter_of_commutes (f := fun u => u.hostWrite a d) (fun u y => hostWrite_withArbiter u y a d) s
  cases c with
  | read a => exact ⟨s.arbiter.lock, (arbiter_of_commutes (f := fun u => u.hostRead a.toNat)
      (fun u y => hostRead_withArbiter u y a.toNat) s)⟩
  | write a d => exact ⟨s.arbiter.lock, hw _ _⟩
  | partialWrite a d be =>
    have cm : ∃ b, (s.checkedMerge a.toNat d be).arbiter = { s.arbiter with lock := b } := by
      refine ⟨true, ?_⟩
      simp only [State.checkedMerge]
      split
      · rfl
      · rfl
      · rename_i b _
        show (State.detectCorrectable _ .hostWrite a.toNat b).arbiter = _
        exact arbiter_of_commutes (f := fun u => u.detectCorrectable .hostWrite a.toNat b)
            (fun u y => detectCorrectable_withArbiter u y _ _ _) _
      · rename_i x _
        show (State.consumeUncorrectable _ .hostWrite a.toNat x).arbiter = _
        exact arbiter_of_commutes (f := fun u => u.consumeUncorrectable .hostWrite a.toNat x)
            (fun u y => consumeUncorrectable_withArbiter u y _ _ _) _
    have bl : ∀ b, (s.refuseProtected b).arbiter = s.arbiter := fun b => by simp [State.refuseProtected,
        State.giveRaise, State.raiseClass, State.endError, State.endHost, State.give]
    simp only [State.hostWork]; split
    · unfold State.hostPartialWrite; split
      · exact cm
      · split
        · exact ⟨s.arbiter.lock, bl _⟩
        · exact cm
      · exact ⟨true, rfl⟩
      · exact ⟨s.arbiter.lock, bl _⟩
      · exact ⟨s.arbiter.lock, bl _⟩
      · exact ⟨s.arbiter.lock, bl _⟩
      · exact ⟨s.arbiter.lock, bl _⟩
    · exact ⟨s.arbiter.lock, hw _ _⟩

/-- FETCH work touches nothing of the arbiter but the last lane served. -/
theorem fetchWork_arbiter (s : State) :
    s.fetchWork.arbiter = { s.arbiter with lastLane := s.fetchLane.elim s.arbiter.lastLane id } ∨
      (s.fetchWork = s ∧ ∃ l, s.fetchLane = some l ∧ (s.lane l).reservation = none) := by
  unfold State.fetchWork
  cases h : s.fetchLane with
  | none => left; rfl
  | some l =>
    cases hr : (s.lane l).reservation with
    | none => right; simp only [hr]; exact ⟨trivial, l, rfl, hr⟩
    | some r =>
      left
      simp only [hr, State.readSlotWord]
      show (State.reportFetch _ _ _ _).arbiter = _
      unfold State.reportFetch; split
      · rfl
      · rfl
      · rename_i b _
        rw [arbiter_of_commutes (f := fun u => u.offerScrub _)
            (fun u y => offerScrub_withArbiter u y _) (State.detectCorrectable _ _ _ _)]
        exact arbiter_of_commutes (f := fun u => u.detectCorrectable _ _ b)
            (fun u y => detectCorrectable_withArbiter u y _ _ _) _
      · rfl

/-- MEMCMD work touches nothing of the arbiter but the lock flag. -/
theorem memWork_arbiter (s : State) (k) : ∃ b, (s.memWork k).arbiter = { s.arbiter with lock := b } := by
  have dc : ∀ (u : State) s a b, (u.detectCorrectable s a b).arbiter = u.arbiter :=
      fun u s a b => arbiter_of_commutes (f := fun u => u.detectCorrectable s a b)
          (fun u y => detectCorrectable_withArbiter u y _ _ _) _
  have cu : ∀ (u : State) s a b, (u.consumeUncorrectable s a b).arbiter = u.arbiter :=
      fun u s a b => arbiter_of_commutes (f := fun u => u.consumeUncorrectable s a b)
          (fun u y => consumeUncorrectable_withArbiter u y _ _ _) _
  cases k with
  | scrub =>
    simp only [State.memWork, State.scrubWork]
    split
    · exact ⟨s.arbiter.lock, rfl⟩
    · split
      · exact ⟨s.arbiter.lock, rfl⟩
      · refine ⟨true, ?_⟩
        simp only [State.scrubAddress]; split
        · rfl
        · rfl
        · rw [dc]; rfl
        · rw [cu]; rfl
  | walk =>
    simp only [State.memWork, State.walkWork]
    split
    · simp only [State.verifyAt]; split
      · exact ⟨s.arbiter.lock, rfl⟩
      · refine ⟨true, ?_⟩
        split
        · rfl
        · rfl
        · rename_i b _
          show (State.detectCorrectable (State.storeWord (State.lockPort (s.servedMem .walk)) _ _) .verify
              (s.servedMem .walk).mem.progress b).arbiter = _
          rw [dc]; rfl
        · rename_i d _
          show (State.consumeUncorrectable (State.lockPort (s.servedMem .walk)) .verify (s.servedMem
              .walk).mem.progress d).arbiter = _
          rw [cu]; rfl
    · split
      · simp only [State.clearAt]; split
        · exact ⟨s.arbiter.lock, rfl⟩
        · exact ⟨true, rfl⟩
      · exact ⟨s.arbiter.lock, rfl⟩

/-- MEMCMD work remembers its kind. -/
theorem memWork_lastKind (s : State) (k) : (s.memWork k).mem.lastKind = k := by
  cases k with
  | scrub =>
    have h : ∀ u : State, u.scrubWork.mem = u.mem := by
      intro u; unfold State.scrubWork; split
      · rfl
      · dsimp only; split
        · rfl
        · unfold State.scrubAddress; dsimp only; split
          · rfl
          · rfl
          · simp [State.detectCorrectable, State.countCorrection, State.storeWord, State.storeLocation,
              State.lockPort, State.giveRaise, State.raiseClass, State.give]; split <;> simp
          · simp [State.consumeUncorrectable, State.offerUncorrectable, State.reportUncorrectable, State.lockPort,
              State.giveRaise, State.raiseClass, State.give]
    show (State.scrubWork _).mem.lastKind = _
    rw [h]; rfl
  | walk =>
    have ad : ∀ m : MemUnit, m.advance.lastKind = m.lastKind :=
        by intro m; unfold MemUnit.advance; dsimp only; split <;> rfl
    have hh : ∀ u : State, u.walkWork.mem.lastKind = u.mem.lastKind := by
      intro u; unfold State.walkWork; split
      · unfold State.verifyAt; dsimp only; split
        · exact ad _
        · split
          · exact ad _
          · exact ad _
          · exact ad _
          · show (MemUnit.verifyFault _).lastKind = _
            unfold MemUnit.verifyFault; dsimp only; split
            · exact ad _
            · rfl
      · split
        · unfold State.clearAt; split
          · rfl
          · exact ad _
        · rfl
    show (State.walkWork _).mem.lastKind = _
    rw [hh]; rfl

/-- RECORD work remembers its kind. -/
theorem recordWork_lastKind (s : State) (k) : (s.recordWork k).writer.lastKind = k := by
  cases k with
  | stack =>
    have h : ∀ u : State, u.stackWork.writer.lastKind = u.writer.lastKind := by
      intro u; unfold State.stackWork; split
      · rfl
      · split
        · rfl
        · unfold State.completeStack State.unpark; dsimp only; split
          · rfl
          · split <;> rfl
    show (State.stackWork _).writer.lastKind = _
    rw [h]; rfl
  | event =>
    have h : ∀ u : State, u.eventWork.writer.lastKind = u.writer.lastKind := by
      intro u; unfold State.eventWork; split
      · rfl
      · split <;> rfl
    show (State.eventWork _).writer.lastKind = _
    rw [h]; rfl
  | status =>
    show (State.storeStatusWord _).writer.lastKind = _
    unfold State.storeStatusWord; split <;> rfl

/-- A lane has a fetch read to make while its reservation lacks a word. -/
theorem fetchPending_iff (x : LaneState) : x.fetchPending = true ↔ ∃ r, x.reservation = some r ∧ r.words.length < 4
    := by
  simp only [LaneState.fetchPending, Option.any_eq_true, decide_eq_true_eq]; rfl

/-- A ring that is mapped and has room. -/
theorem takes_iff (e : MapEntry) (w r) : e.takes w r = true ↔ e.base ≠ 0 ∧ (w - r).toNat < 2 ^ e.size.toNat := by
  simp only [MapEntry.takes, MapEntry.mapped, Bool.and_eq_true, decide_eq_true_eq, bne_iff_ne]; rfl

/-- The kinds of RECORD work that wait. -/
theorem recordWaiting_iff (s : State) (k) : s.recordWaiting k = true ↔ (match k with
    | .stack => s.writer.holding ≠ [] ∧
        (32 ≤ s.writer.stackWords ∨ (s.regions.stackRing.base ≠ 0 ∧
            (s.writer.stackWrite - s.writer.stackRead).toNat < 2 ^ s.regions.stackRing.size.toNat))
    | .event => s.writer.events ≠ [] ∧
        (4 ≤ s.writer.eventWords ∨ (s.regions.eventRing.base ≠ 0 ∧
            (s.writer.eventWrite - s.writer.eventRead).toNat < 2 ^ s.regions.eventRing.size.toNat))
    | .status => s.writer.publication ≠ []) := by
  cases k with
  | stack => simp only [State.recordWaiting, State.stackWaiting, Bool.and_eq_true, Bool.or_eq_true, takes_iff,
      decide_eq_true_eq]; simp [Config.stackRecordWords]
  | event => simp only [State.recordWaiting, State.eventWaiting, Bool.and_eq_true, Bool.or_eq_true, takes_iff,
      decide_eq_true_eq]; simp [Config.eventRecordWords]
  | status => simp [State.recordWaiting]

/-- Some lane satisfies a test. -/
theorem anyLane_iff (p : Lane → Bool) : Lane.inOrder.any p = true ↔ ∃ l, p l = true := by
  rw [List.any_eq_true]
  exact ⟨fun ⟨l, _, h⟩ => ⟨l, h⟩, fun ⟨l, h⟩ => ⟨l, by cases l <;> simp [Lane.inOrder], h⟩⟩

/-- RECORD has a request pending exactly while a kind of its work waits. -/
theorem nextRecord_isSome (s : State) : s.nextRecord.isSome = true ↔ ∃ k, s.recordWaiting k = true := by
  unfold State.nextRecord
  rw [List.find?_isSome]
  constructor
  · rintro ⟨k, _, h⟩; exact ⟨k, h⟩
  · rintro ⟨k, h⟩; exact ⟨k, by cases s.writer.lastKind <;> cases k <;> simp [RecordKind.rotationAfter], h⟩

/-- A requester in turn has a request pending. -/
theorem inTurn_requests (s : State) (r) (h : s.inTurn r = true) : s.requesting r = true := by
  simp only [State.inTurn, Bool.and_eq_true, beq_iff_eq, State.internalChoice] at h
  cases ho : s.owed with
  | some q => rw [ho] at h; simp only [Option.some_or, Option.some.injEq] at h; rw
      [← h.2]; exact (owed_requests s q ho).1
  | none => rw [ho] at h; exact List.find?_some h.2

/-! ## Every command leaves the requests settled; the grants owed -/

/-- Every step's end settles the requests. -/
theorem commitExcept_settled (p q : State) (x) : (State.commitExcept p q x).requestsSettled := by
  obtain ⟨h1, _, _, h4, h5⟩ := commitExcept_arbiter p q x
  refine ⟨fun r hr => ?_, ?_⟩
  · rw [h1 r, hr]; rfl
  · show (State.commitExcept p q x).arbiter.memRequest = (State.commitExcept p q x).nextMem
    rw [h5]; exact h4

/-- What the settled requests rest on. -/
theorem requestsSettled_congr {s t : State} (h : s.requestsSettled) (a : t.arbiter.bypass =
    s.arbiter.bypass) (m : t.arbiter.memRequest = s.arbiter.memRequest) (r : ∀ q, t.requesting q =
        s.requesting q) (n : t.nextMem = s.nextMem) : t.requestsSettled :=
  ⟨fun q hq => by rw [a]; exact h.1 q (by rw [← r]; exact hq), by rw [m, n]; exact h.2⟩

/-- A MEMCMD grant leaves them settled, -/
theorem serveMem_settled (s : State) (k) : (s.serveMem k).requestsSettled := by
  have c := commitExcept_settled s ((s.grantInternal .memcmd).memWork k) []
  simp only [State.serveMem, State.statusLast]
  split
  · refine ⟨fun r hr => ?_, c.2⟩
    cases r with
    | fetch => exact c.1 .fetch hr
    | memcmd => exact c.1 .memcmd hr
    | record =>
      exfalso
      have : (State.setPublication (State.commit s ((s.grantInternal .memcmd).memWork k)) ((State.commit s
          ((s.grantInternal .memcmd).memWork k)).writer.publication.filter (· != 0x024) ++
              [0x024])).nextRecord.isSome = true := by
        rw [nextRecord_isSome]; exact ⟨.status, by simp [State.recordWaiting]⟩
      have hr2 : (State.setPublication (State.commit s ((s.grantInternal .memcmd).memWork k)) ((State.commit s
          ((s.grantInternal .memcmd).memWork k)).writer.publication.filter (· != 0x024) ++
              [0x024])).nextRecord.isSome = false := hr
      rw [this] at hr2; cases hr2
  · exact c

/-- and a host cycle, -/
theorem hostCycle_settled (s : State) (x) (h : s.requestsSettled) : (s.hostCycle x).requestsSettled := by
  unfold State.hostCycle
  split
  · exact commitExcept_settled _ _ _
  · split
    · exact h
    · exact requestsSettled_congr h rfl rfl (fun q => by cases q <;> rfl) rfl

/-- and the end of the image write, -/
theorem imageDone_settled (s : State) : s.imageDone.requestsSettled := by
  unfold State.imageDone
  obtain ⟨h0, h1, _, _, h4, h5⟩ := settleRequests_arbiter (State.publishSplice { s with arbiter :=
      { s.arbiter with imageWriting := false, resetWaiting := false } })
  exact ⟨fun r hr => by rw [h1 r, hr]; rfl, by rw [h5]; exact h4⟩

/-- and a line reset, -/
theorem takeLineReset_settled (s : State) (i m) : (s.takeLineReset i m).requestsSettled := by
  have c := commitExcept_settled (s.lineReset i) ((s.lineReset i).sampleSafe i) []
  simp only [State.takeLineReset]
  split
  · exact requestsSettled_congr c rfl rfl (fun q => by cases q <;> rfl) rfl
  · exact c

/-- and so every command. -/
theorem exec_settled (c : Instr) (s t : State) (h : s.requestsSettled) (he : exec c s = .next t) : t.requestsSettled
    := by
  by_cases h1 : hostCycleRow c = true
  · obtain ⟨x, e⟩ := hostCycleRow_exec c s h1
    rw [e] at he; cases he; exact hostCycle_settled s x h
  · rw [Bool.not_eq_true] at h1
    by_cases h2 : grantRow c = true
    · have go : ∀ (b : Bool) (u : State), u.requestsSettled → (if b = true then u else s).requestsSettled := by
        intro b u hu; cases b
        · exact h
        · exact hu
      have rr : ∀ (p : Prop) [Decidable p] (k : RecordKind), (if p then s.serveRecord k else s).requestsSettled := by
        intro p _ k; split
        · exact commitExcept_settled _ _ _
        · exact h
      have rm : ∀ (p : Prop) [Decidable p] (k : MemKind), (if p then s.serveMem k else s).requestsSettled := by
        intro p _ k; split
        · exact serveMem_settled _ _
        · exact h
      have rf : ∀ (p : Prop) [Decidable p], (if p then s.serveFetch else s).requestsSettled := by
        intro p _; split
        · exact commitExcept_settled _ _ _
        · exact h
      cases c with
      | fetchRead => injection he with he; rw [← he]; exact rf _
      | scrub => injection he with he; rw [← he]; exact rm _ _
      | verifyWord => injection he with he; rw [← he]; exact rm _ _
      | clearWord => injection he with he; rw [← he]; exact rm _ _
      | stackRecordWord => injection he with he; rw [← he]; exact rr _ _
      | stackPublicationComplete => injection he with he; rw [← he]; exact rr _ _
      | eventRecordWord => injection he with he; rw [← he]; exact rr _ _
      | eventPublicationComplete => injection he with he; rw [← he]; exact rr _ _
      | statusPublication => injection he with he; rw [← he]; exact rr _ _
      | _ => cases h2
    · by_cases h3 : resetRow c = true
      · cases c <;> (try (cases h3; done))
        · rename_i i
          simp only [exec, execPowerOn, Host.Outcome.next.injEq] at he
          subst he; exact commitExcept_settled _ _ _
        · rename_i r
          simp only [exec, execStartUpImageComplete, Host.Outcome.next.injEq] at he
          subst he
          split
          · have k : (s.imageDone.takeWaitingReset s.arbiter.resetWaiting r).requestsSettled := by
              unfold State.takeWaitingReset; split
              · split
                · exact takeLineReset_settled _ _ _
                · exact imageDone_settled s
              · exact imageDone_settled s
            unfold State.takeHeldCycle; split
            · apply hostCycle_settled
              exact requestsSettled_congr k rfl rfl (fun q => by cases q <;> rfl) rfl
            · exact k
          · exact h
        · rename_i i m
          simp only [exec, execLineReset, Host.Outcome.next.injEq] at he
          subst he
          split
          · exact requestsSettled_congr h rfl rfl (fun q => by cases q <;> rfl) rfl
          · exact takeLineReset_settled _ _ _
      · obtain ⟨f, e, _⟩ := blockRow_exec c s h1 (by simpa using h2) (by simpa using h3)
        rw [e] at he; cases he; exact commitExcept_settled _ _ _

/-- The grants owed before HOST, one taken. -/
theorem beforeHost_of_owed (s : State) (r) (h : s.owed = some r) : s.beforeHost = (s.serve r).beforeHost := by
  have hc := serve_countsFull s r h
  have key : ∀ n m (u : State), u.countsFull ≤ n → u.countsFull ≤ m → State.serveOwed n u = State.serveOwed m u := by
    intro n
    induction n with
    | zero =>
      intro m u h0 _
      have no : u.owed = none := by
        cases ho : u.owed with
        | none => rfl
        | some q => have := serve_countsFull u q ho; omega
      cases m with
      | zero => rfl
      | succ m => simp only [State.serveOwed, no]
    | succ n ih =>
      intro m u hn hm
      cases ho : u.owed with
      | none => cases m <;> simp only [State.serveOwed, ho]
      | some q =>
        have := serve_countsFull u q ho
        cases m with
        | zero => omega
        | succ m => simp only [State.serveOwed, ho]; exact ih m _ (by omega) (by omega)
  have c3 : s.countsFull ≤ 3 := by unfold State.countsFull; split_ifs <;> omega
  show State.serveOwed 3 s = State.serveOwed 3 (s.serve r)
  have : State.serveOwed 3 s = State.serveOwed 2 (s.serve r) := by
    show (match s.owed with | none => s | some r => State.serveOwed 2 (s.serve r)) = _
    rw [h]
  rw [this]
  exact key 2 3 _ (by omega) (by omega)

/-- A requester in turn is served by the row of its grant. -/
theorem grantRow_exec (s : State) (r) (hi : s.inTurn r = true) (hw : s.walkKnown) : exec (s.grantRow r) s =
    .next (s.serve r) := by
  have hq := inTurn_requests s r hi
  cases r with
  | fetch => simp [State.grantRow, exec, execFetchRead, hi, State.serve]
  | record =>
    have hs : s.nextRecord.isSome = true := hq
    obtain ⟨k, hk⟩ := Option.isSome_iff_exists.mp hs
    have ht : s.recordInTurn k = true := by simp [State.recordInTurn, hi, hk]
    cases k with
    | stack =>
      simp only [State.grantRow, hk, State.serve]
      by_cases h : s.writer.stackWords < 32
      · simp [h, exec, execStackRecordWord, ht, Config.stackRecordWords]
      · simp [h, exec, execStackPublicationComplete, ht, Config.stackRecordWords]
    | event =>
      simp only [State.grantRow, hk, State.serve]
      by_cases h : s.writer.eventWords < 4
      · simp [h, exec, execEventRecordWord, ht, Config.eventRecordWords]
      · simp [h, exec, execEventPublicationComplete, ht, Config.eventRecordWords]
    | status => simp [State.grantRow, hk, exec, execStatusPublication, ht, State.serve]
  | memcmd =>
    have hs : s.nextMem.isSome = true := hq
    obtain ⟨k, hk⟩ := Option.isSome_iff_exists.mp hs
    have hwk := ((nextMem_iff s k).mp hk).1
    have ht : s.memInTurn k = true := by simp [State.memInTurn, hi, hk]
    cases k with
    | scrub => simp [State.grantRow, hk, exec, execScrub, ht, State.serve]
    | walk =>
      have hb : s.mem.state = .busy := by simpa [State.memWaiting] using hwk
      rcases hw (by rw [hb]; simp) with h | h
      · simp [State.grantRow, hk, h, exec, execVerifyWord, ht, verifyCode, State.serve]
      · simp [State.grantRow, hk, h, exec, execClearWord, ht, clearCode, State.serve]

end Sys2Proof.Machine
end

