-- ==== Sys2Proof/Laws/Starts.lean ====
section
/-! SUPPORT. A label start: what it binds, the record it makes, and what it leaves of its lane and of the rest. -/

namespace Sys2Proof.Machine

/-- An action on each lane by itself. -/
theorem forLanes_lane (f : State → Lane → State) (g : Lane → LaneState → LaneState) (s : State) (hf : ∀ u :
    State, ∀ l, u = { s with lanes := u.lanes } → f u l = u.setLane l (g l (u.lane l))) :
   s.forLanes f = { s with lanes := (s.forLanes f).lanes } ∧ ∀ l, (s.forLanes f).lane l = g l (s.lane l) := by
  simp only [State.forLanes, Lane.inOrder, List.foldl_cons, List.foldl_nil]
  have h0 := hf s .l0 rfl
  have h1 := hf (f s .l0) .l1 (by rw [h0]; rfl)
  have h2 := hf (f (f s .l0) .l1) .l2 (by rw [h1, h0]; rfl)
  have h3 := hf (f (f (f s .l0) .l1) .l2) .l3 (by rw [h2, h1, h0]; rfl)
  refine ⟨by rw [h3, h2, h1, h0]; rfl, ?_⟩
  intro l
  rw [h3, h2, h1, h0]
  cases l <;> rfl

/-- A valid order is bound (02 R21). -/
theorem binding_valid (x : LaneState) (e rest) (h : x.service = .active) (hw : x.window = e :: rest) (hf :
    e.failed = none) : x.binding = .valid e := by
  simp [LaneState.binding, h, hw, hf]

/-- A faulty order is bound (02 R22). -/
theorem binding_faulty (x : LaneState) (e rest w) (h : x.service = .active) (hw : x.window = e :: rest) (hf :
    e.failed = some w) : x.binding = .faulty e w := by
  simp [LaneState.binding, h, hw, hf]

/-- An empty window starves the label (02 R23). -/
theorem binding_starved (x : LaneState) (h : x.service = .active) (hw : x.window = []) : x.binding = .starved := by
  simp [LaneState.binding, h, hw]

/-- A lane that is not ACTIVE binds nothing (02 R24). -/
theorem binding_drain (x : LaneState) (h : x.service ≠ .active) : x.binding = .drain := by
  simp [LaneState.binding, h]

/-- Events given one after the other. -/
theorem foldl_give {α} (f : α → EventBody) (xs : List α) (s : State) :
    (xs.foldl (fun t e => t.give (f e)) s).lanes = s.lanes ∧
    (xs.foldl (fun t e => t.give (f e)) s).engine = s.engine ∧
    (xs.foldl (fun t e => t.give (f e)) s).early = s.early ∧
    (xs.foldl (fun t e => t.give (f e)) s).writer.holding = s.writer.holding := by
  induction xs generalizing s with
  | nil => exact ⟨rfl, rfl, rfl, rfl⟩
  | cons x xs ih =>
    rw [List.foldl_cons]
    obtain ⟨a, b, c, d⟩ := ih (s.give (f x))
    exact ⟨by rw [a]; simp [State.give], by rw [b, give_engine], by rw [c, give_early], by rw [d, give_holding]⟩

/-- What an eviction of early verdicts changes (04 R69). -/
theorem evictEarly_keeps (s : State) (l n) : (s.evictEarly l n).lanes = s.lanes ∧
    (s.evictEarly l n).engine = s.engine ∧ (s.evictEarly l n).writer.holding = s.writer.holding ∧
    (s.evictEarly l n).early = (s.early.filter (fun e => !e.isFor l (low20 n))).filter (fun e => !e.stale l n) := by
  simp only [State.evictEarly]
  obtain ⟨a, b, c, d⟩ := foldl_give
    (fun e : EarlyEntry => { code := .earlyStale, lane := some l, serial := some (e.serial.setWidth 32),
                             value := some (BitVec.ofNat 32 e.code.code) })
    ((s.early.filter (fun e => !e.isFor l (low20 n))).filter (fun e => e.stale l n))
    { s with early := (s.early.filter (fun e => !e.isFor l (low20 n))).filter (fun e => !e.stale l n) }
  exact ⟨a, b, d, c⟩

/-- What a detection at binding keeps (09 R155). -/
theorem reofferWord_keeps (s : State) (l n p a w) : (s.reofferWord l n p a w).lanes = s.lanes ∧
    (s.reofferWord l n p a w).engine = s.engine ∧ (s.reofferWord l n p a w).writer.holding = s.writer.holding ∧
    (s.reofferWord l n p a w).early = s.early := by
  unfold State.reofferWord
  split
  · refine ⟨?_, ?_, ?_, ?_⟩ <;> simp [State.offerUncorrectable]
  all_goals exact ⟨rfl, rfl, rfl, rfl⟩

/-- What the events of a binding keep. -/
theorem bindingEvents_keeps (s : State) (l p b) : (s.bindingEvents l p b).lanes = s.lanes ∧
    (s.bindingEvents l p b).engine = s.engine ∧ (s.bindingEvents l p b).writer.holding = s.writer.holding ∧
    (s.bindingEvents l p b).early = s.early := by
  cases b with
  | valid e => exact ⟨rfl, rfl, rfl, rfl⟩
  | drain => exact ⟨rfl, rfl, rfl, rfl⟩
  | starved => simp [State.bindingEvents]
  | faulty e c =>
    simp only [State.bindingEvents]
    split
    · simp only [State.reofferEntry]
      have k0 := fun u a w => reofferWord_keeps u l (Binding.faulty e c).serial p a w
      refine ⟨?_, ?_, ?_, ?_⟩
      · rw [(k0 _ _ _).1, (k0 _ _ _).1, (k0 _ _ _).1, (k0 _ _ _).1]; simp
      · rw [(k0 _ _ _).2.1, (k0 _ _ _).2.1, (k0 _ _ _).2.1, (k0 _ _ _).2.1]; simp
      · rw [(k0 _ _ _).2.2.1, (k0 _ _ _).2.2.1, (k0 _ _ _).2.2.1, (k0 _ _ _).2.2.1]; simp
      · rw [(k0 _ _ _).2.2.2, (k0 _ _ _).2.2.2, (k0 _ _ _).2.2.2, (k0 _ _ _).2.2.2]; simp
    · simp

/-- The record that a label start makes, before the early verdict is merged. -/
def State.recordMade (s : State) (l : Lane) (t : LabelStart) : LabelRecord :=
  newRecord s.settings l s.web.splice (s.lane l).binding t

/-- What the making of a record leaves. -/
theorem createRecord_spec (s : State) (l : Lane) (t : LabelStart) :
    (s.createRecord l t).2 = (match (s.recordMade l t).serial with
      | none => s.recordMade l t
      | some n => s.mergeEarly l n (s.recordMade l t)) ∧
    (s.createRecord l t).1.lane l = { s.lane l with
      queue := (s.lane l).queue ++ [(s.createRecord l t).2]
      window := (s.lane l).binding.windowAfter (s.lane l).window
      lastBound := (s.recordMade l t).serial.or (s.lane l).lastBound } ∧
    (∀ m, m ≠ l → (s.createRecord l t).1.lane m = s.lane m) ∧ (s.createRecord l t).1.engine = s.engine ∧
    (s.createRecord l t).1.writer.holding = s.writer.holding ∧
    (s.createRecord l t).1.early = (match (s.recordMade l t).serial with
      | none => s.early
      | some n => (s.early.filter (fun e => !e.isFor l (low20 n))).filter (fun e => !e.stale l n)) := by
  obtain ⟨s1, h1⟩ : ∃ s1, s1 = s.setLane l
      { s.lane l with window := (s.lane l).binding.windowAfter (s.lane l).window } := ⟨_, rfl⟩
  have l1 : s1.lane l = { s.lane l with window := (s.lane l).binding.windowAfter (s.lane l).window } := by rw [h1,
      lane_setLane_self]
  have lm : ∀ m, m ≠ l → s1.lane m = s.lane m := by intro m hm; rw [h1]; exact lane_setLane_other s _ hm
  have ee : s1.early = s.early := by rw [h1]; rfl
  simp only [State.createRecord, ← h1]
  have b := fun (u : State) => bindingEvents_keeps u l t.mark (s.lane l).binding
  have bl : ∀ (u : State) m, (u.bindingEvents l t.mark (s.lane l).binding).lane m = u.lane m := by
    intro u m; show (u.bindingEvents l t.mark (s.lane l).binding).lanes.get m = _; rw [(b u).1]; rfl
  rw [show newRecord s.settings l s.web.splice (s.lane l).binding t = s.recordMade l t from rfl]
  simp only [State.bindSerial]
  cases hs : (s.recordMade l t).serial with
  | none =>
    refine ⟨rfl, ?_, ?_, ?_, ?_, ?_⟩
    · rw [bl, lane_setLane_self, l1]; rfl
    · intro m hm; rw [bl, lane_setLane_other _ _ hm, lm m hm]
    · rw [(b _).2.1]; rw [h1]; rfl
    · rw [(b _).2.2.1]; rw [h1]; rfl
    · rw [(b _).2.2.2]; exact ee
  | some n =>
    have ev := fun (u : State) => evictEarly_keeps u l n
    have evl : ∀ (u : State) m, (u.evictEarly l n).lane m = u.lane m := by intro u m; simp only [State.lane, (ev u).1]
    refine ⟨?_, ?_, ?_, ?_, ?_, ?_⟩
    · simp only [State.mergeEarly, State.earlyFor, ee]
    · rw [bl, lane_setLane_self, evl, lane_setLane_self, l1]; rfl
    · intro m hm; rw [bl, lane_setLane_other _ _ hm, evl, lane_setLane_other _ _ hm, lm m hm]
    · rw [(b _).2.1]; rw [setLane_engine, (ev _).2.1, h1]; rfl
    · rw [(b _).2.2.1]; rw [setLane_writer, (ev _).2.2.1, h1]; rfl
    · rw [(b _).2.2.2]; rw [setLane_early, (ev _).2.2.2, h1]; rfl

/-- The serial that the new record holds is the one that the lane binds. -/
theorem recordMade_serial (s : State) (l : Lane) (t : LabelStart) :
    (s.recordMade l t).serial = (s.lane l).bindsSerial := by
  by_cases h : (s.lane l).service = .active
  · cases hw : (s.lane l).window with
    | nil => simp [State.recordMade, newRecord, binding_starved _ h hw, LaneState.bindsSerial, hw, Binding.serial]
    | cons e rest =>
      cases hf : e.failed with
      | none => simp [State.recordMade, newRecord, binding_valid _ e rest h hw hf, LaneState.bindsSerial, hw, h, hf,
          Binding.serial]
      | some w => simp [State.recordMade, newRecord, binding_faulty _ e rest w h hw hf, LaneState.bindsSerial, hw, h,
          hf, Binding.serial]
  · rw [State.recordMade, binding_drain _ h]
    simp only [newRecord, Binding.serial, LaneState.bindsSerial]
    split
    · rfl
    · simp [h]

/-- The early entries that a binding leaves, in one test. -/
theorem evicted_filter (es : List EarlyEntry) (l : Lane) (v : Serial) :
    (es.filter (fun e => !e.isFor l (low20 v))).filter (fun e => !e.stale l v) =
      es.filter (fun x => x.lane != l || isForward x.serial (low20 v)) := by
  rw [List.filter_filter]
  apply List.filter_congr
  intro x _
  simp only [EarlyEntry.stale, EarlyEntry.isFor]
  by_cases h1 : x.lane = l <;> by_cases h2 : x.serial = low20 v <;> simp [h1, h2, bne, isForward]

/-- The early table that the making of a record leaves. -/
theorem createRecord_early (s : State) (l : Lane) (t : LabelStart) :
    (s.createRecord l t).1.early = s.earlyAfterStart l := by
  rw [(createRecord_spec s l t).2.2.2.2.2, recordMade_serial, State.earlyAfterStart]
  cases (s.lane l).bindsSerial with
  | none => rfl
  | some n => exact evicted_filter _ _ _

/-- The record made, with the early verdict that was held for it. -/
theorem createRecord_held (s : State) (l : Lane) (t : LabelStart) :
    (s.createRecord l t).2 = { s.recordMade l t with
      verdict := (s.earlyHeld l).1, defect := (s.earlyHeld l).2 } := by
  have v0 : (s.recordMade l t).verdict = .none := rfl
  have d0 : (s.recordMade l t).defect = 0 := rfl
  rw [(createRecord_spec s l t).1, recordMade_serial]
  cases hb : (s.lane l).bindsSerial with
  | none => simp only [State.earlyHeld, hb]; rfl
  | some n =>
    simp only [State.mergeEarly, State.earlyFor, State.earlyHeld, hb]
    show (match s.early.find? (fun e => e.lane == l && e.serial == low20 n) with
      | some e => (s.recordMade l t).merge e.code e.defect
      | none => s.recordMade l t) = _
    cases s.early.find? (fun e => e.lane == l && e.serial == low20 n) with
    | none => rfl
    | some e =>
      simp only [LabelRecord.merge, v0, d0, mergeVerdict, Option.elim_some]
      cases e.code <;> rfl

/-- What a label start leaves of its lane. -/
theorem createRecord_started (s : State) (l : Lane) (t : LabelStart) (k : Nat) (u : State)
   (hu : u = (s.createRecord l t).1.answerTracker l t.mark (s.createRecord l t).2.pitch k) :
   (u.lane l).startKeeps (s.lane l) ∧
   (u.lane l).startedFrom (s.lane l) s.settings l t s.web.splice (s.earlyHeld l) k := by
  obtain ⟨v, d, hvd⟩ : ∃ v d, (v, d) = s.earlyHeld l := ⟨_, _, rfl⟩
  have hr : (s.createRecord l t).2 = { s.recordMade l t with verdict := v, defect := d } := by
    rw [createRecord_held, ← hvd]
  obtain ⟨_, hl, _⟩ := createRecord_spec s l t
  have ul : u.lane l = { s.lane l with
      queue := (s.lane l).queue ++ [{ s.recordMade l t with verdict := v, defect := d }]
      window := (s.lane l).binding.windowAfter (s.lane l).window
      lastBound := (s.recordMade l t).serial.or (s.lane l).lastBound
      tracker := { tracked := some ⟨t.mark, t.mark + wide (s.recordMade l t).pitch⟩, synthetic := k,
                   expiryDue := false } } := by
    rw [hu, State.answerTracker, lane_setLane_self, hl, hr]
  refine ⟨?_, ?_⟩
  · unfold LaneState.startKeeps; rw [ul]
  · unfold LaneState.startedFrom; rw [ul]
    refine ⟨{ s.recordMade l t with verdict := v, defect := d }, rfl, hvd, rfl, rfl, rfl, rfl, ?_⟩
    have hb : (s.lane l).binding = .drain ∨ (s.lane l).binding = .starved ∨ (∃ e, (s.lane l).binding = .valid e) ∨
        (∃ e w, (s.lane l).binding = .faulty e w) := by
      cases (s.lane l).binding <;> simp
    refine ⟨?_, ?_, ?_, ?_, ?_, ?_, ?_, rfl, rfl, rfl, rfl, rfl, rfl, ?_, ?_, ?_, ?_⟩
    iterate 7
      rcases hb with h | h | ⟨e, h⟩ | ⟨e, w, h⟩ <;> simp only [State.recordMade, newRecord, h] <;> rfl
    · intro hs
      have h := binding_drain _ hs
      simp only [State.recordMade, newRecord, h]
      refine ⟨rfl, rfl, rfl, rfl, rfl, rfl, rfl, rfl, rfl, rfl, rfl, rfl, rfl⟩
    · intro hs hw
      have h := binding_starved _ hs hw
      simp only [State.recordMade, newRecord, h, hw]
      refine ⟨rfl, rfl, rfl, rfl, rfl, rfl, rfl, rfl, rfl, rfl, rfl, rfl, rfl⟩
    · intro e rest hs hw hf
      have h := binding_valid _ e rest hs hw hf
      simp only [State.recordMade, newRecord, h, hw]
      refine ⟨rfl, rfl, rfl, rfl, rfl, rfl, rfl, rfl, rfl, rfl, rfl, rfl, rfl⟩
    · intro e rest w hs hw hf
      have h := binding_faulty _ e rest w hs hw hf
      simp only [State.recordMade, newRecord, h, hw]
      refine ⟨rfl, rfl, rfl, rfl, rfl, rfl, rfl, rfl, rfl, rfl, rfl, rfl, rfl⟩

/-! ## What a label start gives and raises -/

/-- A state with other lanes and another early verdict table. -/
def State.withStart (v : State) (ls : PerLane LaneState) (es : List EarlyEntry) : State :=
  { v with lanes := ls, early := es }

theorem withStart_giveAt (v : State) (ls es) (p : WebPos) (b : EventBody) :
    (v.withStart ls es).giveAt p b = (v.giveAt p b).withStart ls es := by
  by_cases h : v.settings.reportingMode.keeps b.code.severity = true <;>
    by_cases k : v.writer.events.length < Config.eventPlaces <;>
    simp [State.giveAt, State.withStart, State.raiseClass, h, k]
theorem withStart_raiseClass (v : State) (ls es) (c) (l : Option Lane) (n : Option Serial) (a : Option Nat) :
    (v.withStart ls es).raiseClass c l n a = (v.raiseClass c l n a).withStart ls es := rfl
theorem withStart_offer (v : State) (ls es) (c x a d) :
    (v.withStart ls es).offerUncorrectable c x a d = (v.offerUncorrectable c x a d).withStart ls es := rfl

/-- One word re-offered, as its statement has it (09 R155). -/
theorem reofferWord_reoffered (s : State) (l : Lane) (n : Option Serial) (p : WebPos) (a : Nat) (w : FetchedWord) :
    s.reofferWord l n p a w = s.wordReoffered l p n a w := by
  unfold State.reofferWord State.wordReoffered
  cases w.outcome with
  | uncorrectable d => cases d <;> rfl
  | clean => rfl
  | corrected b => rfl
  | blank => rfl

theorem withStart_wordReoffered (v : State) (ls es) (l : Lane) (n : Option Serial) (p : WebPos) (a : Nat)
    (w : FetchedWord) :
    (v.withStart ls es).wordReoffered l p n a w = (v.wordReoffered l p n a w).withStart ls es := by
  unfold State.wordReoffered
  split
  · rw [withStart_offer, withStart_giveAt, withStart_raiseClass]
  · rfl

/-- The event of a stale entry. -/
def EarlyEntry.staleEvent (x : EarlyEntry) (l : Lane) : EventBody :=
  { code := .earlyStale, lane := some l, serial := some (x.serial.setWidth 32),
    value := some (BitVec.ofNat 32 x.code.code) }

/-- Early verdicts evicted: the EARLY_STALE events, and the table (04 R69). -/
theorem evictEarly_withStart (s : State) (ls : PerLane LaneState) (l : Lane) (n : Serial) :
    (s.withStart ls s.early).evictEarly l n = (s.giveEach (s.staleEvents l n)).withStart ls
      (s.early.filter (fun x => x.lane != l || isForward x.serial (low20 n))) := by
  have filt : (s.early.filter (fun e => !e.isFor l (low20 n))).filter (fun e => e.stale l n) =
      s.early.filter (fun x => x.lane == l && x.serial != low20 n && !isForward x.serial (low20 n)) := by
    rw [List.filter_filter]
    apply List.filter_congr
    intro x _
    simp only [EarlyEntry.stale, EarlyEntry.isFor]
    simp only [bne]
    generalize (x.lane == l) = a
    generalize (x.serial == low20 n) = b
    cases a <;> cases b <;> simp
  have fold : ∀ (xs : List EarlyEntry) (v : State) (es : List EarlyEntry), v.web.position = s.web.position →
      xs.foldl (fun (t : State) (e : EarlyEntry) => t.give (e.staleEvent l)) (v.withStart ls es) =
      (v.giveEach (xs.map (fun x => (s.web.position, x.staleEvent l)))).withStart ls es := by
    intro xs
    induction xs with
    | nil => intro v es _; rfl
    | cons x xs ih =>
      intro v es hv
      rw [List.foldl_cons, State.give]
      have : (v.withStart ls es).web.position = s.web.position := hv
      rw [this, withStart_giveAt, ih]
      · rfl
      · rw [(eventFrame_of_labelWork (giveAt_labelWork v _ _)).1, hv]
  simp only [State.evictEarly]
  show List.foldl (fun (t : State) (e : EarlyEntry) => t.give (e.staleEvent l)) (State.withStart s ls _) ((s.early.filter _).filter _) = _
  rw [fold _ _ _ rfl, filt]
  show State.withStart _ ls ((s.early.filter _).filter _) = _
  rw [evicted_filter]
  rfl

/-- A label start, whole: what it reports, its lane and the early table; nothing else changes (02 R20). -/
theorem createRecord_eq (s : State) (l : Lane) (t : LabelStart) :
    (s.createRecord l t).1 = (s.startReported l t.mark).withStart (s.createRecord l t).1.lanes
      (s.earlyAfterStart l) := by
  have key : ∃ ls, (s.createRecord l t).1 = (s.startReported l t.mark).withStart ls (s.earlyAfterStart l) := by
    obtain ⟨s1, h1⟩ : ∃ s1, s1 = s.staleReported l := ⟨_, rfl⟩
    have hw : s.labelWorkOnly s1 := by
      rw [h1, State.staleReported]
      cases (s.lane l).bindsSerial with
      | none => exact labelWorkOnly_refl s
      | some n => exact giveEach_labelWork _ s
    have hr : s1.regions = s.regions := by rw [hw]; rfl
    have bound : ∃ ls, ((s.setLane l { s.lane l with
        window := (s.lane l).binding.windowAfter (s.lane l).window }).bindSerial l (s.recordMade l t)).1 =
        s1.withStart ls (s.earlyAfterStart l) := by
      rw [h1]
      simp only [State.bindSerial, recordMade_serial, State.earlyAfterStart, State.staleReported]
      cases (s.lane l).bindsSerial with
      | none => exact ⟨_, rfl⟩
      | some n => exact ⟨_, evictEarly_withStart s _ l n⟩
    obtain ⟨ls, hb⟩ := bound
    have e1 : (s.createRecord l t).1 = State.bindingEvents (s1.withStart
        (ls.set l { (s1.withStart ls (s.earlyAfterStart l)).lane l with
          queue := ((s1.withStart ls (s.earlyAfterStart l)).lane l).queue ++ [(s.createRecord l t).2] })
        (s.earlyAfterStart l)) l t.mark (s.lane l).binding := by
      have e2 : (s.createRecord l t).1 = (State.setLane ((s.setLane l { s.lane l with
          window := (s.lane l).binding.windowAfter (s.lane l).window }).bindSerial l (s.recordMade l t)).1 l
          { (((s.setLane l { s.lane l with window := (s.lane l).binding.windowAfter (s.lane l).window }).bindSerial l
            (s.recordMade l t)).1).lane l with
            queue := ((((s.setLane l { s.lane l with
              window := (s.lane l).binding.windowAfter (s.lane l).window }).bindSerial l
              (s.recordMade l t)).1).lane l).queue ++ [(s.createRecord l t).2] }).bindingEvents l t.mark
            (s.lane l).binding := rfl
      rw [e2, hb]; rfl
    rw [e1]
    generalize ls.set l _ = ls'
    refine ⟨ls', ?_⟩
    simp only [State.startReported, ← h1]
    by_cases h : (s.lane l).service = .active
    · cases hwin : (s.lane l).window with
      | nil =>
        rw [binding_starved _ h hwin]
        simp only [State.bindingEvents, withStart_giveAt, withStart_raiseClass]
        rw [if_pos h]
      | cons e rest =>
        cases hf : e.failed with
        | none => rw [binding_valid _ e rest h hwin hf]; simp only [State.bindingEvents]; rw [hf]
        | some c =>
          have hn : (Binding.faulty e c).serial = (s.lane l).bindsSerial := by
            simp [LaneState.bindsSerial, hwin, h, hf, Binding.serial]
          rw [binding_faulty _ e rest c h hwin hf]
          simp only [State.bindingEvents, hn]
          rw [hf]
          simp only [if_pos h]
          split
          · simp only [State.reofferEntry, reofferWord_reoffered, withStart_giveAt, withStart_raiseClass,
              withStart_wordReoffered]
            have hr2 : ∀ (p : WebPos) (b : EventBody) c (k : Option Lane) n a, (((s1.giveAt p b).raiseClass c k n a).withStart
                ls' (s.earlyAfterStart l)).regions = s.regions := by
              intro p b c k n a
              have := giveAt_labelWork s1 p b
              show (s1.giveAt p b).regions = s.regions
              rw [this]; exact hr
            simp only [hr2]
            rfl
          · simp only [withStart_giveAt, withStart_raiseClass]
    · rw [binding_drain _ h]
      simp only [State.bindingEvents, h, if_false]
      split
      · rfl
      · split <;> rfl
  obtain ⟨ls, h⟩ := key
  rw [h]; rfl

end Sys2Proof.Machine
end

