-- ==== Sys2Proof/Tests/Slice0.lean ====
section
/-! SUPPORT. The model's own tests: ill-formed commands, worked values of the manual, and for every obligation with
hypotheses a concrete state and operands that meet them, clause by clause. -/

namespace Sys2Proof.Tests

open Sys2Proof.Machine

/-! ## Well-formedness -/

theorem test_partial_write_with_all_enables_is_ill_formed :
    (Instr.hostPartialWrite 0x5000 1 0xF).wellFormed = false ∧
    (Instr.hostPartialWrite 0x5000 1 0xE).wellFormed = true := by decide

theorem test_engine_codes_are_no_refused_codes :
    (Instr.refusedCode 0x01 0 0).wellFormed = false ∧ (Instr.refusedCode 0x08 0 0).wellFormed = false ∧
    (Instr.refusedCode 0x00 0 0).wellFormed = true ∧ (Instr.refusedCode 0x09 0 0).wellFormed = true := by decide

theorem test_memory_codes_are_no_refused_codes :
    (Instr.memcmdRefusedCode 0x01 0).wellFormed = false ∧ (Instr.memcmdRefusedCode 0x06 0).wellFormed = false ∧
    (Instr.memcmdRefusedCode 0x00 0).wellFormed = true ∧ (Instr.memcmdRefusedCode 0x07 0).wellFormed = true := by
  decide

theorem test_acknowledge_rows_need_their_bit :
    (Instr.clearSummary 0x00070000).wellFormed = false ∧ (Instr.clearSummary 0x1000).wellFormed = true ∧
    (Instr.releaseCorrectableCapture 0x0002).wellFormed = false ∧
    (Instr.releaseCorrectableCapture 0x00010000).wellFormed = true ∧
    (Instr.releaseUncorrectableCapture 0x00010000).wellFormed = false ∧
    (Instr.releaseUncorrectableCapture 0x00020000).wellFormed = true ∧
    (Instr.clearCorrectableCount 0x00020000).wellFormed = false ∧
    (Instr.clearCorrectableCount 0x00040000).wellFormed = true := by decide

theorem test_check_mode_has_its_own_row :
    (Instr.settingWrite .checkMode 1).wellFormed = false ∧
    (Instr.settingWrite .blankTolerance 1).wellFormed = true := by decide

theorem test_no_word_spells_a_command : decodeTableWord 32 1 = none := rfl

/-! ## Worked values of the manual -/

/-- The check byte of zero, of one and of a word of two ones (09 R144). -/
theorem test_check_bytes : checkByte 0 = 0x55 ∧ checkByte 1 = 0x52 ∧ checkByte 3 = 0x4B := by decide

/-- Serials and positions compare forward modulo their range (00). -/
theorem test_forward_comparison : isForward (5 : Serial) 4 = true ∧ isForward (4 : Serial) 4 = false ∧
    isForward (0x80000004 : Serial) 4 = true ∧ isForward (0x80000005 : Serial) 4 = false := by decide

/-- Trims are two's complement (02 R28). -/
theorem test_trim_distance : trimDistance 0xC0 = 0xFFFFFFC0 ∧ trimDistance 0x3F = 63 := by decide

/-- The poison check is no single flip. -/
theorem test_poison_is_no_single_flip : flippedBit Config.poisonPattern = none := by decide

/-- Event codes stay in 8 bits, and the primary record prefers the lower bit. -/
theorem test_primary_priority : offerPrimary (some ⟨.lateVerdict, none, none, none, 0⟩) ⟨.laneFault, none, none,
    none, 0⟩ =
      some ⟨.laneFault, none, none, none, 0⟩ ∧
    offerPrimary (some ⟨.laneFault, none, none, none, 0⟩) ⟨.laneFault, some .l1, none, none, 1⟩ =
      some ⟨.laneFault, none, none, none, 0⟩ := by decide

/-! ## The states of the witnesses -/

/-- Every region mapped, and the map locked. -/
def mapped : RegionMap :=
  { orderRing := ⟨⟨0x1000, 4⟩, ⟨0x1100, 4⟩, ⟨0x1200, 4⟩, ⟨0x1300, 4⟩⟩, stackRing := ⟨0x2000, 3⟩,
    eventRing := ⟨0x3000, 4⟩, verdictCells := 0x4000, locked := true }

/-- After reset with the map locked. -/
def locked : State := { State.reset with regions := mapped }

/-- An ACTIVE lane whose stacker fills tray A. -/
def active : LaneState := { LaneState.initial with service := .active, stacker := .filling .a }

/-- An engine in a state. -/
def engine (v : EngineState) : Engine := { Engine.initial with state := v }

/-- Lane 0 as given, under an engine in a state. -/
def under (v : EngineState) (x : LaneState) : State := State.setLane { locked with engine := engine v } .l0 x

/-- Lane 0 as given, under a RUNNING engine. -/
def run (x : LaneState) : State := under .running x

/-- A label as created from a valid order. -/
def label : LabelRecord :=
  { serial := some 7, slot := some 0, batch := some 5, target := 500, trim := 0, endOfBatch := false,
    samplePull := false, void := false, origin := .sensed, mark := 0, pitch := 600, deadline := 2000, cut := 3000,
    confirmLimit := 3200, gate := 4800, verdict := .none, defect := 0, closed := false, flags := LabelFlags.empty,
    cutState := .waiting, due := Due.nothing }

/-- A stack under way. -/
def stack : OpenStack :=
  { sequence := 1, tray := .a, batch := 5, target := 3, count := 2, first := some 5, last := some 6,
    short := Shortfall.empty }

/-- A window entry of clean words, with the result given. -/
def entry (f : Option OrderCheck) : WindowEntry :=
  { index := 0, word0 := ⟨.clean, 7⟩, word1 := ⟨.clean, 5⟩, word2 := ⟨.clean, 600⟩, word3 := ⟨.clean, 0⟩,
    before := none, failed := f }

/-- The label with its gate reached. -/
def gated : LabelRecord := { label with verdict := .good, closed := true, due := { Due.nothing with gate := true } }

/-- A tracker with its last mark at a position. -/
def tracking (at_ : WebPos) (n : Nat) : Tracker :=
  { tracked := some ⟨at_, at_ + 600⟩, synthetic := n, expiryDue := true }

/-- Locations of the four outcomes: clean, corrected, blank, poison. -/
def cells : State := { locked with memory :=
  [(0x5000, ⟨5, checkByte 5⟩), (0x5001, ⟨1, 0x55⟩), (0x5002, ⟨0, 0⟩), (0x5003, ⟨9, checkByte 9 ^^^ 0x81⟩)] }

theorem test_cells_are_canonical : Memory.wf cells.memory = true := by decide

/-! ## Witnesses: the machine, power and reset -/

theorem witness_EveryCommandEndsInANextState : State.reset.pending = [] := rfl

theorem witness_PowerOn : (511 < 512) ∧ (⟨false, false, false, false⟩ : InputLines).safe = false ∧
    (⟨true, true, true, true⟩ : InputLines).safe = true := by decide

/-- The state while the start-up image is written, with a host cycle held or not. -/
def writing (p : Option HostCycle) : State :=
  { State.reset with hostPort := p, arbiter := { Arbiter.initial with imageWriting := true, resetWaiting := true } }

theorem witness_ImageComplete :
    State.reset.arbiter.imageWriting = false ∧
    (writing none).arbiter.imageWriting = true ∧ (writing none).hostPort = none ∧
    (∀ p, (writing p).arbiter.imageWriting = true ∧ (writing p).arbiter.resetWaiting = true ∧
      (writing p).hostPort = p ∧
      ∃ u v, exec (.startUpImageComplete none) { writing p with hostPort := none } = .next u ∧
        exec (.lineReset ⟨true, true, true, true⟩ false) u = .next v) ∧
    ({ writing (some (.write 0 1)) with arbiter := { Arbiter.initial with imageWriting := true } } :
      State).arbiter.resetWaiting = false :=
  ⟨rfl, rfl, rfl, fun _ => ⟨rfl, rfl, rfl, _, _, rfl, rfl⟩, rfl⟩

/-- A RESET held during the image write is taken before the held host cycle, here a HALT (log 6). -/
theorem test_held_cycle_follows_the_waiting_reset :
    (match exec (.startUpImageComplete (some ⟨false, false, false, false⟩))
        (writing (some (.write 4193808 (engineWord 0x03 0 (matching 0x03 0))))) with
      | .next t => (t.engine.state, t.engine.result)
      | _ => (.stopped, .none)) = (.halted, .done) := by decide +kernel

theorem witness_LineReset : (writing none).arbiter.imageWriting = true ∧
    locked.arbiter.imageWriting = false := by decide

/-! ## Witnesses: web position -/

theorem witness_ForwardTick : (true, false) = nextPair (locked.web.refA, locked.web.refB) ∧
    locked.web.backlog = 0 := by
  decide

/-- A backlog, under an engine in a state. -/
def backed (v : EngineState) (n : Nat) : State :=
  { under v active with web := { State.reset.web with backlog := n } }

theorem witness_OtherTransitions :
    ((true, false) = nextPair ((backed .running 1).web.refA, (backed .running 1).web.refB) ∧
      0 < (backed .running 1).web.backlog) ∧
    (nextPair (false, true) = ((backed .stopped 65536).web.refA, (backed .stopped 65536).web.refB) ∧
      (backed .stopped 65536).engineGoing = false ∧ (backed .stopped 65536).web.backlog ≤ 65536) ∧
    (min ((backed .running 999).web.backlog + 1) 65536 ≤ (backed .running 999).settings.reverseLimit.toNat) ∧
    (true ≠ locked.web.refA ∧ true ≠ locked.web.refB) ∧ (false = locked.web.refA ∧
    false = locked.web.refB) := by decide

theorem witness_SpliceLevels : locked.web.splice = false ∧
    ({ locked with web := { locked.web with splice := true } } : State).web.splice = true := by decide

theorem witness_MarksNotTaken :
    locked.inService .l0 = false ∧
    ((backed .running 1).inService .l0 = true ∧ (backed .running 1).web.backlog ≠ 0) ∧
    ((run { active with tracker := tracking (0 - 299) 0 }).inService .l0 = true ∧
      (run { active with tracker := tracking (0 - 299) 0 }).web.backlog = 0 ∧
      ((run active).web.position - (0 - 299 : WebPos)).toNat < (run active).settings.pmin.toNat) := by decide

theorem witness_MarkStartsLabel :
    (run active).inService .l0 = true ∧ (run active).web.backlog = 0 ∧ ((run active).lane .l0).tracker.tracked = none ∧
    ((run { active with tracker := tracking (0 - 300) 0 }).inService .l0 = true ∧
      (run active).settings.pmin.toNat ≤ ((run active).web.position - (0 - 300 : WebPos)).toNat ∧
      isForward ((0 - 300 : WebPos) + 600 - wide (run active).settings.w) (run active).web.position = true) ∧
    ((run active).settings.pmin.toNat ≤ ((run active).web.position - (0 - 600 : WebPos)).toNat ∧
      isForward ((0 - 600 : WebPos) + 600 - wide (run active).settings.w) (run active).web.position = false) ∧
    (run { active with service := .draining }).inService .l0 = true ∧
    (run { active with window := [entry none] }).inService .l0 = true ∧
    (run { active with window := [entry (some .pitch)] }).inService .l0 = true := by decide

theorem witness_ExpiryStartsSyntheticLabel :
    ∀ n, n ≤ 2 → (run { active with tracker := tracking 0 n }).inService .l0 = true ∧
      ((run { active with tracker := tracking 0 n }).lane .l0).tracker.expiryDue = true ∧
      ((run { active with tracker := tracking 0 n }).lane .l0).tracker.tracked = some ⟨0, 600⟩ ∧
      ((run { active with tracker := tracking 0 n }).lane .l0).tracker.synthetic = n := by decide

/-- A window entry whose first word is not trusted. -/
def untrusted : WindowEntry := { entry (some .check) with word0 := ⟨.uncorrectable .poison, 7⟩ }

theorem witness_Binding :
    ((run { active with window := [entry none] }).inService .l0 = true ∧
      (run { active with window := [entry none] }).web.backlog = 0 ∧
      ((run { active with window := [entry none] }).lane .l0).service = .active ∧
      ((run { active with window := [entry none] }).lane .l0).window = entry none :: [] ∧ (entry none).failed = none ∧
      ∃ t, exec (.markEvent .l0) (run { active with window := [entry none] }) = .next t) ∧
    ((run { active with tracker := tracking (0 - 300) 0, window := [entry (some .pitch)] }).inService .l0 = true ∧
      (run active).settings.pmin.toNat ≤ ((run active).web.position - (0 - 300 : WebPos)).toNat ∧
      (entry (some .pitch)).word0.outcome.trusted = true ∧
      ∃ t, exec (.markEvent .l0)
        (run { active with tracker := tracking (0 - 300) 0, window := [entry (some .pitch)] }) = .next t) ∧
    ((run { active with tracker := tracking 0 1, window := [entry none] }).inService .l0 = true ∧
      (tracking 0 1).expiryDue = true ∧ (tracking 0 1).tracked ≠ none ∧ (tracking 0 1).synthetic < 2 ∧
      ∃ t, exec (.markWindowExpiry .l0)
        (run { active with tracker := tracking 0 1, window := [entry none] }) = .next t) ∧
    (untrusted.failed ≠ none ∧ untrusted.word0.outcome.trusted = false ∧
      ∃ t, exec (.markEvent .l0) (run { active with window := [untrusted] }) = .next t) :=
  ⟨⟨rfl, rfl, rfl, rfl, rfl, _, rfl⟩, ⟨rfl, by decide, rfl, _, rfl⟩, ⟨rfl, rfl, nofun, by decide, _, rfl⟩,
    nofun, rfl, _, rfl⟩

/-! ## Witnesses: targets and actuators -/

/-- Lane 0 with one record queued that some event of it is due. -/
def due (r : LabelRecord) (d : Due) : LaneState := { active with queue := [{ r with due := d }] }

theorem witness_Deadline :
    ((run (due { label with verdict := .good } ⟨true, false, false, false⟩)).lane .l0).queue =
      [] ++ { label with verdict := .good, due := ⟨true, false, false, false⟩ } :: [] ∧
    ({ label with verdict := .good } : LabelRecord).verdict ≠ .none ∧
    ((run (due label ⟨true, false, false, false⟩)).lane .l0).queue =
      [] ++ { label with due := ⟨true, false, false, false⟩ } :: [] ∧ label.verdict = .none := by decide

theorem witness_Cut :
    ((run (due label ⟨false, true, false, false⟩)).lane .l0).queue =
      [] ++ { label with due := ⟨false, true, false, false⟩ } :: [] ∧ label.cutState = .waiting ∧
    (run (due label ⟨false, true, false, false⟩)).engine.state = .running ∧
    ((run (due label ⟨false, true, false, false⟩)).lane .l0).service = .active ∧
    (run (due label ⟨false, true, false, false⟩)).engine.safe = false ∧
    (under .stopped (due label ⟨false, true, false, false⟩)).engine.state = .stopped := by decide

theorem witness_Kdone :
    ((run (due { label with cutState := .fired } Due.nothing)).lane .l0).queue =
      [] ++ { label with cutState := .fired } :: [] ∧
    (∀ x ∈ ((run active).lane .l0).queue, x.cutState ≠ .fired) := by decide

/-- Lane 0 whose one FIRED record has reached its confirm limit, with misses counted. -/
def missing (v : Service) (n : Nat) : State :=
  run { due { label with cutState := .fired } ⟨false, false, true, false⟩ with misses := n, service := v }

theorem witness_ConfirmLimit :
    ((missing .active 0).lane .l0).queue =
      [] ++ { label with cutState := .fired, due := ⟨false, false, true, false⟩ } :: [] ∧
    1 = min (((missing .active 0).lane .l0).misses + 1) 2 ∧
    (2 = min (((missing (.faulted .knife) 2).lane .l0).misses + 1) 2 ∧
      ((missing (.faulted .knife) 2).lane .l0).service.isFaulted = true) ∧
    ((missing .bypassed 1).lane .l0).service = .bypassed ∧
    ((run (due label ⟨false, false, true, false⟩)).lane .l0).queue =
      [] ++ { label with due := ⟨false, false, true, false⟩ } :: [] ∧ label.cutState ≠ .fired := by decide

theorem witness_SecondMiss :
    ((missing .active 1).lane .l0).queue =
      [] ++ { label with cutState := .fired, due := ⟨false, false, true, false⟩ } :: [] ∧
    ((missing .active 1).lane .l0).misses = 1 ∧ ((missing .active 1).lane .l0).service = .active ∧
    ((missing .draining 1).lane .l0).service = .draining ∧ ((missing .off 2).lane .l0).service = .off ∧
    ((missing .off 2).lane .l0).misses = 2 := by decide

theorem witness_LaneFault :
    ((run { active with service := .bypassed }).lane .l0).service = .bypassed ∧
    ((run { active with service := .faulted .knife }).lane .l0).service = .faulted .knife ∧
    ((run active).lane .l0).service = .active ∧ ((run active).lane .l0).queue = [] ∧
    (∃ m, ((run active).lane m).service = .active) ∧ (under .stopped LaneState.initial).engine.state ≠ .running ∧
    (run LaneState.initial).engine.state = .running ∧ (∀ m, ((run LaneState.initial).lane m).service ≠ .active) :=
  ⟨rfl, rfl, rfl, rfl, ⟨.l0, rfl⟩, by decide, rfl, fun m => by cases m <;> decide⟩

theorem witness_TrayReady :
    (locked.lane .l0).stacker = .notReady ∧
    ((run { active with stacker := .transferring .a }).lane .l0).stacker = .transferring .a ∧
    ((run { active with stacker := .transferring .b }).lane .l0).stacker = .transferring .b ∧
    ((run active).lane .l0).stacker = .filling .a := by decide

/-! ## Witnesses: the gate -/

theorem witness_Fate :
    ({ label with flags := { LabelFlags.empty with joined := true } } : LabelRecord).flags.joined = true ∧
    (label.flags.anyFault = false ∧ ({ label with void := true } : LabelRecord).void = true) ∧
    (label.void = false ∧ ({ label with verdict := .reject } : LabelRecord).verdict = .reject) ∧
    ({ label with samplePull := true } : LabelRecord).samplePull = true ∧
    (gated.flags.anyFault = false ∧ gated.void = false ∧ gated.verdict ≠ .reject ∧ gated.verdict ≠ .sample ∧
      gated.samplePull = false) := by decide

/-- Lane 0 with a due head record, an open stack or none, and a service state. -/
def gate (r : LabelRecord) (k : Option OpenStack) (v : Service) : LaneState :=
  { active with queue := [r], openStack := k, service := v }

theorem witness_GateLists :
    ((run (gate { gated with verdict := .reject } none .active)).lane .l0).queue =
      { gated with verdict := .reject } :: [] ∧
    gated.due.gate = true ∧ gated.endOfBatch = false ∧
    ({ gated with verdict := .reject } : LabelRecord).fate = .reject .reject ∧
    ({ gated with verdict := .sample } : LabelRecord).fate = .sample ∧
    (∀ k, ((run (gate gated none .active)).lane .l0).openStack = some k → k.count ≠ k.target.toNat) ∧
    stack.count ≠ stack.target.toNat ∧
    ¬ (((run (gate gated none .active)).lane .l0).service = .draining ∧
    ([] : List LabelRecord).countP (·.holdsOrder) = 0) ∧
    ¬ (((run (gate gated none .active)).lane .l0).service.isFaulted = true ∧ ([] : List LabelRecord) = []) :=
  ⟨rfl, rfl, rfl, rfl, rfl, fun _ h => (nomatch h), by decide, by decide, by decide⟩

/-- A carry list of one entry. -/
def carried : Shortfall := { entries := [⟨3, .spill, 0, false⟩], overflow := 0, unordered := 65535 }

theorem witness_GateListsAtTheEndOfBatch :
    ((run { gate { gated with verdict := .reject, endOfBatch := true } none .active with carry := carried }).lane
      .l0).queue = { gated with verdict := .reject, endOfBatch := true } :: [] ∧
    ({ gated with verdict := .reject, endOfBatch := true } : LabelRecord).endOfBatch = true ∧
    (run (gate gated none .active)).writer.holding.length < 4 ∧
    ((run (gate gated none .active)).lane .l0).openStack = none ∧
    ((run (gate gated none .active)).lane .l0).parked = none ∧ carried.entries.length < 12 ∧
    12 ≤ (List.replicate 12 (⟨3, .spill, 0, false⟩ : MissingEntry)).length ∧ carried.overflow ≤ 65535 ∧
    carried.unordered ≤ 65535 := by decide

theorem witness_GateDelivers :
    ((run (gate gated none .active)).lane .l0).queue = gated :: [] ∧ gated.due.gate = true ∧ gated.fate = .stack ∧
    gated.endOfBatch = false ∧ gated.batch = some 5 ∧
    ((run (gate gated none .active)).lane .l0).stacker = .filling .a ∧
    ((run (gate gated none .active)).lane .l0).openStack = none ∧ (0 + 1 ≠ gated.target.toNat) ∧
    (((run (gate gated (some { stack with count := 1 }) .active)).lane .l0).openStack =
      some { stack with count := 1 } ∧
      ({ stack with count := 1 } : OpenStack).batch = 5 ∧ 1 + 1 ≠ stack.target.toNat) ∧
    ((run (gate gated none .active)).lane .l0).service = .active := by decide

theorem witness_GateDeliversWhileDraining :
    ((run { gate gated none .draining with queue := [gated, label] }).lane .l0).queue = gated :: [label] ∧
    [label].countP (·.holdsOrder) ≠ 0 ∧
    ((run { gate gated none .draining with queue := [gated, label] }).lane .l0).service = .draining := by decide

theorem witness_GateCloses :
    ((run (gate gated (some stack) .active)).lane .l0).queue = gated :: [] ∧ gated.batch = some stack.batch ∧
    ((run (gate gated (some stack) .active)).lane .l0).stacker = .filling .a ∧
    ((run (gate gated (some stack) .active)).lane .l0).openStack = some stack ∧ stack.tray = .a ∧
    (gated.endOfBatch = false ∧ stack.count + 1 = stack.target.toNat) ∧
    (({ gated with endOfBatch := true } : LabelRecord).endOfBatch = true ∧
      ({ gated with endOfBatch := true } : LabelRecord).fate = .stack) ∧
    (run (gate gated (some stack) .active)).writer.holding.length < 4 := by decide

theorem witness_GateClosesWhatItOpened :
    ((run (gate { gated with target := 1 } none .active)).lane .l0).openStack = none ∧
    ({ gated with target := 1 } : LabelRecord).endOfBatch = false ∧
    0 + 1 = ({ gated with target := 1 } : LabelRecord).target.toNat ∧
    ({ gated with endOfBatch := true } : LabelRecord).endOfBatch = true ∧
    (∀ k, ((run (gate gated none .active)).lane .l0).openStack = some k → k.count ≠ k.target.toNat) ∧
    ({ stack with count := 3 } : OpenStack).count = stack.target.toNat :=
  ⟨rfl, rfl, rfl, rfl, nofun, rfl⟩

theorem witness_GateSpills :
    ((run { gate gated none .active with stacker := .notReady }).lane .l0).stacker = .notReady ∧
    ((run { gate gated none .active with stacker := .transferring .a }).lane .l0).stacker = .transferring .a ∧
    ((run { gate gated none .active with stacker := .notReady }).lane .l0).openStack = none ∧
    (∀ tray, Stacker.notReady ≠ .filling tray) ∧ (∀ tray, Stacker.transferring .a ≠ .filling tray) ∧
    (((run (gate gated (some { stack with batch := 6 }) .active)).lane .l0).openStack =
      some { stack with batch := 6 } ∧
      gated.batch ≠ some ({ stack with batch := 6 } : OpenStack).batch ∧
      (run (gate gated (some { stack with batch := 6 }) .active)).writer.holding.length < 4) :=
  ⟨rfl, rfl, rfl, fun _ h => (nomatch h), fun _ h => (nomatch h), by decide⟩

theorem witness_GateSpillsAtTheEndOfBatch :
    ({ gated with endOfBatch := true } : LabelRecord).endOfBatch = true ∧
    ({ gated with endOfBatch := true } : LabelRecord).fate = .stack ∧
    ((run { gate { gated with endOfBatch := true } none .active with stacker := .notReady }).lane .l0).parked = none ∧
    (run (gate { gated with endOfBatch := true } (some { stack with batch := 6 }) .active)).writer.holding.length < 3 ∧
    ((run (gate { gated with endOfBatch := true } (some { stack with batch := 6 }) .active)).lane .l0).service =
      .active := by decide

/-- A stack record of lane 1. -/
def record : StackRecord :=
  { lane := .l1, tray := some .a, sequence := 1, batch := some 5, reason := .count, count := 500, first := none,
    last := none, short := Shortfall.empty }

/-- The holding list full, and lane 0 about to close its stack with one label behind. -/
def full : State :=
  State.holdingAs (run { active with
    queue := [{ gated with endOfBatch := true }, label], openStack := some stack }) [record, record, record, record]

theorem witness_Parks :
    (full.lane .l0).queue = { gated with endOfBatch := true } :: [label] ∧
    ({ gated with endOfBatch := true } : LabelRecord).fate = .stack ∧
    (full.lane .l0).stacker = .filling .a ∧ (full.lane .l0).openStack = some stack ∧ gated.batch = some stack.batch ∧
    4 ≤ full.writer.holding.length ∧ (full.lane .l0).service = .active := by decide

/-- The holding list full, and lane 0 with nothing but a carry list. -/
def fullCarry (v : Service) : State :=
  State.holdingAs (run { active with service := v, carry := carried }) [record, record, record, record]

theorem witness_Closes :
    ((run active).lane .l0).closedRecord .l0 .drain = none ∧
    (((fullCarry .active).lane .l0).closedRecord .l0 .host).isSome = true ∧ 4 ≤ (fullCarry .active).writer.holding.length ∧
    ((fullCarry .off).lane .l0).service = .off ∧ ((fullCarry .draining).lane .l0).service = .draining ∧
    (((run { active with carry := carried }).lane .l0).closedRecord .l0 .drain).isSome = true ∧
    (run { active with carry := carried }).writer.holding.length < 4 ∧
    (((run { active with openStack := some stack }).lane .l0).closedRecord .l0 .laneFault).isSome = true ∧
    (∀ w : CloseReason, w = .count ∨ w = .batchEnd ∨ w = .batchChange ∨ w = .host ∨ w = .drain → w ≠ .halt) ∧
    (gated.endOfBatch = false ∧ stack.count + 1 = stack.target.toNat) := by
  refine ⟨rfl, rfl, by decide, rfl, rfl, rfl, by decide, rfl, ?_, rfl, rfl⟩
  rintro w (rfl | rfl | rfl | rfl | rfl) <;> decide

theorem witness_LastGate :
    ((run (gate { gated with flags := { LabelFlags.empty with splice := true } } (some stack) .draining)).lane .l0).queue =
      { gated with flags := { LabelFlags.empty with splice := true } } :: [] ∧
    stack.count ≠ stack.target.toNat ∧
    ({ gated with flags := { LabelFlags.empty with splice := true } } : LabelRecord).flags.anyFault = true ∧
    ([] : List LabelRecord).countP (·.holdsOrder) = 0 ∧
    ((run (gate { gated with flags := { LabelFlags.empty with laneFault := true } } (some stack)
      (.faulted .knife))).lane .l0).service = .faulted .knife ∧
    ({ gated with flags := { LabelFlags.empty with laneFault := true } } : LabelRecord).flags.laneFault =
      true := by decide

/-- Lane 0 with nothing queued, a carry list, a window entry and an early verdict. -/
def ending (v : EngineState) (x : Service) : State :=
  { under v { active with service := x, carry := carried, window := [entry none] } with
    early := [⟨.l0, 9, .good, 0⟩] }

theorem witness_LastGateWithoutAStack :
    ((run (gate gated none .draining)).lane .l0).queue = gated :: [] ∧ gated.due.gate = true ∧ gated.fate = .stack ∧
    ((ending .draining .draining).lane .l0).service = .draining ∧
    ((ending .draining .draining).lane .l0).queue.countP (·.holdsOrder) = 0 ∧
    (ending .draining .draining).writer.holding.length < 4 ∧ (ending .draining .draining).engine.state = .draining ∧
    (ending .draining .draining).othersDone .l0 ∧
    (((ending .draining .draining).lane .l0).closedRecord .l0 .drain).isSome = true ∧
    (ending .draining .draining).early.countP (fun e => e.lane == .l0) ≠ 0 ∧
    ((ending .draining .draining).lane .l0).window ≠ [] ∧
    ((ending .draining (.faulted .knife)).lane .l0).service = .faulted .knife ∧
    ((ending .draining (.faulted .knife)).lane .l0).queue = [] ∧
    (((ending .draining (.faulted .knife)).lane .l0).closedRecord .l0 .laneFault).isSome = true ∧
    (under .draining LaneState.initial).engine.state = .draining ∧
    (∀ m, ((under .draining LaneState.initial).lane m).service ≠ .active ∧
      ((under .draining LaneState.initial).lane m).service ≠ .draining) := by
  refine ⟨rfl, rfl, rfl, rfl, rfl, by decide, rfl, ?_, rfl, by decide, by decide, rfl, rfl, rfl, rfl, ?_⟩
  · intro m hm; cases m <;> first | exact absurd rfl hm | exact ⟨by decide, by decide, fun _ => rfl⟩
  · intro m; cases m <;> decide

theorem witness_Halts :
    ((run active).engine.safe = false ∧ (run active).engine.state ≠ .halted) ∧
    ((under .halted LaneState.initial).engine.safe = false ∧
    (under .halted LaneState.initial).engine.state = .halted) ∧
    ({ run active with engine := { engine .running with safe := true } } : State).engine.safe = true ∧
    (nextPair (false, true) = ((backed .running 1000).web.refA, (backed .running 1000).web.refB) ∧
      (backed .running 1000).engineGoing = true ∧ (backed .running 1000).web.backlog ≤ 65536 ∧
      (backed .running 1000).settings.reverseLimit.toNat < min ((backed .running 1000).web.backlog + 1) 65536) ∧
    ((run { LaneState.initial with service := .bypassed }).engine.safe = false ∧
      ((run { LaneState.initial with service := .bypassed }).lane .l0).service = .bypassed) := by decide

/-! ## Witnesses: host cycles -/

theorem hostNext_locked : locked.hostNext := ⟨rfl, rfl⟩
theorem hostNext_cells : cells.hostNext := ⟨rfl, rfl⟩

/-- All three bypass counts at the limit, with work waiting for each: three grants are owed before HOST. -/
def crowded : State :=
  { State.setLane locked .l0 { active with reservation := some ⟨0, none, []⟩ } with
    arbiter := { Arbiter.initial with fetchBypass := 4, recordBypass := 4, memcmdBypass := 4 }
    scrubQueue := [0x5001]
    writer := { Writer.initial with holding := [record] } }

theorem witness_HostCyclesFollow : crowded.portReady = true ∧ crowded.owed = some .fetch ∧
    (writing none).portReady = false ∧ (writing none).hostPort = none := by decide

theorem witness_HostCyclesRunTheGrantsOwed : crowded.walkKnown ∧ crowded.grantRow .fetch = .fetchRead ∧
    ∃ u, exec .fetchRead crowded = .next u := by
  refine ⟨?_, rfl, _, rfl⟩
  unfold State.walkKnown; decide

/-! ## Witnesses: the arbiter and the publication set -/

/-- A walk over cells that hold something. -/
def walking (count : Word) : State :=
  { cells with mem := { MemUnit.initial with
      state := .busy, walk := some 0x01, start := 0x5000, count := count.toNat, progress := 0x5000 } }

/-- A stack record held with its ring mapped, and no other work. -/
def recordingAlone : State := { locked with writer := { Writer.initial with holding := [record] } }

theorem witness_Publication :
    (resetRow (.kdone .l0) = false ∧ grantRow (.kdone .l0) = false ∧ hostCycleRow (.kdone .l0) = false ∧
      ∃ t, exec (.kdone .l0) locked = .next t) ∧
    (hostCycleRow (.hostRead 0x5000) = true ∧ cells.hostNext ∧ ∃ t, exec (.hostRead 0x5000) cells = .next t) ∧
    (∃ t, exec .verifyWord (walking 2) = .next t ∧ (walking 2).mem.state = t.mem.state ∧
      (walking 2).mem.result = t.mem.result) ∧
    (∃ t, exec .verifyWord (walking 1) = .next t ∧ (walking 1).mem.state ≠ t.mem.state) ∧
    locked.arbiter.imageWriting = false ∧ (∃ t, exec (.lineReset ⟨false, false, false, false⟩ false) locked = .next t) ∧
    ∃ t u, exec (.powerOn ⟨true, true, true, true⟩) locked = .next t ∧
      exec (.powerOn ⟨true, true, true, false⟩) locked = .next u :=
  ⟨⟨rfl, rfl, rfl, _, rfl⟩, ⟨rfl, ⟨rfl, rfl⟩, _, rfl⟩, ⟨_, rfl, by decide, by decide⟩, ⟨_, rfl, by decide⟩, rfl,
    ⟨_, rfl⟩, _, _, rfl, rfl⟩

theorem witness_Arbiter :
    (hostCycleRow (.hostRead 0x5000) = true ∧ cells.hostNext ∧ (walking 2).hostNext ∧
      (walking 2).requesting .memcmd = true ∧ (walking 2).arbiter.bypass .memcmd < 4) ∧
    (crowded.inTurn .fetch = true ∧ (walking 2).inTurn .memcmd = true ∧ (recordingAlone).inTurn .record = true ∧
      crowded.walkKnown ∧ (walking 2).walkKnown ∧ recordingAlone.walkKnown) ∧
    (hostCycleRow .safeRise = false ∧ grantRow .safeRise = false ∧ resetRow .safeRise = false ∧
      ∃ t, exec .safeRise (walking 2) = .next t) := by
  refine ⟨⟨rfl, ⟨rfl, rfl⟩, ⟨rfl, rfl⟩, rfl, by decide⟩, ⟨rfl, rfl, rfl, ?_, ?_, ?_⟩, rfl, rfl, rfl, _, rfl⟩ <;>
    (unfold State.walkKnown; decide)

theorem witness_HostRead :
    (cells.settings.checkMode ≠ .off ∧ cells.addressClass (0x5000 : Address).toNat ≠ .exempt) ∧
    classify (cells.location (0x5000 : Address).toNat) = .clean ∧
    classify (cells.location (0x5001 : Address).toNat) = .corrected 0 ∧
    classify (cells.location (0x5002 : Address).toNat) = .blank ∧
    classify (cells.location (0x5003 : Address).toNat) = .uncorrectable .poison ∧
    cells.settings.blankTolerance = false := by decide

/-- The check mode OFF, and blank tolerance on. -/
def lenient : State := { cells with settings := { Settings.default with checkMode := .off, blankTolerance := true } }

/-- An active exemption window over the four cells. -/
def exempted : State := { cells with window0 := ⟨0x5000, ~~~ 0x5000, 4, ~~~ 4, true⟩ }

theorem witness_HostReadLenient : lenient.settings.checkMode = .off ∧ lenient.settings.blankTolerance = true ∧
    exempted.addressClass (0x5003 : Address).toNat = .exempt ∧
    exempted.addressClass (0x5004 : Address).toNat = .plain := by
  decide

/-- Slot 0 of lane 0 fetched and not released. -/
def fetched : State := State.setLane cells .l0 { active with put := 1, fetch := 1 }

theorem witness_FullWordWrite :
    cells.addressClass (0x5000 : Address).toNat = .plain ∧ exempted.addressClass (0x5000 : Address).toNat = .exempt ∧
    fetched.addressClass (0x1004 : Address).toNat = .orderSlot .l0 1 ∧ fetched.slotProtected .l0 1 = false ∧
    (controlWord 0x012 = .reserved ∧ controlWord 0x1FF = .reserved ∧ (4194303 : Address).toNat = 4193792 + 0x1FF) ∧
    (4193825 : Address).toNat = 4193792 + 0x021 ∧ (4193826 : Address).toNat = 4193792 + 0x022 ∧
    (4193827 : Address).toNat = 4193792 + 0x023 ∧ Memory.wf cells.memory = true := by decide

theorem witness_ProtectedWrites :
    fetched.addressClass (0x1003 : Address).toNat = .orderSlot .l0 0 ∧ fetched.slotProtected .l0 0 = true ∧
    locked.addressClass (0x2000 : Address).toNat = .stackRing ∧
    locked.addressClass (0x20FF : Address).toNat = .stackRing ∧
    locked.addressClass (0x3000 : Address).toNat = .eventRing ∧
    locked.addressClass (0x303F : Address).toNat = .eventRing ∧
    (4193793 : Address).toNat = 4193792 + 1 ∧ (0x002 ∈ publishedOffsets) ∧ (0x0FF ∈ publishedOffsets) ∧
    locked.addressClass (0x400F : Address).toNat = .verdict ∧ (0x0 : BitVec 4) ≠ 0xF ∧ (0xE : BitVec 4) ≠ 0xF ∧
    locked.addressClass (4194303 : Address).toNat = .control ∧
    locked.addressClass (4193791 : Address).toNat = .plain := by
  decide

theorem witness_PartialWrite :
    cells.addressClass (0x5000 : Address).toNat = .plain ∧
    (∀ i : Nat, i < 4 → (0x000000AA : Word).extractLsb' (8 * i) 8 =
      if (0x1 : BitVec 4).getLsbD i then (0x111111AA : Word).extractLsb' (8 * i) 8
      else (cells.location (0x5000 : Address).toNat).data.extractLsb' (8 * i) 8) ∧
    (0 : Word) = flipData (cells.location (0x5001 : Address).toNat).data 0 ∧
    classify ((fetched.location (0x5003 : Address).toNat)) = .uncorrectable .poison ∧
    fetched.addressClass (0x1004 : Address).toNat = .orderSlot .l0 1 ∧ fetched.slotProtected .l0 1 = false ∧
    exempted.addressClass (0x5000 : Address).toNat = .exempt := by decide

/-! ## Witnesses: verdicts -/

/-- Lane 0 in service with the given queue, last bound serial and early table. -/
def judged (q : List LabelRecord) (n : Option Serial) (e : List EarlyEntry) : State :=
  { run { active with queue := q, lastBound := n } with early := e }

theorem hostNext_judged : (judged [] none []).hostNext ∧
    (judged [label] (some 7) []).hostNext := ⟨⟨rfl, rfl⟩, rfl, rfl⟩

theorem witness_VerdictRefusedOrLate :
    (judged [] none []).addressClass (0x4000 : Address).toNat = .verdict ∧
    verdictCodeField 0x00000007 = 0 ∧ (judged [] none []).inService (verdictLane 0x00500007) = false ∧
    (judged [{ label with closed := true }] (some 7) []).inService (verdictLane 0x00400007) = true ∧
    verdictCodeField 0x00400007 ≠ 0 ∧
    (∀ x ∈ [{ label with closed := true }], ∀ m, x.serial = some m → low20 m = verdictSerial 0x00400007 → x.closed =
      true) ∧
    (∃ x ∈ [{ label with closed := true }], ∃ m, x.serial = some m ∧ low20 m = verdictSerial 0x00400007) ∧
    isForward (verdictSerial 0x00400006) (low20 7) = false := by
  refine ⟨by decide, by decide, by decide, by decide, by decide, ?_, ?_, by decide⟩
  · intro x hx m _ _; rw [List.mem_singleton.mp hx]
  · exact ⟨_, List.mem_singleton.mpr rfl, 7, rfl, by decide⟩

theorem witness_VerdictTaken :
    (judged [label] (some 7) []).inService (verdictLane 0x02C00007) = true ∧
    Verdict.reject.code = (verdictCodeField 0x02C00007).toNat ∧
    ((judged [label] (some 7) []).lane (verdictLane 0x02C00007)).queue = [] ++ label :: [] ∧
    label.serial = some 7 ∧ low20 7 = verdictSerial 0x02C00007 ∧ label.closed = false := by decide

theorem witness_VerdictHeldOrFull :
    (∀ n, ((judged [] (some 6) []).lane (verdictLane 0x00400007)).lastBound = some n →
      isForward (verdictSerial 0x00400007) (low20 n) = true) ∧
    Verdict.good.code = (verdictCodeField 0x00400007).toNat ∧
    (judged [] none [⟨.l0, 7, .good, 0⟩]).early = [] ++ ⟨.l0, 7, .good, 0⟩ :: [] ∧
    (judged [] none (List.replicate 15 ⟨.l1, 7, .good, 0⟩)).early.length < 16 ∧
    16 ≤ (judged [] none (List.replicate 16 ⟨.l1, 7, .good, 0⟩)).early.length ∧
    (∀ x ∈ (judged [] none (List.replicate 16 ⟨.l1, 7, .good, 0⟩)).early,
      ¬ (x.lane = verdictLane 0x00400007 ∧ x.serial = verdictSerial 0x00400007)) := by
  refine ⟨?_, by decide, by decide, by decide, by decide, by decide⟩
  intro n h; cases h; decide

/-! ## Witnesses: control words -/

theorem witness_IndexWrites :
    (16 : RingIndex) = (0xFFFF0010 : Word).extractLsb' 0 16 ∧
    ((locked.regions.orderRing.get .l0).base ≠ 0 ∧
      ((16 : RingIndex) - (locked.lane .l0).release).toNat ≤ 2 ^ (locked.regions.orderRing.get .l0).size.toNat ∧
      ((16 : RingIndex) - (locked.lane .l0).fetch).toNat ≤ ((16 : RingIndex) - (locked.lane .l0).release).toNat) ∧
    ¬ ((17 : RingIndex) - (locked.lane .l0).release).toNat ≤ 2 ^ (locked.regions.orderRing.get .l0).size.toNat ∧
    ((0 : RingIndex) - locked.writer.stackRead).toNat ≤ (locked.writer.stackWrite - locked.writer.stackRead).toNat ∧
    (locked.writer.stackWrite - locked.writer.stackRead).toNat < ((1 : RingIndex) - locked.writer.stackRead).toNat ∧
    ((0 : RingIndex) - locked.writer.eventRead).toNat ≤ (locked.writer.eventWrite - locked.writer.eventRead).toNat ∧
    (locked.writer.eventWrite - locked.writer.eventRead).toNat < ((1 : RingIndex) - locked.writer.eventRead).toNat := by
  decide

theorem witness_Settings : locked.engine.state = .stopped ∧ (run active).engine.state ≠ .stopped ∧
    ((4 : Word) = ((0x00010004 : Word).extractLsb' 0 16).setWidth 32) ∧ 2 ≤ ((2 : Word).extractLsb' 0 16).toNat ∧
    5 ≤ ((5 : Word).extractLsb' 0 16).toNat ∧ State.reset.regions.locked = false ∧
    locked.regions.locked = true := by decide

/-- An unmapped region holds no address. -/
theorem reset_holds_nothing (e : MapEntryName) (a : Nat) : ¬ State.reset.regions.holds e a := by
  cases e <;> first | exact fun h => h.1 rfl | (rename_i l; cases l <;> exact fun h => h.1 rfl)

/-- The map after reset with the stack ring at an address. -/
def stackAt (b : Address) : State :=
  { State.reset with regions := { State.reset.regions with stackRing := ⟨b, 3⟩ } }

theorem witness_MapWrite :
    State.reset.hostNext ∧ State.reset.regions.locked = false ∧ State.reset.engine.state = .stopped ∧
    (false = true ↔ State.reset.window0.active = true ∧ State.reset.window0.meets (stackAt 0x2000).regions) ∧
    (true = true ↔ exempted.window0.active = true ∧ exempted.window0.meets (stackAt 0x5000).regions) := by
  refine ⟨⟨rfl, rfl⟩, rfl, rfl, ⟨fun h => absurd h (by decide), fun h => absurd h.1 (by decide)⟩, fun _ =>
    ⟨rfl, .stackRing, 0x5000, by decide, by decide, ⟨by decide, by decide, by decide⟩⟩, fun _ => rfl⟩

theorem witness_MapLock :
    ((∀ e a, State.reset.regions.holds e a → a ≤ 4193791) ∧
      ∀ e f a, e ≠ f → State.reset.regions.holds e a → ¬ State.reset.regions.holds f a) ∧
    State.reset.regions.locked = false ∧
    ¬ (∀ e a, (stackAt 4193791).regions.holds e a → a ≤ 4193791) := by
  refine ⟨⟨fun e a h => absurd h (reset_holds_nothing e a), fun e f a _ h => absurd h (reset_holds_nothing e a)⟩,
    rfl, ?_⟩
  intro h
  have := h .stackRing 4193792 ⟨by decide, by decide, by decide⟩
  omega

theorem witness_Window :
    (⟨0x5000, ~~~ 0x5000, 4, ~~~ 4, false⟩ : ExemptWindow) =
      { (⟨0x5000, ~~~ 0x5000, 4, 0, false⟩ : ExemptWindow) with sizeComplement := ~~~ 4 } ∧
    ((0x003FFDFF : Word).toNat + (1 : Word).toNat ≤ 4193792) ∧
    ¬ ((0x003FFDFF : Word).toNat + (2 : Word).toNat ≤ 4193792) ∧
    ¬ (⟨0x5000, ~~~ 0x5000, 4, ~~~ 4, false⟩ : ExemptWindow).meets State.reset.regions ∧
    (⟨0x5000, 0, 4, ~~~ 4, false⟩ : ExemptWindow).baseComplement ≠ ~~~ (0x5000 : Word) := by
  refine ⟨rfl, by decide, by decide, ?_, by decide⟩
  rintro ⟨e, a, _, _, h⟩; exact reset_holds_nothing e a h

/-! ## Witnesses: commands -/

theorem witness_EngineRefusals :
    ((0 : Half) ≠ matching 1 1) ∧ (8 < (9 : Byte).toNat) ∧ ¬ ((0 : Byte) ≠ 0 ∧ (0 : Byte).toNat < 16) ∧
    ¬ ((16 : Byte) ≠ 0 ∧ (16 : Byte).toNat < 16) ∧ 4 ≤ (4 : Byte).toNat ∧
    (under .halted LaneState.initial).engine.state = .halted ∧
    (under .draining LaneState.initial).engine.state = .draining ∧
    ((run active).engine.state = .running ∧ (1 : Byte) ≠ 0 ∧ (1 : Byte).toNat < 16 ∧
      ((run active).lane .l0).service ≠ .off) ∧
    ({ run active with engine := { engine .halted with safe := true } } : State).engine.safe = true ∧
    (∀ l : Lane, (BitVec.ofNat 8 l.number).toNat = l.number) ∧
    (((run (gate label none (.faulted .knife))).lane .l0).service.isFaulted = true ∧
      ((run (gate label none (.faulted .knife))).lane .l0).queue ≠ []) ∧
    ((run { LaneState.initial with service := .faulted .backlog, parked := some record }).lane .l0).parked ≠ none ∧
    ({ run { LaneState.initial with service := .faulted .knife } with regions := RegionMap.initial } : State).engine.state =
      .running := by
  refine ⟨by decide, by decide, by decide, by decide, by decide, by decide, by decide, by decide, by decide, ?_,
    by decide, by decide, by decide⟩
  intro l; cases l <;> decide

theorem witness_Run :
    (1 : Byte).toNat < 16 ∧ locked.engine.state = .stopped ∧ locked.runsLane 1 .l0 ∧
    (∀ n, locked.runCheck (locked.runsLane 1) n) ∧ ¬ State.reset.runCheck (State.reset.runsLane 1) 1 ∧
    (∀ m, m < 1 → State.reset.runCheck (State.reset.runsLane 1) m) := by
  have ring : ∀ l : Lane, (locked.regions.orderRing.get l).base ≠ 0 := by intro l; cases l <;> decide
  have pitch : ∀ l : Lane, locked.settings.pmin.toNat ≤ (locked.settings.lanePitch.get l).toNat := by
    intro l; cases l <;> decide
  refine ⟨by decide, rfl, ⟨by decide, rfl, rfl, rfl⟩, ?_, fun h => absurd (show State.reset.regions.locked =
    true from h) (by decide), ?_⟩
  · intro n
    match n with
    | 0 => trivial
    | 1 => rfl
    | 2 => exact fun l _ => ring l
    | 3 => show (0x2000 : Address) ≠ 0; decide
    | 4 => show (0x3000 : Address) ≠ 0; decide
    | 5 => show 2000 + 64 < 3000; decide
    | 6 => show 3000 + 63 + 200 < 4800; decide
    | 7 => show 200 < 300; decide
    | 8 => show 4800 ≤ 23 * 300; decide
    | 9 => show 40 < 2000; decide
    | 10 => exact fun l _ => pitch l
    | 11 => rfl
    | _ + 12 => trivial
  · intro m h
    obtain rfl : m = 0 := by omega
    trivial

theorem witness_Drain :
    (run { active with queue := [label] }).engine.state = .running ∧
    ((1 : Byte).getLsbD Lane.l0.number = true ∧ ((run { active with queue := [label] }).lane .l0).service = .active ∧
      ((run { active with queue := [label] }).lane .l0).orderedCount ≠ 0) ∧
    ((1 : Byte).toNat = 2 ^ Lane.l0.number ∧ ((run active).lane .l0).orderedCount = 0 ∧
      (run active).writer.holding.length < 4) := by decide

theorem witness_DrainOfMixedLanes :
    (∀ l : Lane, (3 : Byte).getLsbD l.number = true ↔ (3 : Byte).getLsbD l.number = true ∧
      ((State.setLane (run { active with queue := [label] }) .l1 active).lane l).service = .active) ∧
    ((State.setLane (run { active with queue := [label] }) .l1 active).lane .l1).orderedCount = 0 ∧
    (3 : Byte) ≠ 0 := by
  refine ⟨?_, rfl, by decide⟩
  intro l; cases l <;> decide

theorem witness_LaneCommands :
    ((under .halted LaneState.initial).engine.state = .halted ∧
    (under .halted LaneState.initial).engine.safe = false) ∧
    (locked.lane .l0).openStack = none ∧
    (((run (gate label (some stack) .active)).lane .l0).openStack = some stack ∧
      ((run (gate label (some stack) .active)).lane .l0).stacker = .filling stack.tray) ∧
    (((run { LaneState.initial with service := .faulted .knife }).lane .l0).service = .faulted .knife ∧
      ((run { LaneState.initial with service := .faulted .knife }).lane .l0).queue = [] ∧
      ((run { LaneState.initial with service := .faulted .knife }).lane .l0).parked = none) ∧
    (locked.lane .l1).service = .off ∧ (locked.lane .l1).queue = [] ∧
    (under .draining active).engine.state = .draining ∧ ((under .draining active).lane .l0).service = .active ∧
    ((run { LaneState.initial with service := .bypassed }).lane .l0).service = .bypassed := by decide

/-- The memory command unit in a state, with the operands given. -/
def walk (v : MemState) (start count : Word) : State :=
  { locked with mem := { MemUnit.initial with
      state := v, walk := some 0x01, opStart := start, opCount := count, start := start.toNat, count := count.toNat,
      progress := start.toNat } }

theorem witness_MemoryCommands :
    ((walk .idle 4194303 1).mem.state = .idle ∧ (walk .idle 4194303 1).mem.opStart.toNat ≤ 4194303 ∧
      (walk .idle 4194303 1).mem.opStart.toNat + (walk .idle 4194303 1).mem.opCount.toNat ≤ 4194304) ∧
    (∀ i : Nat, i < 1 → (walk .idle 0x5000 1).clearable (0x5000 + i)) ∧
    (∃ i, i < 1 ∧ ¬ (walk .idle 4194303 1).clearable (4194303 + i)) ∧
    classify ⟨5, checkByte 5⟩ = .clean ∧
    (walk .busy 0 1).mem.state = .busy ∧ (walk .suspended 0 1).mem.state = .suspended ∧
    ¬ (1 ≤ (walk .idle 0 0).mem.opCount.toNat) ∧ ¬ ((walk .idle 0 65537).mem.opCount.toNat ≤ 65536) := by
  refine ⟨by decide, ?_, ⟨0, by decide, ?_⟩, by decide, by decide, by decide, by decide, by decide⟩
  · intro i h
    obtain rfl : i = 0 := by omega
    have e : (walk .idle 0x5000 1).addressClass (0x5000 + 0) = .plain := by decide
    exact ⟨by rw [e]; decide, by rw [e]; decide, by rw [e]; decide, fun l k h => by rw [e] at h; cases h⟩
  · have e : (walk .idle 4194303 1).addressClass (4194303 + 0) = .control := by decide
    exact fun h => h.1 e

/-! ## Witnesses: grants -/

/-- Lane 0 with words of a fetch read. -/
def fetching (ws : List FetchedWord) : State :=
  { run { active with put := 1, fetch := 1, reservation := some ⟨0, none, ws⟩ } with memory :=
    [(0x1000, checkedLocation 7), (0x1001, checkedLocation 5), (0x1002, checkedLocation 600), (0x1003,
      checkedLocation 0)] }

theorem witness_Fetch :
    (((run { active with put := 1 }).lane .l0).service = .active ∧
    ((run { active with put := 1 }).lane .l0).windowDepth < 8 ∧
      ((run { active with put := 1 }).lane .l0).reservation = none ∧
      ((run { active with put := 1 }).lane .l0).put ≠ ((run { active with put := 1 }).lane .l0).fetch) ∧
    ((run active).lane .l0).put = ((run active).lane .l0).fetch ∧
    (run active).inTurn .fetch = false ∧
    ((fetching []).inTurn .fetch = true ∧ (fetching []).fetchLane = some .l0 ∧
      ((fetching []).lane .l0).reservation = some ⟨0, none, []⟩ ∧
      0x1000 = ((fetching []).regions.orderRing.get .l0).base.toNat + 4 * ((0 : RingIndex).toNat % 2 ^ 4) + 0) ∧
    ((fetching [⟨.clean, 7⟩, ⟨.clean, 5⟩, ⟨.clean, 600⟩]).inTurn .fetch = true ∧
      (fetching [⟨.clean, 7⟩, ⟨.clean, 5⟩, ⟨.clean, 600⟩]).fetchLane = some .l0) := by decide

theorem witness_FetchReads : (fetching []).reads 0x1000 .clean 7 := by
  have c : (fetching []).settings.checkMode = .checkScrub := rfl
  have x : (fetching []).addressClass 0x1000 = .orderSlot .l0 0 := by decide
  have k : classify ((fetching []).location 0x1000) = .clean := by decide
  refine ⟨fun h => ?_, fun _ _ => ?_⟩
  · rcases h with h | h
    · rw [c] at h; cases h
    · rw [x] at h; cases h
  · unfold State.readsChecked; rw [k]; exact ⟨rfl, by decide⟩

theorem witness_FetchChecks : (∀ c, (entry none).passes none 300 c) ∧ (entry none).failed = none ∧
    ¬ (entry (some .pitch)).passes none 601 .pitch := by
  refine ⟨?_, rfl, by unfold WindowEntry.passes; decide⟩
  intro c
  cases c
  · intro w hw x; simp only [List.mem_cons, List.not_mem_nil, or_false] at hw
    rcases hw with rfl | rfl | rfl | rfl <;> exact fun h => nomatch h
  · exact fun p h => nomatch h
  all_goals (unfold WindowEntry.passes; decide)

theorem witness_MemoryGrants :
    ({ cells with scrubQueue := [0x5001] } : State).memInTurn .scrub = true ∧
    cells.memInTurn .scrub = false ∧
    ({ exempted with scrubQueue := [0x5001] } : State).addressClass 0x5001 = .exempt ∧
    (walk .busy 0x5000 2).memInTurn .walk = true ∧ (walk .busy 0x5000 2).mem.walk = some 0x01 ∧
    (walk .idle 0x5000 2).memInTurn .walk = false ∧
    ({ walk .busy 0x5000 1 with mem := { (walk .busy 0x5000 1).mem with walk := some 0x02 } } : State).memInTurn .walk = true ∧
    ({ walk .busy 0x5000 1 with mem := { (walk .busy 0x5000 1).mem with walk := some 0x02 } } : State).mem.walk =
      some 0x02 := by
  decide

theorem witness_MemoryGrantReads : cells.readsChecked 0x5000 .clean 5 ∧ cells.readsChecked 0x5001 (.corrected 0) 0 ∧
    cells.readsChecked 0x5002 (.uncorrectable .blank) 0 ∧ cells.readsChecked 0x5003 (.uncorrectable .poison) 9 ∧
    lenient.readsChecked 0x5002 .blank 0 := by
  have c0 : classify (cells.location 0x5000) = .clean := by decide
  have c1 : classify (cells.location 0x5001) = .corrected 0 := by decide
  have c2 : classify (cells.location 0x5002) = .blank := by decide
  have c3 : classify (cells.location 0x5003) = .uncorrectable .poison := by decide
  have c4 : classify (lenient.location 0x5002) = .blank := by decide
  refine ⟨?_, ?_, ?_, ?_, ?_⟩ <;> unfold State.readsChecked <;> simp only [c0, c1, c2, c3, c4] <;> decide

/-- A stack record held and an event queued, their first words stored. -/
def recording (k : RecordKind) (n m : Nat) : State :=
  { locked with writer := { Writer.initial with
      holding := [record], stackWords := n, lastKind := k, eventWords := m, publication := [0x003]
      events := [{ sequence := 0, code := .laneFaulted, lane := some .l0, serial := none, address := none,
                   value := some 1, position := 0 }] } }

theorem witness_RecordGrants :
    (recording .status 0 0).recordInTurn .stack = true ∧ (recording .status 31 0).recordInTurn .stack = true ∧
    (recording .status 32 0).recordInTurn .stack = true ∧ (recording .stack 0 0).recordInTurn .event = true ∧
    (recording .stack 0 3).recordInTurn .event = true ∧ (recording .stack 0 4).recordInTurn .event = true ∧
    (recording .event 0 0).recordInTurn .status = true ∧ (recording .stack 0 0).recordInTurn .stack = false ∧
    (recording .status 32 0).parkedLane = none ∧
    (State.setLane (recording .status 32 0) .l2 { LaneState.initial with parked := some record }).parkedLane =
      some .l2 := by
  decide

/-! ## Witnesses: shared operations and invariants -/

theorem witness_Classification :
    (⟨0, 0⟩ : Location).data = 0 ∧ (⟨BitVec.allOnes 32, 0xFF⟩ : Location).check = 0xFF ∧
    (0 : Byte) = checkByte 5 ^^^ checkByte 5 ∧ (0x80 : Byte) = (checkByte 5 ^^^ 0x80) ^^^ checkByte 5 ∧
    (0x81 : Byte) = (checkByte 5 ^^^ 0x81) ^^^ checkByte 5 ∧
    (0x03 : Byte) = (checkByte 5 ^^^ 0x03) ^^^ checkByte 5 ∧ (0x03 : Byte) ∉ singleBitSyndromes := by decide

theorem witness_Events :
    (State.reset.settings.reportingMode = .label ∧ EventCode.kdoneStray.severity = .info) ∧
    EventCode.spill.severity = .label ∧ State.reset.writer.events.length < 8 ∧
    8 ≤ (List.replicate 8 (0 : Nat)).length := by decide

/-- A scrub queue with as many addresses as given. -/
def scrubbing (n : Nat) : State := { locked with scrubQueue := (List.range n).map (· + 0x5000) }

theorem witness_Reports :
    (locked.capture.count < 65535 ∧ locked.capture.count + 1 = ({ locked with settings :=
      { Settings.default with correctableThreshold := 1 } } : State).settings.correctableThreshold.toNat) ∧
    locked.capture.correctable.held = false ∧ locked.capture.uncorrectable.held = false ∧
    (locked.settings.checkMode = .checkScrub ∧ lenient.settings.checkMode ≠ .checkScrub) ∧
    (0x5000 ∈ (scrubbing 4).scrubQueue ∧ 0x5004 ∉ (scrubbing 4).scrubQueue ∧ 4 ≤ (scrubbing 4).scrubQueue.length) ∧
    (0x5003 ∉ (scrubbing 3).scrubQueue ∧ (scrubbing 3).scrubQueue.length < 4) ∧
    locked.stopReq = false ∧ locked.attn = false := by decide

theorem witness_Layouts :
    (({ record with short := carried } : StackRecord).short.entries[0]? = some ⟨3, .spill, 0, false⟩ ∧
      carried.entries[11]? = none) ∧
    (locked.mem.lastRefusal = none ∧ locked.capture.correctable.contents = none ∧
      locked.capture.uncorrectable.contents = none ∧ locked.primary = none) ∧
    (∃ x, (cells.detectCorrectable .scrub 0x5001 0).capture.correctable.contents = some x) ∧
    (∃ x, (cells.consumeUncorrectable .verify 0x5003 .poison).capture.uncorrectable.contents = some x) ∧
    (∃ p, (cells.consumeUncorrectable .verify 0x5003 .poison).primary = some p) ∧
    (((run active).lane .l0).queue = [] ∧ ((run active).lane .l0).openStack = none ∧
      ((run (gate gated (some stack) .active)).lane .l0).openStack = some stack ∧
      ((run { active with tracker := tracking 0 0 }).lane .l0).tracker.tracked = some ⟨0, 600⟩) ∧
    (0x03F < 512 ∧ ¬ (0x03F ≤ 1 ∨ 0x040 ≤ 0x03F ∧ 0x03F ≤ 0x054)) :=
  ⟨⟨rfl, rfl⟩, ⟨rfl, rfl, rfl, rfl⟩, ⟨_, rfl⟩, ⟨_, rfl⟩, ⟨_, rfl⟩, ⟨rfl, rfl, rfl, rfl⟩, by decide⟩

theorem witness_Steps : ∃ t, step { State.reset with pending := [.safeRise] } = .next t ∧
    Memory.wf { State.reset with pending := [Instr.safeRise] }.memory = true ∧
    { State.reset with pending := [Instr.safeRise] }.portAtRest := ⟨_, rfl, rfl, rfl, rfl⟩

/-- Three labels of lane 0 that left the queue, listed in its carry list, with SAFE about to rise. -/
def listed : State :=
  { run { active with departed := 3, carry := ⟨[], 2, 1⟩ } with pending := [.safeRise] }

theorem sound_of_idle (x : LaneState) (l : Lane) (h1 : x.queue = []) (h2 : x.window = []) (h3 : x.reservation = none)
    (h4 : x.openStack = none) (h5 : x.parked = none) (h6 : x.tracker.synthetic = 0) : x.sound l := by
  constructor <;> simp [h1, h2, h3, h4, h5, h6]

theorem witness_StepKeepsRingsAndAccount :
    listed.sound ∧ listed.ringsHold ∧ (∀ l, listed.accountedFor l = (listed.lane l).departed) ∧ listed.accountHolds ∧
    ∃ t, step listed = .next t ∧ (t.lane .l0).departed = 3 ∧ ∀ l, t.unsaturated l := by
  refine ⟨⟨?_, ?_, ?_, ?_, ?_, ?_, ?_, ?_⟩, ?_, ?_, ?_, _, rfl, ?_, ?_⟩
  · intro l; cases l <;> exact sound_of_idle _ _ rfl rfl rfl rfl rfl rfl
  · intro h; exact absurd h (by decide)
  · intro h; exact absurd h (by decide)
  · intro _; exact ⟨.l0, rfl⟩
  · intro h; exact absurd h (by decide)
  · intro l _; cases l <;> rfl
  · intro e h; cases h
  · intro h; exact absurd h (by decide)
  · intro l; cases l <;> exact ⟨by decide, by decide, by decide⟩
  · intro l; cases l <;> decide
  · intro l _; cases l <;> decide
  · decide
  · intro l
    refine ⟨?_, ?_, ?_, ?_⟩
    · simp only [Shortfall.unsaturated]
      cases l <;> decide +kernel
    · intro r hr; cases l <;> cases hr
    · intro k hk; cases l <;> cases hk
    · cases l <;> exact ⟨by decide, by decide⟩

/-! ## Steps on small states -/

/-- A KDONE with no cut fired gives the stray event only in reporting mode ALL (05 R78, 11 R178). -/
theorem test_stray_kdone_is_filtered :
    ((match exec (.kdone .l0) locked with
      | .next t => t.writer.events.length
      | _ => 99) = 0) ∧
    ((match exec (.kdone .l0) { locked with settings := { Settings.default with reportingMode := .all } } with
      | .next t => t.writer.events.map (·.code)
      | _ => []) = [EventCode.kdoneStray]) := by decide

/-- A forward tick of a lane with a cut position at 1 marks the cut (01 R5). -/
theorem test_tick_reaches_a_cut :
    (match exec (.encoderTransition true false) (run { active with queue := [{ label with cut := 1 }] }) with
      | .next t => (t.web.position, (t.lane .l0).queue.map (·.due.cut))
      | _ => (0, [])) = (1, [true]) := by decide

/-- A walk word presented before a scrub was queued is served before it, though a scrub would be presented next
(09 R152). -/
theorem test_a_presented_request_keeps_its_kind :
    ({ walking 2 with scrubQueue := [0x5001] } : State).nextMem = some .scrub ∧
    ({ walking 2 with scrubQueue := [0x5001],
                      arbiter := { Arbiter.initial with memRequest := some .walk } } : State).nextMem =
      some .walk := by decide

/-- An event record stored whole still owes its index word after a write to the event ring's map entry; one stored in
part begins again (11 R179, log 11). -/
theorem test_a_map_write_leaves_the_index_word_owed :
    (recording .stack 0 4).writer.resetEventRing.eventWords = 4 ∧
    (recording .stack 0 3).writer.resetEventRing.eventWords = 0 ∧
    ({ recording .stack 0 4 with regions := RegionMap.initial } : State).eventWaiting = true ∧
    ({ recording .stack 0 0 with regions := RegionMap.initial } : State).eventWaiting = false := by decide

/-- SAFE high halts a RUNNING engine (07 R117). -/
theorem test_safe_halts :
    (match exec .safeRise (run active) with
      | .next t => (t.engine.state, t.engine.cause, (t.lane .l0).service, t.stopReq)
      | _ => (.stopped, none, .active, false)) = (.halted, some .safety, .off, true) := by decide

/-- RUN starts lane 0 (07 R112, R114). -/
theorem test_run_starts_lane_0 :
    (match exec (.run 1 (matching 0x01 1)) locked with
      | .next t => (t.engine.state, (t.lane .l0).service, t.engine.result, t.engine.detail)
      | _ => (.stopped, .off, .none, 0)) = (.running, .active, .done, 1) := by decide

/-- A host read of the identity words finds the start-up image (11 R177). -/
theorem test_identity_words :
    (match exec (.hostRead 4193792) State.reset with
      | .next t => t.hostEnd
      | _ => none) = some ⟨true, some 0x00C4A510⟩ := by decide +kernel

end Sys2Proof.Tests
end

section
/-! The web family settled (01): power-on values, encoder transitions, SPLICE, marks and mark-window expiries. Each
operation of the web position unit and of a mark tracker has one equation per case; the statements are assembled from
these with what `act_both` says of a step's end. -/

namespace Sys2Proof.Machine

/-- The lanes after a step, given the block's own effect. -/
theorem act_lanes {s u : State} {f : State → State} (h : f s = u) : (s.act f).lanes = u.lanes := by
  subst h; rfl

/-! ## Encoder transitions (01 R2 to R5) -/

/-- The state with a pair of levels taken as the reference. -/
def State.withReference (s : State) (a b : Bool) : State :=
  { s with web := { s.web with refA := a, refB := b } }

/-- A lane with its targets that a position reaches marked as reached, under an engine that is going or not (01 R5). -/
def LaneState.reachedAt (x : LaneState) (going : Bool) (w : Half) (p : WebPos) : LaneState :=
  { x with
    queue := x.queue.map (·.reach p)
    tracker := x.tracker.reach (going && (x.service == .active || x.service == .draining)) w p }

/-- The forward order has no pair that follows itself. -/
theorem nextPair_ne : ∀ p, nextPair p ≠ p := by decide

/-- No pair is both the successor and the predecessor of another. -/
theorem nextPair_nextPair_ne : ∀ p, nextPair (nextPair p) ≠ p := by decide

/-- Neighbours in the forward order share a level. -/
theorem nextPair_shares : ∀ p, (nextPair p).1 = p.1 ∨ (nextPair p).2 = p.2 := by decide

theorem encoderTransition_same (s : State) : s.encoderTransition s.web.refA s.web.refB = s := by
  simp [State.encoderTransition]

theorem encoderTransition_forward {s : State} {a b : Bool} (h : (a, b) = nextPair (s.web.refA, s.web.refB)) :
    s.encoderTransition a b = (s.withReference a b).forwardTick := by
  have moved : (a, b) ≠ (s.web.refA, s.web.refB) := h ▸ nextPair_ne _
  simp only [State.encoderTransition]
  rw [if_neg moved, if_pos h]
  rfl

theorem encoderTransition_reverse {s : State} {a b : Bool} (h : nextPair (a, b) = (s.web.refA, s.web.refB)) :
    s.encoderTransition a b = (s.withReference a b).reverseTick := by
  have moved : (a, b) ≠ (s.web.refA, s.web.refB) := h ▸ (nextPair_ne _).symm
  have notForward : (a, b) ≠ nextPair (s.web.refA, s.web.refB) := h ▸ (nextPair_nextPair_ne _).symm
  simp only [State.encoderTransition]
  rw [if_neg moved, if_neg notForward, if_pos h]
  rfl

theorem encoderTransition_double {s : State} {a b : Bool} (ha : a ≠ s.web.refA) (hb : b ≠ s.web.refB) :
    s.encoderTransition a b = (s.withReference a b).give { code := .encoderDoubleStep } := by
  have moved : (a, b) ≠ (s.web.refA, s.web.refB) := fun h => ha (congrArg Prod.fst h)
  have notForward : (a, b) ≠ nextPair (s.web.refA, s.web.refB) := fun h =>
    (nextPair_shares (s.web.refA, s.web.refB)).elim (fun k => ha ((congrArg Prod.fst h).trans k))
      (fun k => hb ((congrArg Prod.snd h).trans k))
  have notReverse : nextPair (a, b) ≠ (s.web.refA, s.web.refB) := fun h =>
    (nextPair_shares (a, b)).elim (fun k => ha (k.symm.trans (congrArg Prod.fst h)))
      (fun k => hb (k.symm.trans (congrArg Prod.snd h)))
  simp only [State.encoderTransition]
  rw [if_neg moved, if_neg notForward, if_neg notReverse]
  rfl

/-- Position arrivals of a lane read nothing of the other lanes. -/
theorem reachLane_eq {s u : State} (l : Lane) (h : u = { s with lanes := u.lanes }) :
    u.reachLane l = u.setLane l ((u.lane l).reachedAt s.engineGoing s.settings.w s.web.position) := by
  rw [h]; rfl

/-- A forward tick that advances the position marks what it reaches in every lane, and nothing else (01 R3, R5). -/
theorem forwardTick_advance {s : State} (h : s.web.backlog = 0) :
    s.forwardTick = { s with
      web := { s.web with position := s.web.position + 1 }
      lanes := s.forwardTick.lanes } ∧
    ∀ l, s.forwardTick.lane l = (s.lane l).reachedAt s.engineGoing s.settings.w (s.web.position + 1) := by
  have e : s.forwardTick =
      ({ s with web := { s.web with position := s.web.position + 1 } } : State).forLanes State.reachLane := by
    rw [State.forwardTick, if_pos h]
  rw [e]
  exact forLanes_lane State.reachLane
    (fun _ x => x.reachedAt s.engineGoing s.settings.w (s.web.position + 1)) _ (fun _ l hu => reachLane_eq l hu)

theorem forwardTick_payback {s : State} (h : 0 < s.web.backlog) :
    s.forwardTick = { s with web := { s.web with backlog := s.web.backlog - 1 } } := by
  rw [State.forwardTick, if_neg (Nat.ne_of_gt h)]

/-- A count within the hold limit is raised by one as far as the limit. -/
theorem raiseHolding_eq_min {limit n : Nat} (h : n ≤ limit) : raiseHolding limit n = min (n + 1) limit := by
  unfold raiseHolding
  split <;> omega

/-- A reverse tick that the engine does not take: it is not going, or the limit is not exceeded (01 R4, 07 R117). -/
theorem reverseTick_backlog {s : State} (hold : s.web.backlog ≤ 65536)
    (h : s.engineGoing = false ∨ min (s.web.backlog + 1) 65536 ≤ s.settings.reverseLimit.toNat) :
    s.reverseTick = { s with web := { s.web with backlog := min (s.web.backlog + 1) 65536 } } := by
  have n : raiseHolding Config.backlogHold s.web.backlog = min (s.web.backlog + 1) 65536 := raiseHolding_eq_min hold
  simp only [State.reverseTick, n]
  split
  · next exceeded =>
    have idle : s.engineGoing = false := h.resolve_right (Nat.not_le.mpr exceeded)
    exact if_neg (show ¬ s.engineGoing = true by simp [idle])
  · rfl

/-! ## SPLICE (01 R6, R7) -/

/-- A rise of SPLICE flags the queued records of every lane that reach past the position (01 R6, 02 R29). -/
theorem spliceRise_flags {s : State} (h : s.web.splice = false) :
    ∃ u : State, s.spliceRise = u.give { code := .spliceStart } ∧
      u = { s with web := { s.web with splice := true }, lanes := u.lanes } ∧
      ∀ l, u.lane l = { s.lane l with queue := (s.lane l).queue.map (·.splicedAt s.web.position) } := by
  have announce := forLanes_lane State.announceSplice
    (fun _ x => { x with queue := x.queue.map (·.splicedAt s.web.position) })
    { s with web := { s.web with splice := true } } (fun u l hu => by rw [hu]; rfl)
  exact ⟨_, by rw [State.spliceRise, if_neg (by simp [h])], announce⟩

theorem spliceRise_high {s : State} (h : s.web.splice = true) : s.spliceRise = s := by
  rw [State.spliceRise, if_pos h]

/-! ## Marks that start no label (01 R10, R11) -/

theorem markPulse_outOfService {s : State} {l : Lane} (h : s.inService l = false) : s.markPulse l = s := by
  simp [State.markPulse, h]

theorem markPulse_backlog {s : State} {l : Lane} (h : s.inService l = true) (hb : s.web.backlog ≠ 0) :
    s.markPulse l = s.give
      { code := .markBacklog, lane := some l, value := some (BitVec.ofNat 32 s.web.backlog) } := by
  simp [State.markPulse, h, hb]

theorem markPulse_measured {s : State} {l : Lane} (h : s.inService l = true) (hb : s.web.backlog = 0) :
    s.markPulse l = s.measureMark l := by
  simp [State.markPulse, h, hb]

theorem measureMark_spurious {s : State} {l : Lane} {k : Tracked} (hk : (s.lane l).tracker.tracked = some k)
    (hd : (s.web.position - k.lastMark).toNat < s.settings.pmin.toNat) :
    s.measureMark l = s.give
      { code := .spuriousMark, lane := some l, value := some (s.web.position - k.lastMark) } := by
  simp only [State.measureMark, hk]
  exact if_pos hd

/-! ## Label starts (01 R9, 02 R20) -/

/-- A label started: its record created, and the tracker answered with a consecutive-synthetic count. -/
def State.startLabel (s : State) (l : Lane) (t : LabelStart) (n : Nat) : State :=
  (s.createRecord l t).1.answerTracker l t.mark (s.createRecord l t).2.pitch n

/-- What a label start of lane `l` leaves of `s`: `u`, which is the state `e` after the reports but for the early table and
lane `l`, where the new record is queued. -/
def State.labelStarted (s u e : State) (l : Lane) (t : LabelStart) (n : Nat) : Prop :=
  u = { e with lanes := u.lanes, early := s.earlyAfterStart l } ∧
  (∀ m, m ≠ l → u.lane m = s.lane m) ∧ (u.lane l).startKeeps (s.lane l) ∧
  (u.lane l).startedFrom (s.lane l) s.settings l t s.web.splice (s.earlyHeld l) n

/-- The record created holds the serial that the lane binds. -/
theorem createRecord_serial (s : State) (l : Lane) (t : LabelStart) :
    (s.createRecord l t).2.serial = (s.lane l).bindsSerial := by
  rw [createRecord_held]; exact recordMade_serial s l t

theorem startLabel_started (s : State) (l : Lane) (t : LabelStart) (n : Nat) :
    s.labelStarted (s.startLabel l t n) (s.startReported l t.mark) l t n := by
  obtain ⟨_, _, others, _⟩ := createRecord_spec s l t
  refine ⟨?_, fun m hm => ?_, createRecord_started s l t n _ rfl⟩
  · unfold State.startLabel State.answerTracker
    rw [createRecord_eq]; rfl
  · rw [State.startLabel, State.answerTracker, lane_setLane_other _ _ hm, others m hm]

/-- An event given after a label start is given after its reports. -/
theorem labelStarted_giveAt {s u e : State} {l : Lane} {t : LabelStart} {n : Nat} (h : s.labelStarted u e l t n)
    (p : WebPos) (b : EventBody) : s.labelStarted (u.giveAt p b) (e.giveAt p b) l t n := by
  obtain ⟨eq, others, keeps, started⟩ := h
  have given : u.giveAt p b = (e.giveAt p b).withStart u.lanes (s.earlyAfterStart l) := by
    rw [← withStart_giveAt]; exact congrArg (·.giveAt p b) eq
  refine ⟨?_, ?_, ?_, ?_⟩
  · rw [giveAt_lanes]; exact given
  · intro m hm; rw [giveAt_lane, others m hm]
  · rw [giveAt_lane]; exact keeps
  · rw [giveAt_lane]; exact started

/-! ## Marks that start a label (01 R12, R13) -/

/-- The label start of an accepted mark: SENSED at the web position, off-register where the lower edge of the window is
forward of it. -/
def State.sensedStart (s : State) (l : Lane) : LabelStart :=
  { origin := .sensed, mark := s.web.position, markMissing := false,
    regFault := (s.lane l).tracker.tracked.any (fun k => k.offRegister s.settings.w s.web.position) }

/-- A mark in SEEKING, or in TRACKING not before the window, starts its label without an event of its own. -/
theorem measureMark_onRegister {s : State} {l : Lane}
    (hp : ∀ k, (s.lane l).tracker.tracked = some k → s.settings.pmin.toNat ≤ (s.web.position - k.lastMark).toNat)
    (on : ∀ k, (s.lane l).tracker.tracked = some k → k.offRegister s.settings.w s.web.position = false) :
    s.measureMark l = s.startLabel l (s.sensedStart l) 0 := by
  unfold State.measureMark State.sensedStart
  cases hk : (s.lane l).tracker.tracked with
  | none => rfl
  | some k =>
    dsimp only [Option.any_some]
    rw [if_neg (Nat.not_lt.mpr (hp k hk))]
    simp only [State.acceptTracked, on k hk, Bool.false_eq_true, if_false]
    rfl

/-- A mark before the window starts its label with OFF_REGISTER. -/
theorem measureMark_offRegister {s : State} {l : Lane} {k : Tracked} (hk : (s.lane l).tracker.tracked = some k)
    (hp : s.settings.pmin.toNat ≤ (s.web.position - k.lastMark).toNat)
    (off : k.offRegister s.settings.w s.web.position = true) :
    s.measureMark l = (s.startLabel l (s.sensedStart l) 0).giveAt s.web.position
      { code := .offRegister, lane := some l, serial := (s.lane l).bindsSerial,
        value := some (s.web.position - k.pred) } := by
  simp only [State.measureMark, State.sensedStart, hk, Option.any_some]
  rw [if_neg (Nat.not_lt.mpr hp)]
  simp only [State.acceptTracked, off, if_true, createRecord_serial]
  rfl

/-! ## Mark-window expiries (01 R14, R15) -/

/-- The label start of an expiry: SYNTHETIC at the predicted position. -/
def Tracked.syntheticStart (k : Tracked) : LabelStart :=
  { origin := .synthetic, mark := k.pred, regFault := false, markMissing := true }

/-- A reached expiry after its label start and MARK_MISSING, before the lane fault of a third one. -/
def State.syntheticLabel (s : State) (l : Lane) (k : Tracked) : State :=
  (s.startLabel l k.syntheticStart ((s.lane l).tracker.synthetic + 1)).giveAt k.pred
    { code := .markMissing, lane := some l, serial := (s.lane l).bindsSerial,
      value := some (BitVec.ofNat 32 ((s.lane l).tracker.synthetic + 1)) }

theorem takeExpiry_reached {s : State} {l : Lane} {k : Tracked} (hs : s.inService l = true)
    (hd : (s.lane l).tracker.expiryDue = true) (hk : (s.lane l).tracker.tracked = some k) :
    s.takeExpiry l = if (s.lane l).tracker.synthetic = 2 then (s.syntheticLabel l k).laneFault l .trackingLost
      else s.syntheticLabel l k := by
  have third : (s.lane l).tracker.synthetic + 1 = 3 ↔ (s.lane l).tracker.synthetic = 2 := by omega
  simp only [State.takeExpiry, hd, hs, hk, Bool.not_true, Bool.false_eq_true, if_false, State.expire,
    createRecord_serial, third]
  rfl

theorem syntheticLabel_started (s : State) (l : Lane) (k : Tracked) :
    s.labelStarted (s.syntheticLabel l k) ((s.startReported l k.pred).giveAt k.pred
        { code := .markMissing, lane := some l, serial := (s.lane l).bindsSerial,
          value := some (BitVec.ofNat 32 ((s.lane l).tracker.synthetic + 1)) })
      l k.syntheticStart ((s.lane l).tracker.synthetic + 1) :=
  labelStarted_giveAt (startLabel_started s l _ _) _ _

theorem syntheticLabel_engine (s : State) (l : Lane) (k : Tracked) : (s.syntheticLabel l k).engine = s.engine := by
  obtain ⟨_, _, _, engine, _⟩ := createRecord_spec s l k.syntheticStart
  rw [State.syntheticLabel, giveAt_engine]
  exact engine

/-- The fault of a lane discards its early entries, whatever its label start left of them. -/
theorem earlyAfterStart_discard (s : State) (l : Lane) :
    (s.earlyAfterStart l).filter (fun x => x.lane != l) = s.early.filter (fun x => x.lane != l) := by
  unfold State.earlyAfterStart
  cases (s.lane l).bindsSerial with
  | none => rfl
  | some n =>
    dsimp only
    rw [List.filter_filter]
    refine List.filter_congr fun x _ => ?_
    cases x.lane != l <;> rfl

/-! ## Faults of a lane in service -/

/-- A lane in service is ACTIVE or DRAINING. -/
theorem inService_service {s : State} {l : Lane} (h : s.inService l = true) :
    (s.lane l).service = .active ∨ (s.lane l).service = .draining := by
  simp only [State.inService, Bool.and_eq_true, Bool.or_eq_true, beq_iff_eq] at h
  exact h.2

theorem faulted_of_started {y z x : LaneState} {q : List LabelRecord} {c : FaultCause} (keeps : z.startKeeps x)
    (h : y.faultedFrom z q c) : y.faultedFrom x q c := by
  unfold LaneState.startKeeps at keeps
  rw [keeps] at h
  exact h

/-- The engine after a fault reads of the two states only their engines, the lane's own queue after the fault, and the
other lanes before it. -/
theorem engineAfterFault_congr {v t u s : State} {l : Lane} (h : v.engineAfterFault u l) (hv : t.engine = v.engine)
    (hl : t.lane l = v.lane l) (hu : u.engine = s.engine) (hm : ∀ m, m ≠ l → u.lane m = s.lane m) :
    t.engineAfterFault s l := by
  have active : ∀ m, m ≠ l → ((u.lane m).service = .active ↔ (s.lane m).service = .active) := by
    intro m k; rw [hm m k]
  have done : u.othersDone l ↔ s.othersDone l :=
    forall₂_congr fun m k => by rw [hm m k]
  unfold State.engineAfterFault at h ⊢
  rw [hu, done] at h
  rw [hv, hl]
  obtain ⟨eq, stopped, halted, running, runOut⟩ := h
  exact ⟨eq, stopped, halted, fun r ⟨m, k, a⟩ => running r ⟨m, k, (active m k).mpr a⟩,
    fun r => runOut (r.imp_right fun ⟨a, idle⟩ => ⟨a, fun m k b => idle m k ((active m k).mp b)⟩)⟩

/-- A step that ends with the fault of a lane whose label it started, said of the state before the step (07 R120). -/
theorem laneFault_of_started {s u e t : State} {l : Lane} {x : LabelStart} {n : Nat} {c : FaultCause}
    (hs : s.inService l = true) (h : s.labelStarted u e l x n) (he : u.engine = s.engine)
    (ht : t = (u.laneFault l c).bookkeptAs t) :
    (t.lane l).faultedFrom (s.lane l) (u.lane l).queue c ∧ (t.lane l).tracker = (u.lane l).tracker ∧
      t.early = s.early.filter (fun x => x.lane != l) ∧ t.stopReq = true ∧ t.summary.getLsbD 2 = true ∧
      t.engineAfterFault s l ∧ ∀ m, m ≠ l → t.lane m = s.lane m := by
  obtain ⟨eq, others, keeps, _⟩ := h
  have service : (u.lane l).service = (s.lane l).service := by rw [show u.lane l = _ from keeps]
  have early : u.early = s.earlyAfterStart l := congrArg State.early eq
  have served : (u.lane l).service = .active ∨ (u.lane l).service = .draining := service ▸ inService_service hs
  have hb : (u.lane l).service ≠ .bypassed := by rcases served with h | h <;> simp [h]
  have hf : (u.lane l).service.isFaulted = false := by rcases served with h | h <;> simp [h, Service.isFaulted]
  have lanes : ∀ m, t.lane m = (u.laneFault l c).lane m := fun m => by rw [ht]; rfl
  have engine : t.engine = (u.laneFault l c).engine := by rw [ht]; rfl
  obtain ⟨faulted, _, tracker⟩ := laneFault_lane_self u l c hb hf
  rw [← lanes l] at faulted tracker
  refine ⟨faulted_of_started keeps faulted, tracker, ?_, stopReq_of_faulted t l (by rw [faulted.1]; rfl), ?_,
    engineAfterFault_congr (laneFault_engine u l c hb hf) engine (lanes l) he others, ?_⟩
  · rw [congrArg State.early ht, ← earlyAfterStart_discard, ← early]
    exact laneFault_early u l c hb hf
  · rw [congrArg State.summary ht]
    exact laneFault_summary u l c hb hf
  · intro m hm; rw [lanes m, laneFault_lanesBut u l c m hm, others m hm]

/-! ## Power-on values -/

theorem reset_lane (l : Lane) : State.reset.lane l = LaneState.initial := PerLane.get_all _ l

end Sys2Proof.Machine

namespace Sys2Proof.Proofs

open Sys2Proof.Machine

/-- Settles O3: every value is read off `State.reset`, the lanes' through `reset_lane`. -/
theorem resetHoldsPowerOnValues : Obligations.ResetHoldsPowerOnValues := by
  unfold Obligations.ResetHoldsPowerOnValues
  refine ⟨rfl, rfl, fun l => ?lane, rfl, rfl, rfl, rfl, rfl, rfl, rfl, rfl, rfl, rfl, rfl, rfl, rfl, rfl, rfl, rfl,
    rfl, rfl, rfl, rfl, rfl, rfl, fun l => ?defaults, rfl, rfl, rfl, rfl, rfl, rfl, rfl, rfl, fun l => ?ring, rfl, rfl,
    rfl, rfl, rfl, rfl, rfl, rfl, rfl, rfl, rfl, rfl, rfl, rfl, rfl, rfl, rfl⟩
  case lane =>
    rw [reset_lane]
    exact ⟨rfl, rfl, rfl, rfl, rfl, rfl, rfl, rfl, rfl, rfl, rfl, rfl, rfl, rfl, rfl, rfl, rfl, rfl, rfl⟩
  case defaults => exact ⟨PerLane.get_all _ l, PerLane.get_all _ l⟩
  case ring => exact congrArg MapEntry.mapped (PerLane.get_all _ l)

/-- Settles O7, one case of the new pair after the other. -/
theorem encoderTransitions : Obligations.EncoderTransitions := by
  unfold Obligations.EncoderTransitions
  intro a b s
  refine ⟨fun h settled => ?forward, fun h owed => ?payback, fun h untaken hold => ?reverse, fun ha hb => ?double,
    fun ha hb => ?same⟩
  case forward =>
    obtain ⟨tick, reached⟩ := forwardTick_advance (s := s.withReference a b) settled
    have effect := encoderTransition_forward h
    refine ⟨_, rfl, act_sameMemory (f := (·.encoderTransition a b)) (effect.trans tick) rfl rfl, ?_, fun l => ?_⟩
    · rw [act_lanes (f := (·.encoderTransition a b)) effect]
      exact act_eq (effect.trans tick)
    · rw [act_lane, effect]
      exact reached l
  case payback =>
    exact ⟨_, rfl, act_both ((encoderTransition_forward h).trans (forwardTick_payback owed)) rfl rfl⟩
  case reverse =>
    exact ⟨_, rfl, act_both ((encoderTransition_reverse h).trans (reverseTick_backlog hold untaken)) rfl rfl⟩
  case double =>
    exact ⟨_, rfl, act_both (encoderTransition_double ha hb) (giveAt_memory _ _ _) (giveAt_powerCycle _ _ _)⟩
  case same =>
    subst ha hb
    exact ⟨_, rfl, act_both (encoderTransition_same s) rfl rfl⟩

/-- Settles O9, one level after the other: `spliceRise_flags` says what a rise leaves. -/
theorem spliceLevels : Obligations.SpliceLevels := by
  unfold Obligations.SpliceLevels
  intro s
  refine ⟨fun low => ?rise, fun high => ?high, ?fall⟩
  case rise =>
    obtain ⟨u, given, frame, flagged⟩ := spliceRise_flags low
    have lanes : (s.act State.spliceRise).lanes = u.lanes := (act_lanes given).trans (giveAt_lanes _ _ _)
    refine ⟨_, rfl, act_sameMemory given ?_ ?_, fun l => ?_, ?_⟩
    · rw [State.give, giveAt_memory, frame]
    · rw [State.give, giveAt_powerCycle, frame]
    · rw [act_lane, given, give_lane]; exact flagged l
    · rw [lanes, ← frame]; exact act_eq given
  case high => exact ⟨_, rfl, act_eq (spliceRise_high high)⟩
  case fall => exact ⟨_, rfl, act_both rfl rfl rfl⟩

/-- Settles O10, one refused mark after the other. -/
theorem marksNotTaken : Obligations.MarksNotTaken := by
  unfold Obligations.MarksNotTaken
  intro l s
  exact ⟨fun out => ⟨_, rfl, act_eq (markPulse_outOfService out)⟩,
    fun serving owed => ⟨_, rfl, act_eq (markPulse_backlog serving owed)⟩,
    fun _ serving settled hk near =>
      ⟨_, rfl, act_eq ((markPulse_measured serving settled).trans (measureMark_spurious hk near))⟩⟩

/-- Settles O11: the label start is `startLabel_started`, followed by OFF_REGISTER exactly before the window. -/
theorem markStartsLabel : Obligations.MarkStartsLabel := by
  unfold Obligations.MarkStartsLabel
  intro l s serving settled far
  have pulse := markPulse_measured serving settled
  obtain ⟨mem, -⟩ := act_labelWork (f := (·.markPulse l)) (markPulse_labelWork s l)
  have started := startLabel_started s l (s.sensedStart l) 0
  by_cases off : ∃ k, (s.lane l).tracker.tracked = some k ∧ k.offRegister s.settings.w s.web.position = true
  · obtain ⟨k, hk, off⟩ := off
    have measured := measureMark_offRegister hk (far k hk) off
    obtain ⟨eq, lanes⟩ := labelStarted_giveAt started s.web.position
      { code := .offRegister, lane := some l, serial := (s.lane l).bindsSerial,
        value := some (s.web.position - k.pred) }
    refine ⟨_, _, _, rfl, mem, act_eq (pulse.trans measured), eq, fun on => ?_, fun k' hk' _ => ?_, lanes⟩
    · exact absurd ((on k hk).symm.trans off) Bool.false_ne_true
    · rw [Option.some.inj (hk.symm.trans hk')]; rfl
  · have on : ∀ k, (s.lane l).tracker.tracked = some k → k.offRegister s.settings.w s.web.position = false :=
      fun k hk => Bool.eq_false_iff.mpr fun h => off ⟨k, hk, h⟩
    obtain ⟨eq, lanes⟩ := started
    refine ⟨_, _, _, rfl, mem, act_eq (pulse.trans (measureMark_onRegister far on)), eq, fun _ => rfl,
      fun k hk before => ?_, lanes⟩
    exact absurd ((on k hk).symm.trans before) Bool.false_ne_true

/-- Settles O12: the synthetic label is a label start, and a third one ends with the fault of its lane. -/
theorem expiryStartsSyntheticLabel : Obligations.ExpiryStartsSyntheticLabel := by
  unfold Obligations.ExpiryStartsSyntheticLabel
  intro l s k serving due hk _
  obtain ⟨mem, -⟩ := act_labelWork (f := (·.takeExpiry l)) (takeExpiry_labelWork s l)
  have taken := takeExpiry_reached serving due hk
  obtain ⟨eq, others, keeps, record⟩ := syntheticLabel_started s l k
  refine ⟨_, _, _, rfl, mem, rfl, eq, others, keeps, record, fun first => ?_, fun third => ?_⟩
  · exact act_eq (taken.trans (if_neg (Nat.ne_of_lt first)))
  · have faults := act_eq (f := (·.takeExpiry l)) (taken.trans (if_pos third))
    exact ⟨faults, laneFault_of_started serving (syntheticLabel_started s l k) (syntheticLabel_engine s l k) faults⟩

end Sys2Proof.Proofs
end

section
/-! Label starts and the early verdict table (02 R26, 04 R69): which serial a lane binds, the record and the table that a
label start leaves, and the events it gives after EARLY_STALE. -/

namespace Sys2Proof.Machine

/-! ## States that differ by events given -/

/-- The event part of `t` is that of `s` with some events given; `t` would stamp and filter further events as `s` would. -/
def State.eventsAdded (s t : State) : Prop := s.eventFrame t ∧ ∃ es, t.eventPart = (s.giveEach es).eventPart

theorem giveEach_append (s : State) (es fs : List (WebPos × EventBody)) :
    s.giveEach (es ++ fs) = (s.giveEach es).giveEach fs := List.foldl_append

theorem eventsAdded_refl (s : State) : s.eventsAdded s := ⟨⟨rfl, rfl⟩, [], rfl⟩

/-- Events given to states with one event part and one reporting mode leave one event part. -/
theorem giveEach_eventPart_congr {t u : State} (frame : u.eventFrame t) (h : t.eventPart = u.eventPart)
    (es : List (WebPos × EventBody)) : (t.giveEach es).eventPart = (u.giveEach es).eventPart := by
  rw [giveEach_eventPart, giveEach_eventPart, h, frame.2]

theorem eventsAdded_giveAt {s t : State} (h : s.eventsAdded t) (p : WebPos) (b : EventBody) :
    s.eventsAdded (t.giveAt p b) := by
  obtain ⟨frame, es, events⟩ := h
  have added := eventFrame_of_labelWork (giveAt_labelWork t p b)
  have given := eventFrame_of_labelWork (giveEach_labelWork es s)
  refine ⟨⟨added.1.trans frame.1, added.2.trans frame.2⟩, es ++ [(p, b)], ?_⟩
  rw [giveEach_append]
  exact giveEach_eventPart_congr ⟨frame.1.trans given.1.symm, frame.2.trans given.2.symm⟩ events [(p, b)]

theorem eventsAdded_raiseClass {s t : State} (h : s.eventsAdded t) (c : SummaryClass) (l : Option Lane)
    (n : Option Serial) (a : Option Nat) : s.eventsAdded (t.raiseClass c l n a) := h

theorem eventsAdded_wordReoffered {s t : State} (h : s.eventsAdded t) (l : Lane) (mark : WebPos) (n : Option Serial)
    (a : Nat) (w : FetchedWord) : s.eventsAdded (t.wordReoffered l mark n a w) := by
  unfold State.wordReoffered
  split
  next d _ =>
    have offered : s.eventsAdded (t.offerUncorrectable (.fetch l) true a d) := h
    exact eventsAdded_raiseClass (eventsAdded_giveAt offered _ _) _ _ _ _
  · exact h

/-- A label start gives EARLY_STALE before its other events (log 12). -/
theorem startReported_eventsAdded (s : State) (l : Lane) (mark : WebPos) :
    (s.staleReported l).eventsAdded (s.startReported l mark) := by
  have none_added := eventsAdded_refl (s.staleReported l)
  unfold State.startReported
  dsimp only
  split
  next =>
    split
    · exact eventsAdded_raiseClass (eventsAdded_giveAt none_added _ _) _ _ _ _
    · exact none_added
  next e rest _ =>
    split
    next => exact none_added
    next c _ =>
      split
      · have fault := fun b => eventsAdded_raiseClass (eventsAdded_giveAt none_added mark b) .orderFault (some l)
          (s.lane l).bindsSerial none
        split
        · exact eventsAdded_wordReoffered (eventsAdded_wordReoffered (eventsAdded_wordReoffered
            (eventsAdded_wordReoffered (fault _) _ _ _ _ _) _ _ _ _ _) _ _ _ _ _) _ _ _ _ _
        · exact fault _
      · exact none_added

/-! ## The serial that a label start binds (02 R21 to R24) -/

theorem bindsSerial_trusted {x : LaneState} {w : WindowEntry} {rest : List WindowEntry} (active : x.service = .active)
    (oldest : x.window = w :: rest) (trusted : w.failed = none ∨ w.word0.outcome.trusted = true) :
    x.bindsSerial = some w.word0.data := by
  simp only [LaneState.bindsSerial, oldest]
  exact if_pos ⟨active, trusted⟩

theorem bindsSerial_none {x : LaneState} (h : x.service ≠ .active ∨ x.window = [] ∨
    ∃ w rest, x.window = w :: rest ∧ w.failed ≠ none ∧ w.word0.outcome.trusted = false) : x.bindsSerial = none := by
  unfold LaneState.bindsSerial
  cases oldest : x.window with
  | nil => rfl
  | cons w rest =>
    refine if_neg fun ⟨active, trusted⟩ => ?_
    rcases h with idle | empty | ⟨w', _, same, failed, untrusted⟩
    · exact idle active
    · exact List.cons_ne_nil w rest (oldest.symm.trans empty)
    · obtain rfl := (List.cons.inj (oldest.symm.trans same)).1
      exact trusted.elim failed fun t => Bool.false_ne_true (untrusted.symm.trans t)

/-- The record that a label start queues holds the serial that the lane binds, and the early verdict that was held. -/
theorem startedFrom_queue {y x : LaneState} {cfg : Settings} {l : Lane} {t : LabelStart} {splice : Bool}
    {held : Verdict × BitVec 4} {n : Nat} (h : y.startedFrom x cfg l t splice held n) :
    ∃ r, y.queue = x.queue ++ [r] ∧ r.serial = x.bindsSerial ∧ (r.verdict, r.defect) = held := by
  obtain ⟨r, queue, verdict, -, -, -, -, -, -, -, -, -, -, -, -, -, -, -, -, -, drain, starved, valid, faulty⟩ := h
  refine ⟨r, queue, ?_, verdict⟩
  by_cases active : x.service = .active
  · cases window : x.window with
    | nil =>
      obtain ⟨-, -, serial, -⟩ := starved active window
      rw [serial, bindsSerial_none (.inr (.inl window))]
    | cons e rest =>
      cases failed : e.failed with
      | none =>
        obtain ⟨-, -, serial, -⟩ := valid e rest active window failed
        rw [serial, bindsSerial_trusted active window (.inl failed)]; rfl
      | some why =>
        obtain ⟨-, -, serial, -⟩ := faulty e rest why active window failed
        rw [serial]
        cases trusted : e.word0.outcome.trusted with
        | true => rw [bindsSerial_trusted active window (.inr trusted)]; rfl
        | false => rw [bindsSerial_none (.inr (.inr ⟨e, rest, window, by simp [failed], trusted⟩))]; rfl
  · obtain ⟨-, -, serial, -⟩ := drain active
    rw [serial, bindsSerial_none (.inl active)]

/-! ## Label starts by marks and expiries -/

/-- `u` is `s` after a label start of lane `l`, with any event of the tracker's after the label start's own. -/
def State.startsLabel (s u : State) (l : Lane) : Prop :=
  ∃ e t n, s.labelStarted u e l t n ∧ (s.startReported l t.mark).eventsAdded e

theorem measureMark_startsLabel {s : State} {l : Lane}
    (far : ∀ k, (s.lane l).tracker.tracked = some k → s.settings.pmin.toNat ≤ (s.web.position - k.lastMark).toNat) :
    s.startsLabel (s.measureMark l) l := by
  have started := startLabel_started s l (s.sensedStart l) 0
  by_cases off : ∃ k, (s.lane l).tracker.tracked = some k ∧ k.offRegister s.settings.w s.web.position = true
  · obtain ⟨k, hk, off⟩ := off
    rw [measureMark_offRegister hk (far k hk) off]
    exact ⟨_, _, _, labelStarted_giveAt started _ _, eventsAdded_giveAt (eventsAdded_refl _) _ _⟩
  · rw [measureMark_onRegister far fun k hk => Bool.eq_false_iff.mpr fun h => off ⟨k, hk, h⟩]
    exact ⟨_, _, _, started, eventsAdded_refl _⟩

theorem syntheticLabel_startsLabel (s : State) (l : Lane) (k : Tracked) : s.startsLabel (s.syntheticLabel l k) l :=
  ⟨_, _, _, syntheticLabel_started s l k, eventsAdded_giveAt (eventsAdded_refl _) _ _⟩

theorem startsLabel_early {s u : State} {l : Lane} (h : s.startsLabel u l) : u.early = s.earlyAfterStart l := by
  obtain ⟨e, t, n, ⟨eq, -⟩, -⟩ := h
  exact congrArg State.early eq

theorem startsLabel_queue {s u : State} {l : Lane} (h : s.startsLabel u l) :
    ∃ q r, (u.lane l).queue = q ++ [r] ∧ r.serial = (s.lane l).bindsSerial ∧ (r.verdict, r.defect) = s.earlyHeld l := by
  obtain ⟨e, t, n, ⟨-, -, -, started⟩, -⟩ := h
  exact ⟨_, startedFrom_queue started⟩

theorem startsLabel_events {s u : State} {l : Lane} (h : s.startsLabel u l) : (s.staleReported l).eventsAdded u := by
  obtain ⟨e, t, n, ⟨eq, -⟩, frame, fs, later⟩ := h
  obtain ⟨first, es, events⟩ := startReported_eventsAdded s l t.mark
  have given := eventFrame_of_labelWork (giveEach_labelWork es (s.staleReported l))
  have same : u.eventPart = e.eventPart := by rw [eq]; rfl
  refine ⟨?_, es ++ fs, ?_⟩
  · rw [eq]; exact ⟨frame.1.trans first.1, frame.2.trans first.2⟩
  · rw [same, later, giveEach_append]
    exact giveEach_eventPart_congr ⟨first.1.trans given.1.symm, first.2.trans given.2.symm⟩ events fs

/-- A label start that binds a serial: the events are those of `s` with EARLY_STALE for each stale entry, then others. -/
theorem startsLabel_staleFirst {s u : State} {l : Lane} {n : Serial} (h : s.startsLabel u l)
    (binds : (s.lane l).bindsSerial = some n) :
    ∃ es, u.eventPart = (s.giveEach (s.staleEvents l n ++ es)).eventPart := by
  obtain ⟨-, es, events⟩ := startsLabel_events h
  have stale : s.staleReported l = s.giveEach (s.staleEvents l n) := by simp only [State.staleReported, binds]
  exact ⟨es, by rw [events, stale, giveEach_append]⟩

theorem markEvent_startsLabel {s t : State} {l : Lane} (serving : s.inService l = true) (settled : s.web.backlog = 0)
    (far : ∀ k, (s.lane l).tracker.tracked = some k → s.settings.pmin.toNat ≤ (s.web.position - k.lastMark).toNat)
    (step : exec (.markEvent l) s = .next t) : ∃ u, t = u.bookkeptAs t ∧ s.startsLabel u l := by
  obtain rfl : s.act (·.markPulse l) = t := Host.Outcome.next.inj step
  exact ⟨_, act_eq (markPulse_measured serving settled), measureMark_startsLabel far⟩

theorem markWindowExpiry_startsLabel {s t : State} {l : Lane} (serving : s.inService l = true)
    (due : (s.lane l).tracker.expiryDue = true) (tracking : (s.lane l).tracker.tracked ≠ none)
    (early : (s.lane l).tracker.synthetic < 2) (step : exec (.markWindowExpiry l) s = .next t) :
    ∃ u, t = u.bookkeptAs t ∧ s.startsLabel u l := by
  obtain rfl : s.act (·.takeExpiry l) = t := Host.Outcome.next.inj step
  obtain ⟨k, hk⟩ := Option.ne_none_iff_exists'.mp tracking
  have taken := (takeExpiry_reached serving due hk).trans (if_neg (Nat.ne_of_lt early))
  exact ⟨_, act_eq taken, syntheticLabel_startsLabel s l k⟩

end Sys2Proof.Machine

namespace Sys2Proof.Proofs

open Sys2Proof.Machine

/-- Settles O13: either command is a label start (`State.startsLabel`), whose table, record and events are read off for
the serial that the lane binds. -/
theorem bindingMergesAndEvictsEarlyVerdicts : Obligations.BindingMergesAndEvictsEarlyVerdicts := by
  unfold Obligations.BindingMergesAndEvictsEarlyVerdicts
  intro l s t serving start
  obtain ⟨u, step, starts⟩ : ∃ u, t = u.bookkeptAs t ∧ s.startsLabel u l := by
    rcases start with ⟨settled, far, step⟩ | ⟨due, tracking, early, step⟩
    · exact markEvent_startsLabel serving settled far step
    · exact markWindowExpiry_startsLabel serving due tracking early step
  have early : t.early = u.early := by rw [step]; rfl
  have table : t.early = s.earlyAfterStart l := early.trans (startsLabel_early starts)
  have queued : t.lane l = u.lane l := by rw [step]; rfl
  obtain ⟨q, r, queue, serial, verdict⟩ := startsLabel_queue starts
  rw [← queued] at queue
  refine ⟨fun n w rest active oldest trusted bound => ?binds, fun unbound => ?bindsNone⟩
  case binds =>
    have binds : (s.lane l).bindsSerial = some n := bound ▸ bindsSerial_trusted active oldest trusted
    obtain ⟨es, events⟩ := startsLabel_staleFirst starts binds
    have given : t.eventPart = u.eventPart := by rw [step]; rfl
    obtain ⟨queued, sequence⟩ := EventPart.mk.inj (given.trans events)
    refine ⟨?_, ⟨q, r, queue, serial.trans binds, ?_⟩, es, queued, sequence⟩
    · rw [table, State.earlyAfterStart, binds]
    · rw [verdict, State.earlyHeld, binds]
  case bindsNone =>
    have binds := bindsSerial_none unbound
    rw [State.earlyHeld, binds] at verdict
    obtain ⟨none, zero⟩ := Prod.mk.inj verdict
    exact ⟨by rw [table, State.earlyAfterStart, binds], q, r, queue, serial.trans binds, none, zero⟩

end Sys2Proof.Proofs
end

section
/-! The gate event and what it ends with (02 R32 to R34, 06 R95 to R99, 07 R116): the label listed, the close of a stack
or a carry list with room in the holding list, drain completion, run-out and the test for STOPPED. -/

namespace Sys2Proof.Machine

/-! ## The gate event of a due head record -/

theorem withoutHead_cons {x : LaneState} {r : LabelRecord} {rest : List LabelRecord} (head : x.queue = r :: rest) :
    x.withoutHead r = { x with
      queue := rest
      departed := x.departed + 1
      release := if r.slot.isSome then x.release + 1 else x.release } := by
  rw [withoutHead_eq, head]; rfl

theorem takeGate_due {s : State} {l : Lane} {r : LabelRecord} {rest : List LabelRecord}
    (head : (s.lane l).queue = r :: rest) (due : r.due.gate = true) :
    s.takeGate l = (((s.setLane l { s.lane l with
      queue := rest
      departed := (s.lane l).departed + 1
      release := if r.slot.isSome then (s.lane l).release + 1 else (s.lane l).release }).takeItem l r).testClose l
      r).afterGate l := by
  rw [takeGate_eq s l r rest head due, withoutHead_cons head]

theorem afterGate_drain {s : State} {l : Lane} (draining : (s.lane l).service = .draining)
    (last : (s.lane l).orderedCount = 0) : s.afterGate l = s.drainComplete l := if_pos ⟨draining, last⟩

theorem afterGate_runOut {s : State} {l : Lane} (faulted : (s.lane l).service.isFaulted = true)
    (empty : (s.lane l).queue = []) : s.afterGate l = s.runOutComplete l := by
  have serving : (s.lane l).service ≠ .draining := fun d => by rw [d] at faulted; cases faulted
  rw [State.afterGate, if_neg fun ⟨d, _⟩ => serving d, if_pos ⟨faulted, by rw [empty]; rfl⟩]

/-- Nothing follows a gate event while a DRAINING lane has an ordered record left, or a FAULTED lane a record. -/
theorem afterGate_idle {s : State} {l : Lane}
    (ordered : ¬ ((s.lane l).service = .draining ∧ (s.lane l).queue.countP (·.holdsOrder) = 0))
    (queued : ¬ ((s.lane l).service.isFaulted = true ∧ (s.lane l).queue = [])) : s.afterGate l = s :=
  afterGate_none s l ordered (by rwa [List.isEmpty_iff])

/-! ## Listing a label that leaves (06 R95) -/

theorem shortfallList_entry {c : Shortfall} {m : MissingItem} {n : Serial} (serial : m.serial = some n)
    (room : c.entries.length < 12) : c.list m = { c with entries := c.entries ++
      [{ serial := n, reason := m.reason, defect := m.defect, undecided := m.undecided }] } := by
  simp only [Shortfall.list, serial]; exact if_pos room

theorem shortfallList_overflow {c : Shortfall} {m : MissingItem} (serial : m.serial ≠ none)
    (full : 12 ≤ c.entries.length) (hold : c.overflow ≤ 65535) :
    c.list m = { c with overflow := min (c.overflow + 1) 65535 } := by
  obtain ⟨n, serial⟩ := Option.ne_none_iff_exists'.mp serial
  simp only [Shortfall.list, serial, ← raiseHolding_eq_min hold]
  exact if_neg (Nat.not_lt.mpr full)

theorem shortfallList_unordered {c : Shortfall} {m : MissingItem} (serial : m.serial = none)
    (hold : c.unordered ≤ 65535) : c.list m = { c with unordered := min (c.unordered + 1) 65535 } := by
  simp only [Shortfall.list, serial, ← raiseHolding_eq_min hold]; rfl

theorem raiseHolding_pos {limit : Nat} (n : Nat) (h : 0 < limit) : raiseHolding limit n ≠ 0 := by
  unfold raiseHolding
  split <;> omega

/-- A list that has taken a label is not empty. -/
theorem shortfallList_isEmpty (c : Shortfall) (m : MissingItem) : (c.list m).isEmpty = false := by
  have raised := fun n => raiseHolding_pos (limit := Config.countHold) n (by decide)
  unfold Shortfall.list
  cases m.serial with
  | none => simp [Shortfall.isEmpty, raised]
  | some n =>
    dsimp only
    split
    · simp [Shortfall.isEmpty]
    · simp [Shortfall.isEmpty, raised]

theorem listMissing_eq (x : LaneState) (m : MissingItem) : x.listMissing m = { x with
    openStack := x.openStack.map (fun k => { k with short := k.short.list m })
    carry := if x.openStack.isNone then x.carry.list m else x.carry } := by
  unfold LaneState.listMissing
  cases stack : x.openStack with
  | none => simp
  | some k => simp

/-- A rejected or sampled label is listed with its reason, and GATE stands as decided (05 R85, 06 R92). -/
theorem takeItem_listed {s : State} {l : Lane} {r : LabelRecord} {g : Gate} {why : MissingReason}
    (decided : r.fate = .reject why ∧ g = .reject ∨ r.fate = .sample ∧ g = .sample ∧ why = .sample) :
    s.takeItem l r = s.setLane l { (s.lane l).listMissing (r.item why) with gate := g } := by
  rcases decided with ⟨fate, rfl⟩ | ⟨fate, rfl, rfl⟩ <;>
    simp only [State.takeItem, fate, State.listMissing, State.setGate, lane_setLane_self, setLane_setLane]

/-! ## The close test (06 R97) -/

theorem testClose_endOfBatch {s : State} {l : Lane} {r : LabelRecord} (last : r.endOfBatch = true) :
    s.testClose l r = s.closeAndFault l .batchEnd := if_pos last

theorem testClose_below {s : State} {l : Lane} {r : LabelRecord} (more : r.endOfBatch = false)
    (below : ∀ k, (s.lane l).openStack = some k → k.count ≠ k.target.toNat) : s.testClose l r = s := by
  rw [State.testClose, if_neg (by simp [more]), if_neg]
  cases stack : (s.lane l).openStack with
  | none => simp
  | some k => simpa using below k stack

/-! ## Closes with room in the holding list (06 R98, R102) -/

theorem closedRecord_none {x : LaneState} {l : Lane} {w : CloseReason} :
    x.closedRecord l w = none ↔ x.openStack = none ∧ (x.carry.isEmpty = true ∨ x.parked ≠ none) := by
  unfold LaneState.closedRecord
  cases x.openStack with
  | some k => simp
  | none =>
    exact ⟨fun h => ⟨rfl, by_contra fun built => nomatch (if_neg built).symm.trans h⟩, fun ⟨_, h⟩ => if_pos h⟩

theorem closedRecord_carry {x : LaneState} {l : Lane} {w : CloseReason} (noStack : x.openStack = none)
    (listed : x.carry.isEmpty = false) (free : x.parked = none) :
    x.closedRecord l w = some (x.carry.record l x.nextSequence w) := by
  simp only [LaneState.closedRecord, noStack]
  exact if_neg (by simp [listed, free])

theorem closed_open {x : LaneState} {k : OpenStack} (stack : x.openStack = some k) :
    x.closed = x.afterStackClose k := by
  simp only [LaneState.closed, stack, LaneState.afterStackClose]
  cases x.stacker <;> rfl

theorem closed_carry {x : LaneState} (noStack : x.openStack = none) : x.closed = x.afterCarryClose := by
  simp only [LaneState.closed, noStack, LaneState.afterCarryClose, Shortfall.empty]

/-- What a close that builds a record leaves of the lane's open stack, parked slot and TRAY pulse. -/
theorem closed_stack (x : LaneState) : x.closed.openStack = none ∧ x.closed.parked = x.parked ∧
    x.closed.trayPulse = (x.trayPulse || x.openStack.isSome) := by
  cases stack : x.openStack <;> simp [LaneState.closed, stack]

theorem closeStack_nothing {s : State} {l : Lane} {w : CloseReason} (h : (s.lane l).closedRecord l w = none) :
    s.closeStack l w = s := by
  obtain ⟨noStack, nothing⟩ := closedRecord_none.mp h
  have keeps : ((s.lane l).carry.isEmpty || (s.lane l).parked.isSome) = true := by
    rwa [Bool.or_eq_true, Option.isSome_iff_ne_none]
  simp only [State.closeStack, noStack]
  exact if_pos keeps

/-- A close with room that builds a record: the record joins the holding list. -/
theorem closeStack_builds {s : State} {l : Lane} {w : CloseReason} {p : StackRecord}
    (h : (s.lane l).closedRecord l w = some p) (room : s.writer.holding.length < 4) :
    s.closeStack l w = ((s.setLane l (s.lane l).closed).holdingAs (s.writer.holding ++ [p])).give
      { code := .stackClosed, lane := some l, address := some w.code, value := some (p.sequence.setWidth 32) } := by
  cases stack : (s.lane l).openStack with
  | some k =>
    obtain rfl : k.record l w = p := by
      simp only [LaneState.closedRecord, stack] at h
      exact Option.some.inj h
    rw [closeStack_room s l w k stack room, closed_open stack]; rfl
  | none =>
    have built : ¬ ((s.lane l).carry.isEmpty = true ∨ (s.lane l).parked ≠ none) := fun nothing =>
      Option.some_ne_none p (h.symm.trans (closedRecord_none.mpr ⟨stack, nothing⟩))
    obtain ⟨listed, free⟩ := not_or.mp built
    rw [closedRecord_carry stack (Bool.eq_false_iff.mpr listed) (not_not.mp free)] at h
    obtain rfl := Option.some.inj h
    have placed : ∀ r, (s.setLane l (s.lane l).afterCarryClose).placeRecord r =
        (s.setLane l (s.lane l).afterCarryClose).holdingAs (s.writer.holding ++ [r]) := fun r => if_pos room
    simp only [State.closeStack, stack, listed, not_not.mp free, Option.isSome_none, Bool.or_self,
      Bool.false_eq_true, if_false, State.closeWith, placed, closed_carry stack]
    rfl

/-- `t` is `v` after a close of lane `l` that found room in the holding list, the test for STOPPED and whatever else of
the lane, the early table and the events aside. -/
def State.builtFrom (t v : State) (l : Lane) (why : CloseReason) : Prop :=
  t.writer.holding = v.writer.holding ++ ((v.lane l).closedRecord l why).toList ∧ (t.lane l).openStack = none ∧
  (t.lane l).parked = (v.lane l).parked ∧
  (t.lane l).trayPulse = ((v.lane l).trayPulse || (v.lane l).openStack.isSome) ∧
  ((v.lane l).closedRecord l why = none →
    (t.lane l).carry = (v.lane l).carry ∧ (t.lane l).nextSequence = (v.lane l).nextSequence) ∧
  ((v.lane l).closedRecord l why ≠ none →
    (t.lane l).carry = (v.lane l).closed.carry ∧ (t.lane l).nextSequence = (v.lane l).closed.nextSequence) ∧
  (∀ m, m ≠ l → t.lane m = v.lane m) ∧ t.engine = { v.engine with state := t.engine.state } ∧
  (v.engine.state ≠ .draining → t.engine.state = v.engine.state)

theorem closeStack_builtFrom {v : State} (l : Lane) (why : CloseReason) (room : v.writer.holding.length < 4) :
    (v.closeStack l why).builtFrom v l why := by
  cases built : (v.lane l).closedRecord l why with
  | none =>
    obtain ⟨noStack, -⟩ := closedRecord_none.mp built
    have pulse : ((v.lane l).trayPulse || (v.lane l).openStack.isSome) = (v.lane l).trayPulse := by simp [noStack]
    unfold State.builtFrom
    rw [closeStack_nothing built, built, pulse]
    exact ⟨(List.append_nil _).symm, noStack, rfl, rfl, fun _ => ⟨rfl, rfl⟩, absurd rfl, fun _ _ => rfl, rfl,
      fun _ => rfl⟩
  | some p =>
    have lane : (v.closeStack l why).lane l = (v.lane l).closed := by
      rw [closeStack_builds built room, give_lane]; exact lane_setLane_self _ _ _
    have list : (v.closeStack l why).writer.holding = v.writer.holding ++ [p] := by
      rw [closeStack_builds built room, give_holding]; rfl
    obtain ⟨noStack, parked, pulse⟩ := closed_stack (v.lane l)
    unfold State.builtFrom
    rw [lane, list, built, closeStack_engine]
    exact ⟨rfl, noStack, parked, pulse, nofun, fun _ => ⟨rfl, rfl⟩, closeStack_lanesBut v l why, rfl,
      fun _ => rfl⟩

theorem builtFrom_testStopped {t v : State} {l : Lane} {why : CloseReason} (h : t.builtFrom v l why) :
    t.testStopped.builtFrom v l why := by
  obtain ⟨list, noStack, parked, pulse, kept, taken, others, engine, going⟩ := h
  unfold State.builtFrom
  simp only [testStopped_lane, testStopped_holding, testStopped_engine]
  refine ⟨list, noStack, parked, pulse, kept, taken, others, ?_, fun h => ?_⟩
  · rw [engine]
  · rw [if_neg fun ⟨draining, _⟩ => h ((going h).symm.trans draining)]; exact going h

/-! ## The test for STOPPED (07 R116) -/

/-- A lane that is out of service with nothing to run out leaves the test for STOPPED to the others. -/
theorem runOutDone_othersDone {u s : State} {l : Lane} (others : ∀ m, m ≠ l → u.lane m = s.lane m)
    (idle : (u.lane l).service ≠ .active ∧ (u.lane l).service ≠ .draining ∧
      ((u.lane l).service.isFaulted = true → (u.lane l).queue = [])) : u.runOutDone = true ↔ s.othersDone l := by
  rw [runOutDone_iff]
  refine ⟨fun h m hm => others m hm ▸ h m, fun h m => ?_⟩
  by_cases hm : m = l
  · exact hm ▸ idle
  · rw [others m hm]; exact h m hm

theorem testStopped_stops {v : State} (draining : v.engine.state = .draining)
    (done : ∀ m, (v.lane m).service ≠ .active ∧ (v.lane m).service ≠ .draining ∧
      ((v.lane m).service.isFaulted = true → (v.lane m).queue = [])) :
    v.testStopped = State.give { v with engine := { v.engine with state := .stopped } } { code := .engineStopped } :=
  if_pos ⟨draining, (runOutDone_iff v).mpr done⟩

theorem testStopped_waits {v : State} (h : ¬ (v.engine.state = .draining ∧ ∀ m, (v.lane m).service ≠ .active ∧
    (v.lane m).service ≠ .draining ∧ ((v.lane m).service.isFaulted = true → (v.lane m).queue = []))) :
    v.testStopped = v :=
  if_neg (by rwa [runOutDone_iff])

/-- A DRAINING engine that was tested is STOPPED or still DRAINING, exactly as the test came out. -/
theorem stopped_iff_done {e e' : EngineState} {done : Prop} {d : Bool} (test : d = true ↔ done)
    (after : e' = if e = .draining ∧ d = true then .stopped else e) (draining : e = .draining) :
    (e' = .stopped ↔ done) ∧ (e' = .draining ↔ ¬ done) := by
  subst draining after
  rw [← test]
  cases d <;> simp

/-! ## Early discard and rewind (04 R70, 03 R55, R57) -/

theorem discardEarly_none {s : State} {l : Lane} (h : s.early.countP (fun e => e.lane == l) = 0) :
    s.discardEarly l = { s with early := s.early.filter (fun e => e.lane != l) } := if_pos h

theorem discardEarly_some {s : State} {l : Lane} (h : s.early.countP (fun e => e.lane == l) ≠ 0) :
    s.discardEarly l = State.give { s with early := s.early.filter (fun e => e.lane != l) }
      { code := .earlyDiscarded, lane := some l,
        value := some (BitVec.ofNat 32 (s.early.countP (fun e => e.lane == l))) } := if_neg h

theorem windowDepth_eq (x : LaneState) :
    x.windowDepth = x.window.length + if x.reservation = none then 0 else 1 := by
  unfold LaneState.windowDepth
  cases x.reservation <;> rfl

theorem windowDepth_eq_zero (x : LaneState) : x.windowDepth = 0 ↔ x.window = [] ∧ x.reservation = none := by
  rw [windowDepth_eq, Nat.add_eq_zero_iff, List.length_eq_zero_iff]
  refine and_congr_right fun _ => ?_
  split
  next h => simp [h]
  next h => simp [h]

theorem rewound_eq (x : LaneState) : x.rewound = { x with
    window := []
    reservation := none
    fetch := x.release + BitVec.ofNat 16 (x.queue.countP (·.holdsOrder))
    previousSerial := match x.window, x.reservation with
      | w :: _, _ => w.before
      | [], some r => r.before
      | [], none => x.previousSerial } := by
  unfold LaneState.rewound LaneState.oldestBefore
  cases x.window with
  | cons w rest => rfl
  | nil => cases x.reservation <;> rfl

theorem rewind_empty {s : State} {l : Lane} (window : (s.lane l).window = [])
    (reservation : (s.lane l).reservation = none) : s.rewind l = s.setLane l (s.lane l).rewound :=
  if_pos ((windowDepth_eq_zero _).mpr ⟨window, reservation⟩)

theorem rewind_discards {s : State} {l : Lane} (h : (s.lane l).window ≠ [] ∨ (s.lane l).reservation ≠ none) :
    s.rewind l = (s.setLane l (s.lane l).rewound).give
      { code := .windowRewound, lane := some l, address := some (s.lane l).rewound.fetch.toNat,
        value := some (BitVec.ofNat 32 ((s.lane l).window.length +
          (if (s.lane l).reservation = none then 0 else 1))) } := by
  rw [← windowDepth_eq]
  exact if_neg fun zero => h.elim (absurd ((windowDepth_eq_zero _).mp zero).1)
    (absurd ((windowDepth_eq_zero _).mp zero).2)

/-! ## Run-out (02 R30, 06 R99, 07 R116) -/

theorem laneFault_faulted {s : State} {l : Lane} (c : FaultCause) (faulted : (s.lane l).service.isFaulted = true) :
    s.laneFault l c = s.announceFault l c := by
  unfold State.laneFault
  cases service : (s.lane l).service with
  | faulted k => rfl
  | off => rw [service] at faulted; cases faulted
  | active => rw [service] at faulted; cases faulted
  | draining => rw [service] at faulted; cases faulted
  | bypassed => rw [service] at faulted; cases faulted

/-- In a FAULTED lane a close that parks announces BACKLOG, as the fault of a FAULTED lane does. -/
theorem closeFaulted_eq {s : State} {l : Lane} (w : CloseReason) (faulted : (s.lane l).service.isFaulted = true) :
    s.closeFaulted l w = s.closeAndFault l w := by
  have service : ((s.closeStack l w).lane l).service = (s.lane l).service := by
    rw [show (s.closeStack l w).lane l = _ from closeStack_lane_self s l w]
  unfold State.closeFaulted State.closeAndFault
  rw [laneFault_faulted _ (service ▸ faulted)]

theorem closeFaulted_room {s : State} (l : Lane) (w : CloseReason) (room : s.writer.holding.length < 4) :
    s.closeFaulted l w = s.closeStack l w := by
  simp [State.closeFaulted, closeParks_room s l room]

theorem runOutComplete_builtFrom {v : State} (l : Lane) (room : v.writer.holding.length < 4) :
    (v.runOutComplete l).builtFrom v l .laneFault := by
  rw [State.runOutComplete, closeFaulted_room l _ room]
  exact builtFrom_testStopped (closeStack_builtFrom l _ room)

theorem runOutComplete_engine (s : State) (l : Lane) : (s.runOutComplete l).engine.state =
    if s.engine.state = .draining ∧ (s.runOutComplete l).runOutDone = true then .stopped else s.engine.state := by
  have tested : (s.runOutComplete l).runOutDone = (s.closeFaulted l .laneFault).runOutDone := by
    simp only [State.runOutDone, State.runOutComplete, testStopped_lane]
  rw [tested, State.runOutComplete, testStopped_engine, closeFaulted_engine]

/-! ## Drain completion (07 R116) -/

/-- The state in which a drain completion makes its close. -/
def State.drained (s : State) (l : Lane) : State := ((s.setService l .off).discardEarly l).rewind l

theorem drained_lane_self (s : State) (l : Lane) :
    (s.drained l).lane l = ({ s.lane l with service := .off } : LaneState).rewound := by
  rw [State.drained, rewind_lane_self, discardEarly_lane, State.setService, lane_setLane_self]

theorem drained_lane_other (s : State) {l m : Lane} (h : m ≠ l) : (s.drained l).lane m = s.lane m := by
  rw [State.drained, rewind_lanesBut _ l m h, discardEarly_lane, State.setService, lane_setLane_other _ _ h]

theorem drained_holding (s : State) (l : Lane) : (s.drained l).writer.holding = s.writer.holding := by
  rw [State.drained, rewind_holding, discardEarly_holding]; rfl

theorem drained_engine (s : State) (l : Lane) : (s.drained l).engine = s.engine := by
  rw [State.drained, rewind_engine, discardEarly_engine]; rfl

/-- Service, window and indices are nothing to a close, so that it may be said of the lane before the completion. -/
theorem drainComplete_builtFrom {v : State} (l : Lane) (room : v.writer.holding.length < 4) :
    (v.drainComplete l).builtFrom v l .drain := by
  have room' : (v.drained l).writer.holding.length < 4 := drained_holding v l ▸ room
  have eq : v.drainComplete l = ((v.drained l).closeStack l .drain).testStopped := by
    rw [← closeAndFault_room _ _ _ room']; rfl
  have built := builtFrom_testStopped (closeStack_builtFrom l .drain room')
  rw [← eq] at built
  unfold State.builtFrom at built ⊢
  rw [drained_lane_self, drained_holding, drained_engine] at built
  obtain ⟨list, noStack, parked, pulse, kept, taken, others, engine⟩ := built
  have closed : ({ v.lane l with service := .off } : LaneState).rewound.closed.carry = (v.lane l).closed.carry ∧
      ({ v.lane l with service := .off } : LaneState).rewound.closed.nextSequence =
        (v.lane l).closed.nextSequence := by
    cases stack : (v.lane l).openStack <;> simp [LaneState.closed, LaneState.rewound, stack]
  rw [closed.1, closed.2] at taken
  exact ⟨list, noStack, parked, pulse, kept, taken, fun m hm => (others m hm).trans (drained_lane_other v hm), engine⟩

end Sys2Proof.Machine

namespace Sys2Proof.Proofs

open Sys2Proof.Machine

/-- Settles O22: `takeItem_listed` is the whole change; neither the close test nor the completions follow, or the carry
list, not empty with the label in it, is closed. -/
theorem gateListsTheRejectedLabel : Obligations.GateListsTheRejectedLabel := by
  unfold Obligations.GateListsTheRejectedLabel
  refine ⟨fun c m => ⟨fun n => shortfallList_entry, shortfallList_overflow, shortfallList_unordered⟩, ?_⟩
  intro l s u r rest g why head due decided x front list listed
  have taken : (s.setLane l front).takeItem l r = u := by
    rw [takeItem_listed decided, lane_setLane_self, setLane_setLane, listMissing_eq, listed]; rfl
  have lane : u.lane l = { front with
      gate := g
      openStack := x.openStack.map
        (fun k => { k with short := k.short.list ⟨r.serial, why, r.defect, r.flags.undecided⟩ })
      carry := if x.openStack.isNone then list else x.carry } := by rw [listed, lane_setLane_self]
  have gated : s.takeGate l = (u.testClose l r).afterGate l := by rw [← taken]; exact takeGate_due head due
  obtain ⟨mem, -⟩ := act_labelWork (f := (·.takeGate l)) (takeGate_labelWork s l)
  refine ⟨taken, _, rfl, mem, act_eq gated,
    fun ordered queued => ⟨fun more below => ?idle, fun last noStack free room => ?close⟩⟩
  case idle =>
    have unclosed : u.testClose l r = u := testClose_below more fun k stack => by
      rw [lane] at stack
      obtain ⟨k', stack', rfl⟩ := Option.map_eq_some_iff.mp stack
      exact below k' stack'
    have ends : u.afterGate l = u := afterGate_idle (by rw [lane]; exact ordered) (by rw [lane]; exact queued)
    exact act_eq (by rw [gated, unclosed, ends])
  case close =>
    have room' : u.writer.holding.length < 4 := by rw [listed]; exact room
    have stack : (u.lane l).openStack = none := by rw [lane]; exact congrArg (Option.map _) noStack
    have carry : (u.lane l).carry = list := by rw [lane]; exact if_pos (by rw [noStack]; rfl)
    have closed : u.testClose l r = u.closeStack l .batchEnd := by
      rw [testClose_endOfBatch last, closeAndFault_room u l _ room']
    have kept := closeStack_lane_self u l .batchEnd
    unfold LaneState.closedFrom at kept
    have ends : (u.closeStack l .batchEnd).afterGate l = u.closeStack l .batchEnd :=
      afterGate_idle (by rw [kept, lane]; exact ordered) (by rw [kept, lane]; exact queued)
    have record : (u.lane l).closedRecord l .batchEnd =
        some ((u.lane l).carry.record l (u.lane l).nextSequence .batchEnd) :=
      closedRecord_carry stack (by rw [carry]; exact shortfallList_isEmpty _ _) (by rw [lane]; exact free)
    refine act_eq ?_
    rw [gated, closed, ends, closeStack_builds record room', carry, closed_carry stack, LaneState.afterCarryClose,
      lane, listed]
    rfl

/-- Settles O27: the gate event in its parts and each part's equations; with room, `State.builtFrom` for either close, what
`closedFrom` says of the lane, and the test for STOPPED as the other lanes decide it. -/
theorem lastGateCompletesDrainOrRunOut : Obligations.LastGateCompletesDrainOrRunOut := by
  unfold Obligations.LastGateCompletesDrainOrRunOut
  refine ⟨fun l s r rest head due => ?gate, fun l v => ?parts,
    fun v => ⟨testStopped_stops, testStopped_waits⟩,
    fun l v room => ⟨fun draining last => ?drain, fun c faulted empty => ?runOut⟩⟩
  case gate =>
    obtain ⟨mem, frame⟩ := act_labelWork (f := (·.takeGate l)) (takeGate_labelWork s l)
    exact ⟨_, rfl, mem, frame, act_eq (takeGate_due head due)⟩
  case parts =>
    refine ⟨afterGate_drain, afterGate_runOut, fun ordered queued => ?_, rfl, fun faulted => ?_, ?_, ?_⟩
    · exact afterGate_idle (fun ⟨d, last⟩ => ordered d last) (fun ⟨f, empty⟩ => queued f empty)
    · rw [State.runOutComplete, closeFaulted_eq _ faulted]
    · rintro n u rfl rfl
      exact ⟨discardEarly_none, discardEarly_some⟩
    · rintro fetch u rfl rewound
      obtain rfl : u = v.setLane l (v.lane l).rewound := rewound.trans (congrArg (v.setLane l) (rewound_eq _).symm)
      exact ⟨rewind_empty, rewind_discards⟩
  case drain =>
    obtain ⟨lane, early, engine⟩ := drainComplete_room v l room
    unfold LaneState.closedFrom at lane
    have service : ((v.drainComplete l).lane l).service = .off := by rw [lane]; rfl
    have fetch : ((v.drainComplete l).lane l).fetch = (v.lane l).release := by
      rw [lane]
      show (v.lane l).release + BitVec.ofNat 16 ((v.lane l).queue.countP (·.holdsOrder)) = _
      rw [last]; exact BitVec.add_zero _
    have done : (v.drainComplete l).runOutDone = true ↔ v.othersDone l :=
      runOutDone_othersDone (drainComplete_lanesBut v l) (by rw [service]; exact ⟨nofun, nofun, nofun⟩)
    exact ⟨drainComplete_builtFrom l room, service, by rw [lane]; rfl, by rw [lane]; rfl, by rw [lane]; rfl, fetch,
      early, stopped_iff_done done (congrArg Engine.state engine)⟩
  case runOut =>
    have lane := runOutComplete_lane_self v l
    unfold LaneState.closedFrom at lane
    have service : ((v.runOutComplete l).lane l).service = .faulted c := by rw [lane]; exact faulted
    have queue : ((v.runOutComplete l).lane l).queue = [] := by rw [lane]; exact empty
    have done : (v.runOutComplete l).runOutDone = true ↔ v.othersDone l :=
      runOutDone_othersDone (runOutComplete_lanesBut v l) (by rw [service, queue]; exact ⟨nofun, nofun, fun _ => rfl⟩)
    exact ⟨runOutComplete_builtFrom l room, service, queue, stopReq_of_faulted _ l (by rw [service]; rfl),
      runOutComplete_early v l, stopped_iff_done done (runOutComplete_engine v l)⟩

end Sys2Proof.Proofs
end

section
/-! The index words the host writes (03 R43, 06 R107, 11 R179): the test of each write and what the write does on either
side of it. -/

namespace Sys2Proof.Machine

/-! ## Index words (03 R43, 06 R107, 11 R179) -/

theorem putOffset_lt (l : Lane) : putOffset l < 512 := by cases l <;> decide

theorem controlWord_put (l : Lane) : controlWord (putOffset l) = .put l := by cases l <;> rfl

theorem pageAddress_put (l : Lane) : pageAddress (putOffset l) = 4193792 + 0x080 + 4 * l.number := by
  cases l <;> rfl

/-- A put write is taken under the bounds of 03 R43. -/
theorem putTaken_iff (s : State) (l : Lane) (n : RingIndex) : s.putTaken l n = true ↔
    (s.regions.orderRing.get l).base ≠ 0 ∧
      (n - (s.lane l).release).toNat ≤ 2 ^ (s.regions.orderRing.get l).size.toNat ∧
      (n - (s.lane l).fetch).toNat ≤ (n - (s.lane l).release).toNat := by
  simp only [State.putTaken, MapEntry.mapped, Bool.and_eq_true, bne_iff_ne, decide_eq_true_eq, and_assoc]
  rfl

theorem writePut_taken {s : State} {l : Lane} {d : Word} (taken : s.putTaken l (indexField d) = true) :
    s.writePut l d = (s.setLane l { s.lane l with put := indexField d }).storeControl (putOffset l)
      ((indexField d).setWidth 32) := if_pos taken

theorem writePut_refused {s : State} {l : Lane} {d : Word} (refused : ¬ s.putTaken l (indexField d) = true) :
    s.writePut l d = s.refuseProtected
      { code := .putRefused, lane := some l, address := some (pageAddress (putOffset l)),
        value := some ((indexField d).setWidth 32) } := if_neg refused

theorem writeStackRead_taken {s : State} {d : Word}
    (taken : readIndexTaken s.writer.stackRead s.writer.stackWrite (indexField d) = true) :
    s.writeStackRead d = ({ s with writer := { s.writer with stackRead := indexField d } } : State).storeControl 0x091
      ((indexField d).setWidth 32) := if_pos taken

theorem writeStackRead_refused {s : State} {d : Word}
    (refused : ¬ readIndexTaken s.writer.stackRead s.writer.stackWrite (indexField d) = true) :
    s.writeStackRead d = s.refuseProtected
      { code := .stackReadRefused, address := some (pageAddress 0x091),
        value := some ((indexField d).setWidth 32) } := if_neg refused

theorem writeEventRead_taken {s : State} {d : Word}
    (taken : readIndexTaken s.writer.eventRead s.writer.eventWrite (indexField d) = true) :
    s.writeEventRead d = ({ s with writer := { s.writer with eventRead := indexField d } } : State).storeControl 0x093
      ((indexField d).setWidth 32) := if_pos taken

theorem writeEventRead_refused {s : State} {d : Word}
    (refused : ¬ readIndexTaken s.writer.eventRead s.writer.eventWrite (indexField d) = true) :
    s.writeEventRead d = s.refuseProtected
      { code := .eventReadRefused, address := some (pageAddress 0x093),
        value := some ((indexField d).setWidth 32) } := if_neg refused

theorem readIndexTaken_iff (read write n : RingIndex) :
    readIndexTaken read write n = true ↔ (n - read).toNat ≤ (write - read).toNat := decide_eq_true_iff

/-- The write of a lane's put word is the write of its control word. -/
theorem writeControl_put (s : State) (l : Lane) (d : Word) : s.writeControl (putOffset l) d = s.writePut l d := by
  simp only [State.writeControl, controlWord_put]

end Sys2Proof.Machine

namespace Sys2Proof.Proofs

open Sys2Proof.Machine

/-- Settles O39: for each index word the test of its write, and what the write does on either side of it. -/
theorem indexWrites : Obligations.IndexWrites := by
  unfold Obligations.IndexWrites
  rintro l d s n next rfl
  refine ⟨fun bounds => ?putTaken, fun bounds => ?putRefused, fun upTo => ?stackTaken, fun beyond => ?stackRefused,
    fun upTo => ?eventTaken, fun beyond => ?eventRefused⟩
  case putTaken =>
    rw [← pageAddress_put]
    exact pageWrite_answers s next _ (putOffset_lt l) d _
      ((writeControl_put s l d).trans (writePut_taken ((putTaken_iff s l _).mpr bounds)))
  case putRefused =>
    rw [← pageAddress_put]
    exact pageWrite_refused s next _ (putOffset_lt l) d _
      ((writeControl_put s l d).trans (writePut_refused (mt (putTaken_iff s l _).mp bounds)))
  case stackTaken =>
    exact pageWrite_answers s next 0x091 (by decide) d _ (writeStackRead_taken ((readIndexTaken_iff _ _ _).mpr upTo))
  case stackRefused =>
    exact pageWrite_refused s next 0x091 (by decide) d _
      (writeStackRead_refused (mt (readIndexTaken_iff _ _ _).mp (Nat.not_le.mpr beyond)))
  case eventTaken =>
    exact pageWrite_answers s next 0x093 (by decide) d _ (writeEventRead_taken ((readIndexTaken_iff _ _ _).mpr upTo))
  case eventRefused =>
    exact pageWrite_refused s next 0x093 (by decide) d _
      (writeEventRead_refused (mt (readIndexTaken_iff _ _ _).mp (Nat.not_le.mpr beyond)))

end Sys2Proof.Proofs
end

section
/-! Order fetches (03 R46 to R49): what a fetch start changes, and what a FETCH grant reads, reports and leaves of its
lane. -/

namespace Sys2Proof.Machine

/-! ## Fetch starts (03 R46) -/

theorem canFetch_iff (x : LaneState) : x.canFetch = true ↔
    x.service = .active ∧ x.windowDepth < 8 ∧ x.reservation = none ∧ x.put ≠ x.fetch := by
  simp only [LaneState.canFetch, Bool.and_eq_true, beq_iff_eq, decide_eq_true_eq, Option.isNone_iff_eq_none, bne_iff_ne,
    and_assoc]
  rfl

theorem startFetch_begins {s : State} {l : Lane} (h : (s.lane l).canFetch = true) :
    s.startFetch l = s.setLane l { s.lane l with
      reservation := some { index := (s.lane l).fetch, before := (s.lane l).previousSerial, words := [] }
      fetch := (s.lane l).fetch + 1 } := if_pos h

theorem startFetch_waits {s : State} {l : Lane} (h : ¬ (s.lane l).canFetch = true) : s.startFetch l = s := if_neg h

/-! ## Fetch reads (03 R47 to R49) -/

theorem reportFetch_reportOnly (s : State) (l : Lane) (a : Nat) (o : ReadOutcome) :
    s.reportOnly (s.reportFetch l a o) := by
  cases o with
  | clean => exact reportOnly_refl s
  | blank => exact reportOnly_refl s
  | corrected b => exact reportOnly_trans (detectCorrectable_reportOnly s _ a b) (offerScrub_reportOnly _ a)
  | uncorrectable d => exact offerUncorrectable_reportOnly s _ _ a d

theorem reportOnly_memory {s t : State} (h : s.reportOnly t) : t.memory = s.memory ∧ t.powerCycle = s.powerCycle := by
  constructor <;> (rw [h])

theorem reportFetch_lane (s : State) (l m : Lane) (a : Nat) (o : ReadOutcome) :
    (s.reportFetch l a o).lane m = s.lane m := by
  rw [reportFetch_reportOnly s l a o]; rfl

/-- A reservation with one more word read. -/
def Reservation.withWord (r : Reservation) (o : ReadOutcome) (d : Word) : Reservation :=
  { r with words := r.words ++ [{ outcome := o, data := d }] }

theorem readSlotWord_eq {s : State} {l : Lane} {r : Reservation} {a : Nat} {o : ReadOutcome} {d : Word}
    (address : a = (s.regions.orderRing.get l).slotAddress r.index r.words.length) (reads : s.reads a o d) :
    s.readSlotWord l r = (s.reportFetch l a o).setLane l
      ((s.lane l).completeFetch (r.withWord o d) s.settings.pmin) := by
  obtain ⟨outcome, data⟩ := reads_spec s a o d reads
  simp only [State.readSlotWord, ← address, outcome, data, reportFetch_lane]
  rfl

/-- A FETCH grant reads the next word of the lane in rotation and reports what it found (03 R47, 08 R139). -/
theorem serveFetch_reads {s : State} {l : Lane} {r : Reservation} {a : Nat} {o : ReadOutcome} {d : Word}
    (lane : s.fetchLane = some l) (reserved : (s.lane l).reservation = some r)
    (address : a = (s.regions.orderRing.get l).slotAddress r.index r.words.length) (reads : s.reads a o d) :
    s.serveFetch = ({ (s.reportFetch l a o).setLane l ((s.lane l).completeFetch (r.withWord o d) s.settings.pmin) with
      arbiter := { s.arbiter with lastServed := .fetch, lastLane := l } } : State).bookkeptAs s.serveFetch := by
  obtain ⟨y, hy⟩ : ∃ y, y = { (s.grantInternal .fetch).arbiter with lastLane := l } := ⟨_, rfl⟩
  have work : (s.grantInternal .fetch).fetchWork = (s.withArbiter y).readSlotWord l r := by
    have lane' : (s.grantInternal .fetch).fetchLane = some l := lane
    have reserved' : ((s.grantInternal .fetch).lane l).reservation = some r := reserved
    simp only [State.fetchWork, lane', reserved', hy]
    rfl
  have read := readSlotWord_eq (s := s.withArbiter y) address reads
  refine serveFetch_bookkept s _ fun X => ?_
  rw [work, read, reportFetch_withArbiter, hy]
  rfl

theorem completeFetch_partial {x : LaneState} {r : Reservation} {o : ReadOutcome} {d : Word} {pmin : Half}
    (more : r.words.length < 3) :
    x.completeFetch (r.withWord o d) pmin = { x with reservation := some (r.withWord o d) } := by
  obtain ⟨index, before, words⟩ := r
  match words, more with
  | [], _ => rfl
  | [_], _ => rfl
  | [_, _], _ => rfl

/-- The fourth word makes a window entry whose result is the first failing check (03 R48, R49). -/
theorem completeFetch_entry {x : LaneState} {r : Reservation} {o : ReadOutcome} {d : Word} {pmin : Half}
    {w0 w1 w2 : FetchedWord} {e : WindowEntry} (words : r.words = [w0, w1, w2]) (index : e.index = r.index)
    (h0 : e.word0 = w0) (h1 : e.word1 = w1) (h2 : e.word2 = w2) (h3 : e.word3 = { outcome := o, data := d })
    (before : e.before = r.before) (failed : e.firstFailure x.previousSerial pmin = e.failed) :
    x.completeFetch (r.withWord o d) pmin = { x with
      window := x.window ++ [e]
      reservation := none
      previousSerial := (if w0.outcome.trusted then some w0.data else x.previousSerial) } := by
  obtain ⟨rIndex, rBefore, rWords⟩ := r
  obtain ⟨eIndex, e0, e1, e2, e3, eBefore, eFailed⟩ := e
  dsimp only at *
  subst words index h0 h1 h2 h3 before
  rw [← failed]
  rfl

end Sys2Proof.Machine

namespace Sys2Proof.Proofs

open Sys2Proof.Machine

/-- Settles O52: a fetch start by its conditions; a fetch read by `serveFetch_reads`, whose lane is one word on or, with
the fourth word, one window entry on. -/
theorem fetchStartsAndReads : Obligations.FetchStartsAndReads := by
  unfold Obligations.FetchStartsAndReads
  rintro l s x rfl
  refine ⟨fun active room free filled => ?begins, fun closed => ?waits, fun late => ?late,
    fun r a o d u ring turn lane reserved hRing short address reads report => ?reads⟩
  case begins =>
    exact ⟨_, rfl, act_both (startFetch_begins ((canFetch_iff _).mpr ⟨active, room, free, filled⟩)) rfl rfl⟩
  case waits => exact ⟨_, rfl, act_eq (startFetch_waits (mt (canFetch_iff _).mp closed))⟩
  case late => exact congrArg Host.Outcome.next (if_neg (by simp [late]))
  case reads =>
    subst hRing
    have granted : exec .fetchRead s = .next s.serveFetch := congrArg Host.Outcome.next (if_pos turn)
    obtain rfl : u = s.reportFetch l a o := by rw [report]; cases o <;> rfl
    have served := serveFetch_reads lane reserved address reads
    obtain ⟨stored, powered⟩ := reportOnly_memory (reportFetch_reportOnly s l a o)
    have memory : s.sameMemory s.serveFetch := by rw [served]; exact sameMemory_of_eq stored powered
    refine ⟨fun more => ?word, fun w0 w1 w2 e words index h0 h1 h2 h3 before checks => ?entry⟩
    case word =>
      rw [completeFetch_partial more] at served
      exact ⟨_, granted, memory, served⟩
    case entry =>
      rw [completeFetch_entry words index h0 h1 h2 h3 before (firstFailure_eq e _ _ _ checks)] at served
      exact ⟨_, granted, memory, served⟩

end Sys2Proof.Proofs
end

section
/-! The invariants at reset: every list of `State.reset` is empty, every count 0 and every lane as after power-on. -/

namespace Sys2Proof.Machine

theorem initialLane_sound (l : Lane) : LaneState.initial.sound l := by
  constructor <;> simp [LaneState.initial, Tracker.initial, Service.isFaulted]

theorem initialLane_ringHolds (n : Nat) : LaneState.initial.ringHolds n :=
  ⟨Nat.le_refl _, Nat.zero_le _, rfl⟩

theorem reset_sound : State.reset.sound where
  lanes l := reset_lane l ▸ initialLane_sound l
  stopped _ l := by rw [reset_lane]; rintro (h | h) <;> cases h
  draining h := nomatch h
  running h := nomatch h
  halted h := nomatch h
  gates l _ := by rw [reset_lane]; rfl
  early := nofun
  unlocked _ l := by rw [reset_lane]; exact ⟨.inl rfl, rfl, rfl, rfl, rfl, rfl, rfl⟩

end Sys2Proof.Machine

namespace Sys2Proof.Proofs

open Sys2Proof.Machine

/-- Settles O60: `State.reset` has every list empty, every count 0 and every lane as `LaneState.initial`. -/
theorem invariantsHoldAtReset : Obligations.InvariantsHoldAtReset := by
  unfold Obligations.InvariantsHoldAtReset
  refine ⟨rfl, ⟨rfl, rfl⟩, ?bounds, ?publication, List.nodup_nil, ⟨fun r _ => by cases r <;> rfl, rfl⟩,
    fun busy => absurd rfl busy, reset_sound, fun l => ?ring, fun l _ => ?account⟩
  case bounds => unfold State.bounded; decide
  case publication => exact ⟨List.nodup_nil, nofun⟩
  case ring => rw [reset_lane]; exact initialLane_ringHolds _
  case account => rw [State.accountedFor, reset_lane]; rfl

end Sys2Proof.Proofs
end

section
/-! The order ring of a lane under the operations of its owner (03 R42, R53): what the ring invariant reads of a lane, and
the invariant through a release, a rewind, a label start, a fetch and a map write. -/

namespace Sys2Proof.Machine

/-! ## What the ring invariant reads -/

/-- The indices of a lane's ring with the orders they count. -/
structure RingPart where
  /-- the put copy -/
  put     : RingIndex
  /-- the fetch index -/
  fetch   : RingIndex
  /-- the release index -/
  release : RingIndex
  /-- the orders bound to queued records -/
  ordered : Nat
  /-- the orders in the window, the reservation among them -/
  depth   : Nat

/-- What `LaneState.ringHolds` reads of a lane. -/
def LaneState.ringPart (x : LaneState) : RingPart := ⟨x.put, x.fetch, x.release, x.orderedCount, x.windowDepth⟩

theorem ringHolds_of_part {x y : LaneState} {n : Nat} (part : y.ringPart = x.ringPart) (h : x.ringHolds n) :
    y.ringHolds n := by
  simp only [LaneState.ringPart, RingPart.mk.injEq] at part
  obtain ⟨put, fetch, release, ordered, depth⟩ := part
  unfold LaneState.ringHolds at *
  rw [put, fetch, release, ordered, depth]
  exact h

/-! ## Orders of a queue -/

/-- Records that hold the same slots make as many ordered records. -/
theorem countP_holdsOrder_of_slots {p q : List LabelRecord} (h : q.map (·.slot) = p.map (·.slot)) :
    q.countP (·.holdsOrder) = p.countP (·.holdsOrder) := by
  have slots : ∀ rs : List LabelRecord, rs.countP (·.holdsOrder) = (rs.map (·.slot)).countP Option.isSome :=
    fun rs => by rw [List.countP_map]; rfl
  rw [slots, slots, h]

theorem map_slot_map {f : LabelRecord → LabelRecord} (h : ∀ r, (f r).slot = r.slot) (q : List LabelRecord) :
    (q.map f).map (·.slot) = q.map (·.slot) := by
  rw [List.map_map]; exact List.map_congr_left fun r _ => h r

theorem map_slot_updateFirst {p : LabelRecord → Bool} {f : LabelRecord → LabelRecord} (h : ∀ r, (f r).slot = r.slot)
    (q : List LabelRecord) : (updateFirst p f q).map (·.slot) = q.map (·.slot) := by
  induction q with
  | nil => rfl
  | cons r q ih =>
    unfold updateFirst
    split
    · simp [h]
    · simp [ih]

theorem map_slot_confirmQueue (q : List LabelRecord) : (confirmQueue q).map (·.slot) = q.map (·.slot) := by
  induction q with
  | nil => rfl
  | cons r q ih =>
    unfold confirmQueue
    split
    · split
      · cases q <;> rfl
      · rfl
    · simp [ih]

/-- A queue replaced by one with the same slots leaves the ring as it was. -/
theorem ringPart_of_slots {x : LaneState} {q : List LabelRecord} (h : q.map (·.slot) = x.queue.map (·.slot)) :
    ({ x with queue := q } : LaneState).ringPart = x.ringPart := by
  simp only [LaneState.ringPart, LaneState.orderedCount, countP_holdsOrder_of_slots h]
  rfl

/-! ## Distances on the ring -/

theorem ring_distance_back {a r : RingIndex} {k : Nat} (h : k ≤ (a - r).toNat) :
    (a - (r + BitVec.ofNat 16 k)).toNat = (a - r).toNat - k := by
  have bound := (a - r).isLt
  have small : (BitVec.ofNat 16 k).toNat = k := by rw [BitVec.toNat_ofNat]; omega
  rw [sub_add_eq_sub_sub, BitVec.toNat_sub_of_le (BitVec.le_def.mpr (by omega)), small]

theorem ring_distance_on {r : RingIndex} {k : Nat} (h : k < 65536) : (r + BitVec.ofNat 16 k - r).toNat = k := by
  rw [BitVec.add_comm, BitVec.add_sub_cancel, BitVec.toNat_ofNat]
  omega

theorem ring_distance_next {a b r : RingIndex} (behind : (a - r).toNat ≤ (b - r).toNat) (apart : b ≠ a) :
    (a + 1 - r).toNat = (a - r).toNat + 1 ∧ (a - r).toNat + 1 ≤ (b - r).toNat := by
  have ne : (a - r).toNat ≠ (b - r).toNat := fun e =>
    apart ((BitVec.sub_left_inj r).mp (BitVec.eq_of_toNat_eq e)).symm
  have bound := (b - r).isLt
  rw [add_sub_right_comm, BitVec.toNat_add]
  constructor
  · have : (1 : RingIndex).toNat = 1 := rfl
    omega
  · omega

/-- A put write that withdraws no fetched slot leaves put at or past fetch (03 R43). -/
theorem ring_distance_put {f p r : RingIndex} (h : (p - f).toNat ≤ (p - r).toNat) :
    (f - r).toNat ≤ (p - r).toNat := by
  bv_omega

/-! ## The invariant through the operations -/

/-- As many orders released as records gave up (03 R52). -/
theorem ringHolds_release {x y : LaneState} {n k : Nat} (h : x.ringHolds n)
    (indices : y.put = x.put ∧ y.fetch = x.fetch ∧ y.release = x.release + BitVec.ofNat 16 k)
    (orders : y.orderedCount + k = x.orderedCount ∧ y.windowDepth = x.windowDepth) : y.ringHolds n := by
  obtain ⟨below, room, count⟩ := h
  obtain ⟨put, fetch, release⟩ := indices
  obtain ⟨ordered, depth⟩ := orders
  unfold LaneState.ringHolds
  rw [put, fetch, release, depth, ring_distance_back (by omega), ring_distance_back (by omega)]
  omega

/-- Orders moved between window and queue. -/
theorem ringHolds_bind {x y : LaneState} {n : Nat} (h : x.ringHolds n)
    (indices : y.put = x.put ∧ y.fetch = x.fetch ∧ y.release = x.release)
    (orders : y.orderedCount + y.windowDepth = x.orderedCount + x.windowDepth) : y.ringHolds n := by
  obtain ⟨below, room, count⟩ := h
  obtain ⟨put, fetch, release⟩ := indices
  unfold LaneState.ringHolds
  rw [put, fetch, release]
  omega

/-- The window given back to the ring (03 R57). -/
theorem ringHolds_rewound {x : LaneState} {n : Nat} (h : x.ringHolds n) : x.rewound.ringHolds n := by
  obtain ⟨below, room, count⟩ := h
  have bound := (x.fetch - x.release).isLt
  have back : (x.rewound.fetch - x.rewound.release).toNat = x.orderedCount := ring_distance_on (by omega)
  have depth : x.rewound.windowDepth = 0 := rfl
  refine ⟨?_, room, ?_⟩
  · rw [back]
    exact Nat.le_trans (by omega) below
  · rw [back, depth]
    rfl

/-- One more slot reserved, of those that are put and not fetched (03 R46). -/
theorem ringHolds_startFetch {x : LaneState} {n : Nat} (h : x.ringHolds n) (r : Reservation)
    (can : x.canFetch = true) :
    ({ x with reservation := some r, fetch := x.fetch + 1 } : LaneState).ringHolds n := by
  obtain ⟨-, -, free, filled⟩ := (canFetch_iff x).mp can
  obtain ⟨below, room, count⟩ := h
  obtain ⟨on, within⟩ := ring_distance_next below filled
  have depth : ({ x with reservation := some r, fetch := x.fetch + 1 } : LaneState).windowDepth =
      x.windowDepth + 1 := by simp [LaneState.windowDepth, free]
  refine ⟨?_, room, ?_⟩
  · exact on ▸ within
  · rw [depth]
    exact on.trans (congrArg (· + 1) count)

/-- A fetch read and a completion keep the window depth (03 R48). -/
theorem ringPart_completeFetch {x : LaneState} {r : Reservation} (reserved : x.reservation = some r)
    (q : Reservation) (pmin : Half) : (x.completeFetch q pmin).ringPart = x.ringPart := by
  unfold LaneState.completeFetch
  split <;> simp [LaneState.ringPart, LaneState.windowDepth, LaneState.orderedCount, reserved]

/-- A lane without orders whose fetch and release stand at put (03 R45). -/
theorem ringHolds_empty {x : LaneState} {n : Nat} (indices : x.fetch = x.put ∧ x.release = x.put)
    (orders : x.orderedCount = 0 ∧ x.windowDepth = 0) : x.ringHolds n := by
  obtain ⟨fetch, release⟩ := indices
  obtain ⟨ordered, depth⟩ := orders
  unfold LaneState.ringHolds
  rw [fetch, release, ordered, depth, BitVec.sub_self]
  simp

end Sys2Proof.Machine
end

section
/-! The account of labels (06 R101) as the operations of the stack assembler change it: what the account reads of a lane
and of the holding list, how a state carries ring and account on from another, and the operations that touch neither or
only move labels between open stack, carry list, parked slot and holding list. -/

namespace Sys2Proof.Machine

/-! ## What the account reads -/

/-- What of a lane its account of labels reads. -/
structure LabelPart where
  /-- the open stack -/
  openStack : Option OpenStack
  /-- the carry list -/
  carry     : Shortfall
  /-- the parked slot -/
  parked    : Option StackRecord
  /-- the labels that left the queue -/
  departed  : Nat
  /-- the labels of the records published -/
  written   : Nat

/-- What `State.accountedFor` and `State.unsaturated` read of a lane, with the labels departed. -/
def LaneState.labelPart (x : LaneState) : LabelPart := ⟨x.openStack, x.carry, x.parked, x.departed, x.written⟩

/-- The records of a lane in the holding list. -/
def State.heldOf (s : State) (l : Lane) : List StackRecord := s.writer.holding.filter (fun r => r.lane == l)

/-- The labels that a lane's open stack and carry list account for. -/
def LaneState.unclosedLabels (x : LaneState) : Nat := x.openStack.elim 0 OpenStack.labels + x.carry.total

/-- No count of a lane's open stack and carry list has reached 65,535. -/
def LaneState.shortsUnsaturated (x : LaneState) : Prop :=
  (∀ k, x.openStack = some k → k.short.unsaturated) ∧ x.carry.unsaturated

/-- A parked record is its lane's own, and no stack is open beside it (06 R102, R104). -/
def LaneState.parkedApart (x : LaneState) (l : Lane) : Prop := ∀ r, x.parked = some r → x.openStack = none ∧ r.lane = l

theorem accountedFor_eq (s : State) (l : Lane) : s.accountedFor l =
    (s.lane l).written + ((s.heldOf l).map StackRecord.labels).sum + (s.lane l).parked.elim 0 StackRecord.labels +
      (s.lane l).unclosedLabels := Nat.add_assoc _ _ _

theorem unsaturated_iff (s : State) (l : Lane) : s.unsaturated l ↔
    (∀ r ∈ s.heldOf l, r.short.unsaturated) ∧ (∀ r, (s.lane l).parked = some r → r.short.unsaturated) ∧
      (s.lane l).shortsUnsaturated := by
  unfold State.unsaturated State.heldOf LaneState.shortsUnsaturated
  simp only [List.mem_filter, beq_iff_eq, and_imp]

theorem labelPart_eq {x y : LaneState} (part : y.labelPart = x.labelPart) : y.openStack = x.openStack ∧
    y.carry = x.carry ∧ y.parked = x.parked ∧ y.departed = x.departed ∧ y.written = x.written := by
  simpa only [LaneState.labelPart, LabelPart.mk.injEq] using part

/-! ## Labels listed (06 R95) -/

/-- Labels listed one after the other. -/
def Shortfall.listAll (c : Shortfall) (ms : List MissingItem) : Shortfall := ms.foldl Shortfall.list c

/-- A count that holds loses nothing while it stands below its limit. -/
theorem raiseHolding_below {limit n : Nat} (h : n < limit) : raiseHolding limit n = n + 1 := if_pos h

theorem below_of_raiseHolding {limit n : Nat} (h : raiseHolding limit n < limit) : n < limit := by
  unfold raiseHolding at h
  split at h <;> omega

/-- A listed label is one entry more, or raises one of the two counts. -/
theorem list_cases (c : Shortfall) (m : MissingItem) :
    (∃ e, c.list m = { c with entries := c.entries ++ [e] }) ∨
    c.list m = { c with overflow := raiseHolding 65535 c.overflow } ∨
    c.list m = { c with unordered := raiseHolding 65535 c.unordered } := by
  unfold Shortfall.list
  cases m.serial with
  | none => exact .inr (.inr rfl)
  | some n =>
    dsimp only
    split
    · exact .inl ⟨_, rfl⟩
    · exact .inr (.inl rfl)

theorem list_unsaturated {c : Shortfall} {m : MissingItem} (h : (c.list m).unsaturated) :
    c.unsaturated ∧ (c.list m).total = c.total + 1 := by
  rcases list_cases c m with ⟨e, listed⟩ | listed | listed <;> rw [listed] at h ⊢ <;>
    obtain ⟨overflow, unordered⟩ := h
  · exact ⟨⟨overflow, unordered⟩, by simp only [Shortfall.total, List.length_append, List.length_singleton]; omega⟩
  · have below := below_of_raiseHolding overflow
    exact ⟨⟨below, unordered⟩, by simp only [Shortfall.total, raiseHolding_below below]; omega⟩
  · have below := below_of_raiseHolding unordered
    exact ⟨⟨overflow, below⟩, by simp only [Shortfall.total, raiseHolding_below below]; omega⟩

theorem list_below {c : Shortfall} {m : MissingItem} (h : c.total < 65535) : (c.list m).total = c.total + 1 := by
  unfold Shortfall.total at *
  rcases list_cases c m with ⟨e, listed⟩ | listed | listed <;> rw [listed]
  · simp only [List.length_append, List.length_singleton]; omega
  · simp only [raiseHolding_below (show c.overflow < 65535 by omega)]; omega
  · simp only [raiseHolding_below (show c.unordered < 65535 by omega)]; omega

theorem listAll_unsaturated (ms : List MissingItem) {c : Shortfall} (h : (c.listAll ms).unsaturated) :
    c.unsaturated ∧ (c.listAll ms).total = c.total + ms.length := by
  induction ms generalizing c with
  | nil => exact ⟨h, rfl⟩
  | cons m ms ih =>
    obtain ⟨listed, total⟩ := ih (c := c.list m) h
    obtain ⟨first, one⟩ := list_unsaturated listed
    refine ⟨first, total.trans ?_⟩
    rw [one, List.length_cons]; omega

theorem listAll_below (ms : List MissingItem) {c : Shortfall} (h : c.total + ms.length ≤ 65535) :
    (c.listAll ms).total = c.total + ms.length := by
  induction ms generalizing c with
  | nil => rfl
  | cons m ms ih =>
    rw [List.length_cons] at *
    have one := list_below (m := m) (show c.total < 65535 by omega)
    have rest := ih (c := c.list m) (by omega)
    exact rest.trans (by omega)

/-! ## Ring and account carried on -/

/-- The lane's ring holds in a state. -/
def State.ringHoldsAt (s : State) (l : Lane) : Prop := (s.lane l).ringHolds (s.regions.orderRing.get l).slots

/-- `t` carries on lane `l` of `s`: its ring holds on, and its account grew by `n` labels while `d` departed, unless a
count of the lane has saturated. -/
structure State.carries (s t : State) (l : Lane) (n d : Nat) : Prop where
  ring     : s.ringHoldsAt l → t.ringHoldsAt l
  departed : (t.lane l).departed = (s.lane l).departed + d
  apart    : (s.lane l).parkedApart l → (t.lane l).parkedApart l
  exact    : (s.lane l).parkedApart l → t.unsaturated l → s.unsaturated l ∧ t.accountedFor l = s.accountedFor l + n
  first    : (s.lane l).parkedApart l → s.accountedFor l + n ≤ 65535 → t.accountedFor l = s.accountedFor l + n

theorem carries_trans {s t u : State} {l : Lane} {n m d e : Nat} (h : s.carries t l n d) (k : t.carries u l m e) :
    s.carries u l (n + m) (d + e) where
  ring r := k.ring (h.ring r)
  departed := by rw [k.departed, h.departed, Nat.add_assoc]
  apart p := k.apart (h.apart p)
  exact p unsaturated := by
    obtain ⟨unsaturated, account⟩ := k.exact (h.apart p) unsaturated
    obtain ⟨before, start⟩ := h.exact p unsaturated
    exact ⟨before, by rw [account, start, Nat.add_assoc]⟩
  first p small := by
    have start := h.first p (by omega)
    rw [k.first (h.apart p) (by omega), start, Nat.add_assoc]

theorem accountedFor_of_parts {s t : State} {l : Lane} (part : (t.lane l).labelPart = (s.lane l).labelPart)
    (held : t.heldOf l = s.heldOf l) : t.accountedFor l = s.accountedFor l := by
  obtain ⟨stack, carry, parked, -, written⟩ := labelPart_eq part
  rw [accountedFor_eq, accountedFor_eq, LaneState.unclosedLabels, LaneState.unclosedLabels, held, stack, carry, parked,
    written]

/-- Nothing that the ring and the account read has changed. -/
theorem carries_of_parts {s t : State} {l : Lane} (ring : s.ringHoldsAt l → t.ringHoldsAt l)
    (part : (t.lane l).labelPart = (s.lane l).labelPart) (held : t.heldOf l = s.heldOf l) : s.carries t l 0 0 := by
  obtain ⟨stack, carry, parked, departed, -⟩ := labelPart_eq part
  have shorts : (t.lane l).shortsUnsaturated ↔ (s.lane l).shortsUnsaturated := by
    unfold LaneState.shortsUnsaturated; rw [stack, carry]
  have account := accountedFor_of_parts part held
  refine ⟨ring, departed, fun apart => ?_, fun _ unsaturated => ⟨?_, account⟩, fun _ _ => account⟩
  · unfold LaneState.parkedApart; rw [parked, stack]; exact apart
  · rw [unsaturated_iff, held, parked, shorts] at unsaturated
    exact (unsaturated_iff s l).mpr unsaturated

/-- Labels of a lane moved within its account, its ring untouched. -/
theorem carries_of_account {s t : State} {l : Lane} (regions : t.regions = s.regions)
    (ring : (t.lane l).ringPart = (s.lane l).ringPart) (departed : (t.lane l).departed = (s.lane l).departed)
    (moved : (s.lane l).parkedApart l → (t.lane l).parkedApart l ∧ t.accountedFor l = s.accountedFor l ∧
      (t.unsaturated l → s.unsaturated l)) : s.carries t l 0 0 where
  ring holds := by
    unfold State.ringHoldsAt
    rw [regions]
    exact ringHolds_of_part ring holds
  departed := departed
  apart apart := (moved apart).1
  exact apart unsaturated := by
    obtain ⟨-, account, before⟩ := moved apart
    exact ⟨before unsaturated, account⟩
  first apart _ := (moved apart).2.1

/-- A lane's open stack and carry list changed, its parked slot and the holding list as they were. -/
theorem carries_setLane {s : State} {l : Lane} {y : LaneState} {n d : Nat}
    (ring : ∀ k, (s.lane l).ringHolds k → y.ringHolds k) (departed : y.departed = (s.lane l).departed + d)
    (rest : y.parked = (s.lane l).parked ∧ y.written = (s.lane l).written)
    (apart : (s.lane l).parkedApart l → y.parkedApart l)
    (exact : y.shortsUnsaturated → (s.lane l).shortsUnsaturated ∧ y.unclosedLabels = (s.lane l).unclosedLabels + n)
    (first : (s.lane l).unclosedLabels + n ≤ 65535 → y.unclosedLabels = (s.lane l).unclosedLabels + n) :
    s.carries (s.setLane l y) l n d := by
  obtain ⟨parked, written⟩ := rest
  have grows : y.unclosedLabels = (s.lane l).unclosedLabels + n →
      (s.setLane l y).accountedFor l = s.accountedFor l + n := fun unclosed => by
    rw [accountedFor_eq, accountedFor_eq, lane_setLane_self, parked, written, unclosed, ← Nat.add_assoc]; rfl
  refine ⟨fun h => ?_, ?_, fun h => ?_, fun _ unsaturated => ?_, fun _ small => grows (first ?_)⟩
  · unfold State.ringHoldsAt; rw [lane_setLane_self]; exact ring _ h
  · rw [lane_setLane_self]; exact departed
  · rw [lane_setLane_self]; exact apart h
  · rw [unsaturated_iff, lane_setLane_self, parked] at unsaturated
    obtain ⟨held, placed, shorts⟩ := unsaturated
    obtain ⟨shorts, unclosed⟩ := exact shorts
    exact ⟨(unsaturated_iff s l).mpr ⟨held, placed, shorts⟩, grows unclosed⟩
  · rw [accountedFor_eq] at small; omega

/-- A lane replaced is nothing to the others. -/
theorem carries_setLane_other {s : State} {l m : Lane} (y : LaneState) (h : m ≠ l) : s.carries (s.setLane l y) m 0 0 := by
  have same := lane_setLane_other s y h
  exact carries_of_parts (fun ring => by unfold State.ringHoldsAt; rw [same]; exact ring) (by rw [same]) rfl

/-! ## Ring and account kept -/

/-- `t` keeps the rings and accounts of `s`: each lane is carried on, with as many labels accounted for as departed. -/
def State.keeps (s t : State) : Prop := ∀ l, ∃ n, s.carries t l n n

theorem keeps_trans {s t u : State} (h : s.keeps t) (k : t.keeps u) : s.keeps u := fun l => by
  obtain ⟨n, h⟩ := h l
  obtain ⟨m, k⟩ := k l
  exact ⟨n + m, carries_trans h k⟩

theorem keeps_ite {s t u : State} {c : Prop} [Decidable c] (h : s.keeps t) (k : s.keeps u) :
    s.keeps (if c then t else u) := by
  split
  · exact h
  · exact k

/-- The lanes, the region map and the holding list are as they were. -/
def State.lanesKept (s t : State) : Prop :=
  t.lanes = s.lanes ∧ t.regions = s.regions ∧ t.writer.holding = s.writer.holding

theorem lanesKept_trans {s t u : State} (h : s.lanesKept t) (k : t.lanesKept u) : s.lanesKept u := by
  obtain ⟨lanes, regions, holding⟩ := h
  obtain ⟨lanes', regions', holding'⟩ := k
  exact ⟨lanes'.trans lanes, regions'.trans regions, holding'.trans holding⟩

theorem reportOnly_lanesKept {s t : State} (h : s.reportOnly t) : s.lanesKept t := by
  unfold State.reportOnly at h
  rw [h]; exact ⟨rfl, rfl, rfl⟩

theorem carries_of_lanesKept {s t : State} (h : s.lanesKept t) (l : Lane) : s.carries t l 0 0 := by
  obtain ⟨lanes, regions, holding⟩ := h
  have lane : t.lane l = s.lane l := by unfold State.lane; rw [lanes]
  refine carries_of_parts (fun ring => ?_) (by rw [lane]) (by unfold State.heldOf; rw [holding])
  unfold State.ringHoldsAt; rw [lane, regions]; exact ring

theorem keeps_of_lanesKept {s t : State} (h : s.lanesKept t) : s.keeps t := fun l => ⟨0, carries_of_lanesKept h l⟩

theorem keeps_refl (s : State) : s.keeps s := keeps_of_lanesKept ⟨rfl, rfl, rfl⟩

/-- One lane changed, in what neither its account nor its ring invariant can tell. -/
theorem keeps_of_lane {s t : State} {l : Lane} (others : s.lanesBut l t) (regions : t.regions = s.regions)
    (holding : t.writer.holding = s.writer.holding) (ring : ∀ k, (s.lane l).ringHolds k → (t.lane l).ringHolds k)
    (part : (t.lane l).labelPart = (s.lane l).labelPart) : s.keeps t := fun m => by
  have held : t.heldOf m = s.heldOf m := by unfold State.heldOf; rw [holding]
  refine ⟨0, carries_of_parts (fun h => ?_) ?_ held⟩ <;> by_cases other : m = l
  · subst other; unfold State.ringHoldsAt; rw [regions]; exact ring _ h
  · unfold State.ringHoldsAt; rw [others m other, regions]; exact h
  · subst other; exact part
  · rw [others m other]

theorem keeps_setLane {s : State} {l : Lane} {y : LaneState} (ring : ∀ k, (s.lane l).ringHolds k → y.ringHolds k)
    (part : y.labelPart = (s.lane l).labelPart) : s.keeps (s.setLane l y) :=
  keeps_of_lane (setLane_lanesBut s l y) rfl rfl (by rwa [lane_setLane_self]) (by rwa [lane_setLane_self])

/-- A lane replaced by one that rings and accounts cannot tell from it. -/
theorem keeps_setLane_same {s : State} {l : Lane} {y : LaneState} (ring : y.ringPart = (s.lane l).ringPart)
    (part : y.labelPart = (s.lane l).labelPart) : s.keeps (s.setLane l y) :=
  keeps_setLane (fun _ => ringHolds_of_part ring) part

/-- A lane's queue replaced by one with the same slots. -/
theorem keeps_setLane_queue {s : State} {l : Lane} {y : LaneState}
    (slots : y.queue.map (·.slot) = (s.lane l).queue.map (·.slot))
    (ring : ({ s.lane l with queue := y.queue } : LaneState).ringPart = y.ringPart)
    (part : y.labelPart = (s.lane l).labelPart) : s.keeps (s.setLane l y) :=
  keeps_setLane_same (ring.symm.trans (ringPart_of_slots slots)) part

theorem keeps_foldl {α : Type} {f : State → α → State} (h : ∀ (s : State) x, s.keeps (f s x)) (xs : List α) (s : State) :
    s.keeps (xs.foldl f s) := by
  induction xs generalizing s with
  | nil => exact keeps_refl s
  | cons x xs ih => exact keeps_trans (h s x) (ih _)

theorem keeps_forLanes {f : State → Lane → State} (h : ∀ (s : State) l, s.keeps (f s l)) (s : State) :
    s.keeps (s.forLanes f) :=
  keeps_foldl h _ s

/-! ## What touches neither -/

theorem keeps_reportOnly {s t : State} (h : s.reportOnly t) : s.keeps t :=
  keeps_of_lanesKept (reportOnly_lanesKept h)

theorem giveAt_keeps (s : State) (p : WebPos) (b : EventBody) : s.keeps (s.giveAt p b) :=
  keeps_reportOnly (giveAt_reportOnly s p b)

theorem give_keeps (s : State) (b : EventBody) : s.keeps (s.give b) := giveAt_keeps s _ b

theorem giveRaise_keeps (s : State) (c : SummaryClass) (b : EventBody) : s.keeps (s.giveRaise c b) :=
  keeps_reportOnly (giveRaise_reportOnly s c b)

theorem setEngine_keeps (s : State) (e : EngineState) : s.keeps (s.setEngine e) := keeps_of_lanesKept ⟨rfl, rfl, rfl⟩

theorem setService_keeps (s : State) (l : Lane) (v : Service) : s.keeps (s.setService l v) := keeps_setLane_same rfl rfl

theorem setGate_keeps (s : State) (l : Lane) (g : Gate) : s.keeps (s.setGate l g) := keeps_setLane_same rfl rfl

theorem activate_keeps (s : State) (l : Lane) : s.keeps (s.activate l) := keeps_setLane_same rfl rfl

theorem testStopped_keeps (s : State) : s.keeps s.testStopped :=
  keeps_ite (keeps_trans (setEngine_keeps s _) (give_keeps _ _)) (keeps_refl s)

theorem settleEngine_keeps (s : State) : s.keeps s.settleEngine :=
  keeps_trans (keeps_ite (setEngine_keeps s _) (keeps_refl s)) (testStopped_keeps _)

theorem announceFault_keeps (s : State) (l : Lane) (c : FaultCause) : s.keeps (s.announceFault l c) :=
  giveRaise_keeps _ _ _

theorem discardEarly_keeps (s : State) (l : Lane) : s.keeps (s.discardEarly l) := by
  have filtered : s.keeps { s with early := s.early.filter (fun e => e.lane != l) } := keeps_of_lanesKept ⟨rfl, rfl, rfl⟩
  exact keeps_ite filtered (keeps_trans filtered (give_keeps _ _))

theorem rewind_keeps (s : State) (l : Lane) : s.keeps (s.rewind l) := by
  have rewound : s.keeps (s.setLane l (s.lane l).rewound) := keeps_setLane (fun _ => ringHolds_rewound) rfl
  exact keeps_ite rewound (keeps_trans rewound (give_keeps _ _))

end Sys2Proof.Machine
end

section
/-! The rings and accounts of the lanes under the label and lane blocks (01 to 07): a label listed, delivered, closed on or
abandoned is accounted for once, an order bound or released is counted once, and nothing else touches either. -/

namespace Sys2Proof.Machine

/-! ## Labels taken by the stack assembler (06 R93 to R96) -/

/-- `y` is `x` with labels listed: in the open stack, or in the carry list if none is open. -/
def LaneState.listedFrom (y x : LaneState) (ms : List MissingItem) : Prop :=
  y.openStack = x.openStack.map (fun k => { k with short := k.short.listAll ms }) ∧
  y.carry = (if x.openStack.isNone then x.carry.listAll ms else x.carry) ∧
  y.parked = x.parked ∧ y.written = x.written

theorem listMissing_listedFrom (x : LaneState) (m : MissingItem) : (x.listMissing m).listedFrom x [m] := by
  rw [listMissing_eq]; exact ⟨rfl, rfl, rfl, rfl⟩

theorem shortAtHalt_eq (x : LaneState) : x.shortAtHalt =
    (x.openStack.elim x.carry OpenStack.short).listAll (x.queue.map LabelRecord.abandonedItem) := by
  unfold LaneState.shortAtHalt Shortfall.listAll
  rw [List.foldl_map]
  cases x.openStack <;> rfl

theorem abandoned_listedFrom (x : LaneState) :
    x.abandoned.listedFrom x (x.queue.map LabelRecord.abandonedItem) := by
  rw [abandoned_eq, shortAtHalt_eq]
  cases stack : x.openStack <;> exact ⟨by simp [stack], by simp [stack], rfl, rfl⟩

theorem listedFrom_unsaturated {x y : LaneState} {ms : List MissingItem} (listed : y.listedFrom x ms)
    (h : y.shortsUnsaturated) : x.shortsUnsaturated ∧ y.unclosedLabels = x.unclosedLabels + ms.length := by
  obtain ⟨stack, carry, -, -⟩ := listed
  obtain ⟨stackUnsaturated, carryUnsaturated⟩ := h
  unfold LaneState.shortsUnsaturated LaneState.unclosedLabels
  cases opened : x.openStack with
  | none =>
    rw [opened] at stack carry
    rw [carry] at carryUnsaturated
    obtain ⟨before, total⟩ := listAll_unsaturated ms carryUnsaturated
    exact ⟨⟨nofun, before⟩, by rw [stack, carry]; exact (congrArg (0 + ·) total).trans (Nat.add_assoc _ _ _).symm⟩
  | some k =>
    rw [opened] at stack carry
    rw [carry] at carryUnsaturated
    obtain ⟨before, total⟩ := listAll_unsaturated ms (stackUnsaturated _ stack)
    refine ⟨⟨fun j same => Option.some.inj same ▸ before, carryUnsaturated⟩, ?_⟩
    rw [stack, carry]
    simp only [Option.map_some, Option.elim_some, OpenStack.labels, total, Option.isNone_some, Bool.false_eq_true,
      if_false]
    omega

theorem listedFrom_below {x y : LaneState} {ms : List MissingItem} (listed : y.listedFrom x ms)
    (h : x.unclosedLabels + ms.length ≤ 65535) : y.unclosedLabels = x.unclosedLabels + ms.length := by
  obtain ⟨stack, carry, -, -⟩ := listed
  unfold LaneState.unclosedLabels at *
  cases opened : x.openStack with
  | none =>
    rw [opened] at stack carry h
    rw [stack, carry]
    exact (congrArg (0 + ·) (listAll_below ms (by omega))).trans (Nat.add_assoc _ _ _).symm
  | some k =>
    rw [opened] at stack carry h
    rw [stack, carry]
    simp only [Option.map_some, Option.elim_some, OpenStack.labels, Option.isNone_some, Bool.false_eq_true,
      if_false] at h ⊢
    rw [listAll_below ms (by omega)]
    omega

/-- As many labels are accounted for as were listed, unless a count saturates. -/
theorem carries_listed {s : State} {l : Lane} {y : LaneState} {ms : List MissingItem} {d : Nat}
    (listed : y.listedFrom (s.lane l) ms) (ring : ∀ k, (s.lane l).ringHolds k → y.ringHolds k)
    (departed : y.departed = (s.lane l).departed + d) : s.carries (s.setLane l y) l ms.length d := by
  obtain ⟨stack, -, parked, written⟩ := id listed
  refine carries_setLane ring departed ⟨parked, written⟩ (fun apart r h => ?_) (listedFrom_unsaturated listed)
    (listedFrom_below listed)
  obtain ⟨noStack, own⟩ := apart r (parked ▸ h)
  exact ⟨by rw [stack, noStack]; rfl, own⟩

/-- A label delivered is one more in the stack, which takes the carry list over where it is new (06 R93). -/
theorem deliver_labels (x : LaneState) (t : Tray) (batch target : Half) (serial : Option Serial) :
    (x.deliver t batch target serial).unclosedLabels = x.unclosedLabels + 1 ∧
    ((x.deliver t batch target serial).shortsUnsaturated → x.shortsUnsaturated) := by
  unfold LaneState.deliver LaneState.withOpenStack LaneState.shortsUnsaturated LaneState.unclosedLabels
  cases x.openStack with
  | none =>
    refine ⟨?_, fun ⟨stack, _⟩ => ⟨nofun, stack _ rfl⟩⟩
    simp only [Option.elim_some, Option.elim_none, OpenStack.labels, OpenStack.deliver, Shortfall.total,
      Shortfall.empty, List.length_nil]
    omega
  | some k =>
    refine ⟨?labels, fun ⟨stack, carry⟩ => ⟨fun j same => ?unsaturated, carry⟩⟩
    case labels =>
      simp only [Option.elim_some, OpenStack.labels, OpenStack.deliver]
      omega
    case unsaturated =>
      obtain rfl := Option.some.inj same
      exact stack (k.deliver serial) rfl

theorem deliver_parts (x : LaneState) (t : Tray) (batch target : Half) (serial : Option Serial) :
    (x.deliver t batch target serial).ringPart = x.ringPart ∧
    (x.deliver t batch target serial).parked = x.parked ∧
    (x.deliver t batch target serial).written = x.written ∧
    (x.deliver t batch target serial).departed = x.departed := by
  unfold LaneState.deliver LaneState.withOpenStack
  cases x.openStack <;> exact ⟨rfl, rfl, rfl, rfl⟩

theorem carries_deliver {s : State} {l : Lane} (t : Tray) (batch target : Half) (serial : Option Serial)
    (free : (s.lane l).parked = none) :
    s.carries (s.setLane l ((s.lane l).deliver t batch target serial)) l 1 0 := by
  obtain ⟨ring, parked, written, departed⟩ := deliver_parts (s.lane l) t batch target serial
  obtain ⟨labels, unsaturated⟩ := deliver_labels (s.lane l) t batch target serial
  refine carries_setLane (fun _ => ringHolds_of_part ring) departed ⟨parked, written⟩ (fun _ r h => ?_)
    (fun h => ⟨unsaturated h, labels⟩) (fun _ => labels)
  rw [parked, free] at h
  cases h

/-! ## Closes (06 R98, R102) -/

theorem closeStack_closes {s : State} {l : Lane} {w : CloseReason} {p : StackRecord}
    (h : (s.lane l).closedRecord l w = some p) : s.closeStack l w = (s.setLane l (s.lane l).closed).closeWith p := by
  cases stack : (s.lane l).openStack with
  | some k =>
    obtain rfl : k.record l w = p := by
      simp only [LaneState.closedRecord, stack] at h
      exact Option.some.inj h
    simp only [State.closeStack, stack, closed_open stack]
  | none =>
    have built : ¬ ((s.lane l).carry.isEmpty = true ∨ (s.lane l).parked ≠ none) := fun nothing =>
      Option.some_ne_none p (h.symm.trans (closedRecord_none.mpr ⟨stack, nothing⟩))
    obtain ⟨listed, free⟩ := not_or.mp built
    rw [closedRecord_carry stack (Bool.eq_false_iff.mpr listed) (not_not.mp free)] at h
    obtain rfl := Option.some.inj h
    simp [State.closeStack, stack, listed, not_not.mp free, closed_carry stack]

/-- A close moves the labels of the open stack, or of the carry list, into its record (06 R98, R100). -/
theorem closedRecord_labels {x : LaneState} {l : Lane} {w : CloseReason} {p : StackRecord}
    (h : x.closedRecord l w = some p) : p.lane = l ∧ p.labels + x.closed.unclosedLabels = x.unclosedLabels ∧
    (p.short.unsaturated → x.closed.shortsUnsaturated → x.shortsUnsaturated) ∧
    (x.parkedApart l → x.parked = none) := by
  cases stack : x.openStack with
  | some k =>
    simp only [LaneState.closedRecord, stack, Option.some.injEq] at h
    subst h
    refine ⟨rfl, ?_, fun short ⟨_, carry⟩ => ⟨fun j same => ?_, ?_⟩, fun apart => ?_⟩
    · simp only [LaneState.unclosedLabels, closed_open stack, LaneState.afterStackClose, stack, Option.elim_some,
        Option.elim_none, StackRecord.labels, OpenStack.labels]
      omega
    · rw [stack] at same; exact Option.some.inj same ▸ short
    · rw [closed_open stack] at carry; exact carry
    · cases slot : x.parked with
      | none => rfl
      | some r => cases stack.symm.trans (apart r slot).1
  | none =>
    have built : ¬ (x.carry.isEmpty = true ∨ x.parked ≠ none) := fun nothing =>
      Option.some_ne_none p (h.symm.trans (closedRecord_none.mpr ⟨stack, nothing⟩))
    obtain ⟨listed, free⟩ := not_or.mp built
    rw [closedRecord_carry stack (Bool.eq_false_iff.mpr listed) (not_not.mp free)] at h
    obtain rfl := Option.some.inj h
    refine ⟨rfl, ?_, fun short _ => ⟨fun j same => ?_, short⟩, fun _ => not_not.mp free⟩
    · simp only [LaneState.unclosedLabels, closed_carry stack, LaneState.afterCarryClose, stack, Option.elim_none,
        StackRecord.labels, Shortfall.record, Shortfall.total, Shortfall.empty, List.length_nil]
      omega
    · rw [stack] at same; cases same

theorem closed_parts (x : LaneState) : x.closed.ringPart = x.ringPart ∧ x.closed.departed = x.departed ∧
    x.closed.written = x.written := by
  unfold LaneState.closed
  split <;> exact ⟨rfl, rfl, rfl⟩

theorem heldOf_append {s t : State} {l : Lane} {rs : List StackRecord}
    (h : t.writer.holding = s.writer.holding ++ rs) : t.heldOf l = s.heldOf l ++ rs.filter (fun r => r.lane == l) := by
  unfold State.heldOf; rw [h, List.filter_append]

/-- A close that builds a record carries its lane on: the record holds what left the open stack or the carry list. -/
theorem closeStack_carries {s : State} {l : Lane} {w : CloseReason} {p : StackRecord}
    (h : (s.lane l).closedRecord l w = some p) : s.carries (s.closeStack l w) l 0 0 := by
  obtain ⟨own, labels, shorts, free⟩ := closedRecord_labels h
  obtain ⟨ring, departed, written⟩ := closed_parts (s.lane l)
  obtain ⟨noStack, parked, -⟩ := closed_stack (s.lane l)
  obtain ⟨lane, holding, -⟩ := closeWith_placed s l (s.lane l).closed p own
  have regions : (s.closeStack l w).regions = s.regions := by rw [closeStack_labelWork s l w]; rfl
  rw [← closeStack_closes h] at lane holding
  have held := heldOf_append (l := l) holding
  by_cases room : s.writer.holding.length < 4
  · rw [if_pos room] at lane held
    rw [List.filter_cons_of_pos (by simp [own]), List.filter_nil] at held
    refine carries_of_account regions (by rw [lane, ring]) (by rw [lane, departed])
      fun apart => ⟨?_, ?_, fun unsaturated => ?_⟩
    · rw [lane]; intro r hr; rw [parked, free apart] at hr; cases hr
    · rw [accountedFor_eq, accountedFor_eq, lane, held, written, parked, ← labels, List.map_append, List.sum_append,
        List.map_singleton, List.sum_singleton]
      omega
    · rw [unsaturated_iff, lane, held, parked] at unsaturated
      obtain ⟨inList, inSlot, unclosed⟩ := unsaturated
      exact (unsaturated_iff s l).mpr ⟨fun r hr => inList r (List.mem_append_left _ hr), inSlot,
        shorts (inList p (List.mem_append_right _ (List.mem_singleton.mpr rfl))) unclosed⟩
  · rw [if_neg room] at lane held
    rw [List.filter_nil, List.append_nil] at held
    refine carries_of_account regions (by rw [lane]; exact ring) (by rw [lane]; exact departed)
      fun apart => ⟨?_, ?_, fun unsaturated => ?_⟩
    · rw [lane]; intro r hr; exact ⟨noStack, Option.some.inj hr ▸ own⟩
    · have unclosed : ({ (s.lane l).closed with parked := some p } : LaneState).unclosedLabels =
        (s.lane l).closed.unclosedLabels := rfl
      rw [accountedFor_eq, accountedFor_eq, lane, held, unclosed, free apart, ← labels]
      simp only [written, Option.elim_some, Option.elim_none]
      omega
    · rw [unsaturated_iff, lane, held] at unsaturated
      obtain ⟨inList, inSlot, unclosed⟩ := unsaturated
      exact (unsaturated_iff s l).mpr ⟨inList, by rw [free apart]; exact nofun, shorts (inSlot p rfl) unclosed⟩

theorem closeStack_keeps (s : State) (l : Lane) (w : CloseReason) : s.keeps (s.closeStack l w) := by
  cases h : (s.lane l).closedRecord l w with
  | none => rw [closeStack_nothing h]; exact keeps_refl s
  | some p =>
    intro m
    refine ⟨0, ?_⟩
    by_cases other : m = l
    · subst other; exact closeStack_carries h
    · have lane := closeStack_lanesBut s l w m other
      have regions : (s.closeStack l w).regions = s.regions := by rw [closeStack_labelWork s l w]; rfl
      refine carries_of_parts (fun holds => ?_) (by rw [lane]) ?_
      · unfold State.ringHoldsAt; rw [lane, regions]; exact holds
      · obtain ⟨own, -⟩ := closedRecord_labels h
        obtain ⟨-, holding, -⟩ := closeWith_placed s l (s.lane l).closed p own
        rw [closeStack_closes h, heldOf_append holding]
        split
        · rw [List.filter_cons_of_neg (by simpa [own] using Ne.symm other), List.filter_nil, List.append_nil]
        · exact List.append_nil _

/-! ## Faults, run-out and drain completion (07 R116, R120) -/

theorem closeFaulted_keeps (s : State) (l : Lane) (w : CloseReason) : s.keeps (s.closeFaulted l w) :=
  keeps_ite (keeps_trans (closeStack_keeps s l w) (announceFault_keeps _ _ _)) (closeStack_keeps s l w)

theorem runOutComplete_keeps (s : State) (l : Lane) : s.keeps (s.runOutComplete l) :=
  keeps_trans (closeFaulted_keeps s l _) (testStopped_keeps _)

theorem faultedBy_keeps (s : State) (l : Lane) (c : FaultCause) : s.keeps (s.setLane l ((s.lane l).faultedBy c)) :=
  keeps_setLane_queue (map_slot_map (f := (·.flagLaneFault)) (fun _ => rfl) _) rfl rfl

theorem faultedAt_keeps (s : State) (l : Lane) (c : FaultCause) : s.keeps (s.faultedAt l c) :=
  keeps_trans (keeps_trans (keeps_trans (faultedBy_keeps s l c) (announceFault_keeps _ _ _)) (rewind_keeps _ _))
    (discardEarly_keeps _ _)

theorem laneFault_keeps (s : State) (l : Lane) (c : FaultCause) : s.keeps (s.laneFault l c) := by
  have faulted := faultedAt_keeps s l c
  have settled := keeps_trans (keeps_ite (c := ((s.faultedAt l c).lane l).queue.isEmpty = true)
    (keeps_trans faulted (runOutComplete_keeps _ l)) faulted) (settleEngine_keeps _)
  unfold State.laneFault
  split
  · exact keeps_refl s
  · exact announceFault_keeps s l c
  all_goals exact settled

theorem closeAndFault_keeps (s : State) (l : Lane) (w : CloseReason) : s.keeps (s.closeAndFault l w) :=
  keeps_ite (keeps_trans (closeStack_keeps s l w) (laneFault_keeps _ _ _)) (closeStack_keeps s l w)

theorem drainComplete_keeps (s : State) (l : Lane) : s.keeps (s.drainComplete l) :=
  keeps_trans (keeps_trans (keeps_trans (keeps_trans (setService_keeps s _ _) (discardEarly_keeps _ _))
    (rewind_keeps _ _)) (closeAndFault_keeps _ _ _)) (testStopped_keeps _)

/-! ## Halts (07 R118) -/

theorem abandoned_keeps (s : State) (l : Lane) : s.keeps (s.setLane l (s.lane l).abandoned) := fun m => by
  by_cases other : m = l
  · subst other
    have queued : ((s.lane m).queue.map LabelRecord.abandonedItem).length = (s.lane m).queue.length :=
      List.length_map _
    refine ⟨_, queued ▸ carries_listed (abandoned_listedFrom _) (fun k holds => ?_) ?_⟩
    · rw [abandoned_eq]
      exact ringHolds_release holds ⟨rfl, rfl, rfl⟩ ⟨Nat.zero_add _, rfl⟩
    · rw [abandoned_eq]
  · exact ⟨0, carries_setLane_other _ other⟩

theorem abandonQueue_keeps (s : State) (l : Lane) : s.keeps (s.abandonQueue l) :=
  keeps_ite (abandoned_keeps s l) (keeps_trans (abandoned_keeps s l) (give_keeps _ _))

theorem haltLane_keeps (s : State) (l : Lane) : s.keeps (s.haltLane l) := by
  have outputs := keeps_trans (keeps_trans (abandonQueue_keeps s l) (closeStack_keeps _ l .halt))
    (keeps_setLane_same (l := l) (y := (((s.abandonQueue l).closeStack l .halt).lane l).haltedOutputs) rfl rfl)
  exact keeps_ite outputs (keeps_trans (keeps_trans outputs (rewind_keeps _ _)) (discardEarly_keeps _ _))

theorem raiseHalt_keeps (s : State) (c : HaltCause) : s.keeps (s.raiseHalt c) := by
  cases c <;> exact keeps_of_lanesKept ⟨rfl, rfl, rfl⟩

theorem enterHalted_keeps (s : State) (c : HaltCause) : s.keeps (s.enterHalted c) := by
  have entered : s.keeps { s with engine := { s.engine with state := .halted, cause := some c } } :=
    keeps_of_lanesKept ⟨rfl, rfl, rfl⟩
  exact keeps_trans (keeps_trans (keeps_trans entered (give_keeps _ _)) (raiseHalt_keeps _ c))
    (keeps_forLanes haltLane_keeps _)

theorem takeHalt_keeps (s : State) (c : HaltCause) : s.keeps (s.takeHalt c) :=
  keeps_ite (keeps_refl s) (enterHalted_keeps s c)

/-! ## Label starts (02 R20) -/

theorem binding_orders (x : LaneState) : (x.binding.windowAfter x.window).length +
    (if x.binding.entry.isSome then 1 else 0) = x.window.length := by
  unfold Binding.windowAfter
  split
  · next bound =>
    cases window : x.window with
    | nil => unfold LaneState.binding at bound; rw [window] at bound; split at bound <;> cases bound
    | cons e rest => rfl
  · rfl

theorem createRecord_keeps (s : State) (l : Lane) (t : LabelStart) : s.keeps (s.createRecord l t).1 := by
  obtain ⟨-, lane, others, -, holding, -⟩ := createRecord_spec s l t
  have slot : (s.createRecord l t).2.slot = (s.lane l).binding.entry.map (·.index) := by rw [createRecord_held]; rfl
  have regions : (s.createRecord l t).1.regions = s.regions := by rw [createRecord_labelWork s l t]; rfl
  refine keeps_of_lane others regions holding (fun k holds => ?_) (by rw [lane]; rfl)
  rw [lane]
  refine ringHolds_bind holds ⟨rfl, rfl, rfl⟩ ?_
  have orders := binding_orders (s.lane l)
  simp only [LaneState.orderedCount, LaneState.windowDepth, List.countP_append, List.countP_singleton,
    LabelRecord.holdsOrder, slot, Option.isSome_map]
  omega

theorem startLabel_keeps (s : State) (l : Lane) (t : LabelStart) (n : Nat) : s.keeps (s.startLabel l t n) :=
  keeps_trans (createRecord_keeps s l t) (keeps_setLane_same rfl rfl)

theorem markPulse_keeps (s : State) (l : Lane) : s.keeps (s.markPulse l) := by
  refine keeps_ite (keeps_refl s) (keeps_ite (give_keeps s _) ?_)
  unfold State.measureMark
  split
  · exact startLabel_keeps s l _ 0
  · exact keeps_ite (give_keeps s _)
      (keeps_ite (keeps_trans (startLabel_keeps s l _ 0) (giveAt_keeps _ _ _)) (startLabel_keeps s l _ 0))

theorem takeExpiry_keeps (s : State) (l : Lane) : s.keeps (s.takeExpiry l) := by
  have dropped : s.keeps (s.dropExpiry l) := keeps_setLane_same rfl rfl
  unfold State.takeExpiry
  refine keeps_ite (keeps_refl s) (keeps_ite dropped ?_)
  split
  · exact dropped
  · next k _ =>
    have started := fun b => keeps_trans (startLabel_keeps s l k.syntheticStart ((s.lane l).tracker.synthetic + 1))
      (giveAt_keeps _ k.pred b)
    exact keeps_ite (keeps_trans (started _) (laneFault_keeps _ _ _)) (started _)

/-! ## The gate event (02 R32) -/

/-- `t` keeps rings and accounts but for one label of lane `l` more that is accounted for. -/
def State.takesOne (s t : State) (l : Lane) : Prop :=
  (∃ n, s.carries t l (n + 1) n) ∧ ∀ m, m ≠ l → ∃ n, s.carries t m n n

theorem keeps_takesOne {s t u : State} {l : Lane} (h : s.keeps t) (k : t.takesOne u l) : s.takesOne u l := by
  obtain ⟨⟨n, one⟩, others⟩ := k
  refine ⟨?_, fun m other => ?_⟩
  · obtain ⟨k, kept⟩ := h l
    exact ⟨k + n, show s.carries u l (k + (n + 1)) (k + n) from carries_trans kept one⟩
  · obtain ⟨n, taken⟩ := others m other
    obtain ⟨k, kept⟩ := h m
    exact ⟨k + n, carries_trans kept taken⟩

theorem takesOne_keeps {s t u : State} {l : Lane} (h : s.takesOne t l) (k : t.keeps u) : s.takesOne u l := by
  obtain ⟨⟨n, one⟩, others⟩ := h
  refine ⟨?_, fun m other => ?_⟩
  · obtain ⟨k, kept⟩ := k l
    exact ⟨n + k, Nat.add_right_comm n k 1 ▸ carries_trans one kept⟩
  · obtain ⟨n, taken⟩ := others m other
    obtain ⟨k, kept⟩ := k m
    exact ⟨n + k, carries_trans taken kept⟩

theorem listMissing_takesOne (s : State) (l : Lane) (m : MissingItem) : s.takesOne (s.listMissing l m) l := by
  refine ⟨⟨0, carries_listed (listMissing_listedFrom _ m) (fun k holds => ?_) ?_⟩,
    fun k other => ⟨0, carries_setLane_other _ other⟩⟩ <;> rw [listMissing_eq]
  · exact ringHolds_of_part rfl holds
  · rfl

theorem spill_takesOne (s : State) (l : Lane) (m : MissingItem) : s.takesOne (s.spill l m) l :=
  takesOne_keeps (listMissing_takesOne s l _) (give_keeps _ _)

theorem takeStackLabel_takesOne {s : State} {l : Lane} (r : LabelRecord) (free : (s.lane l).parked = none) :
    s.takesOne (s.takeStackLabel l r) l := by
  have spills := takesOne_keeps (spill_takesOne s l (r.item .spill)) (setGate_keeps _ l .reject)
  unfold State.takeStackLabel
  split
  · next t _ =>
    split
    · exact takesOne_keeps (keeps_takesOne (closeAndFault_keeps s l _) (spill_takesOne _ l _)) (setGate_keeps _ l _)
    · exact takesOne_keeps ⟨⟨0, carries_deliver t _ _ _ free⟩, fun m other => ⟨0, carries_setLane_other _ other⟩⟩
        (setGate_keeps _ l _)
  · exact spills
  · exact spills

/-- A label taken is accounted for once, if no record of its lane is parked where it is delivered. -/
theorem takeItem_takesOne {s : State} {l : Lane} {r : LabelRecord}
    (free : r.fate = .stack → (s.lane l).parked = none) : s.takesOne (s.takeItem l r) l := by
  unfold State.takeItem
  split
  · next fate => exact takeStackLabel_takesOne r (free fate)
  · exact takesOne_keeps (listMissing_takesOne s l _) (setGate_keeps _ l _)
  · exact takesOne_keeps (listMissing_takesOne s l _) (setGate_keeps _ l _)

theorem withoutHead_carries {s : State} {l : Lane} {r : LabelRecord} {rest : List LabelRecord}
    (head : (s.lane l).queue = r :: rest) : s.carries (s.setLane l ((s.lane l).withoutHead r)) l 0 1 := by
  rw [withoutHead_cons head]
  refine carries_setLane (fun k holds => ?_) rfl ⟨rfl, rfl⟩ id (fun h => ⟨h, rfl⟩) (fun _ => rfl)
  have ordered : (s.lane l).orderedCount = rest.countP (·.holdsOrder) + if r.slot.isSome then 1 else 0 := by
    rw [LaneState.orderedCount, head, List.countP_cons]; rfl
  cases bound : r.slot.isSome with
  | true => exact ringHolds_release holds (k := 1) ⟨rfl, rfl, rfl⟩ ⟨by rw [ordered, bound]; rfl, rfl⟩
  | false =>
    exact ringHolds_release holds (k := 0) ⟨rfl, rfl, (BitVec.add_zero _).symm⟩ ⟨by rw [ordered, bound]; rfl, rfl⟩

theorem testClose_keeps (s : State) (l : Lane) (r : LabelRecord) : s.keeps (s.testClose l r) :=
  keeps_ite (closeAndFault_keeps s l _) (keeps_ite (closeAndFault_keeps s l _) (keeps_refl s))

theorem afterGate_keeps (s : State) (l : Lane) : s.keeps (s.afterGate l) :=
  keeps_ite (drainComplete_keeps s l) (keeps_ite (runOutComplete_keeps s l) (keeps_refl s))

/-- In a sound lane a STACK label finds the parked slot free: a lane with a record parked is out of service, and there
every queued record carries a fault flag (05 R76, 06 R102). -/
theorem parked_none_of_stack {x : LaneState} {l : Lane} {r : LabelRecord} (sound : x.sound l) (queued : r ∈ x.queue)
    (fate : r.fate = .stack) : x.parked = none := by
  cases slot : x.parked with
  | none => rfl
  | some p =>
    obtain ⟨-, out, -⟩ := sound.parked p slot
    unfold LabelRecord.fate at fate
    rw [if_pos (sound.flagged out r queued)] at fate
    cases fate

theorem takeGate_keeps {s : State} (l : Lane) (sound : (s.lane l).sound l) : s.keeps (s.takeGate l) := by
  cases head : (s.lane l).queue with
  | nil => simp only [State.takeGate, head]; exact keeps_refl s
  | cons r rest =>
    by_cases due : r.due.gate = true
    · rw [takeGate_eq s l r rest head due]
      have free : r.fate = .stack → ((s.setLane l ((s.lane l).withoutHead r)).lane l).parked = none := fun fate => by
        have queued : r ∈ (s.lane l).queue := by rw [head]; exact List.mem_cons_self
        rw [lane_setLane_self, withoutHead_eq]
        show (s.lane l).parked = none
        exact parked_none_of_stack sound queued fate
      obtain ⟨⟨n, one⟩, others⟩ := takesOne_keeps (takesOne_keeps (takeItem_takesOne free) (testClose_keeps _ l r))
        (afterGate_keeps _ l)
      intro m
      by_cases other : m = l
      · subst other
        exact ⟨n + 1, by simpa [Nat.add_comm] using carries_trans (withoutHead_carries head) one⟩
      · obtain ⟨n, taken⟩ := others m other
        exact ⟨n, by simpa using carries_trans (carries_setLane_other _ other) taken⟩
    · simp only [State.takeGate, head, if_neg due]; exact keeps_refl s

end Sys2Proof.Machine
end

section
/-! Every row keeps rings and accounts: the events of the label and lane blocks, and the work of a host cycle. -/

namespace Sys2Proof.Machine

/-! ## The rows of the label and lane blocks -/

theorem forwardTick_keeps (s : State) : s.keeps s.forwardTick := by
  have reached : ∀ (u : State) l, u.keeps (u.reachLane l) := fun u l =>
    keeps_setLane_queue (map_slot_map (f := (·.reach u.web.position)) (fun _ => rfl) _) rfl rfl
  have moved : s.keeps { s with web := { s.web with position := s.web.position + 1 } } :=
    keeps_of_lanesKept ⟨rfl, rfl, rfl⟩
  exact keeps_ite (keeps_trans moved (keeps_forLanes reached _)) (keeps_of_lanesKept ⟨rfl, rfl, rfl⟩)

theorem reverseTick_keeps (s : State) : s.keeps s.reverseTick := by
  have owed : s.keeps { s with web := { s.web with backlog := raiseHolding Config.backlogHold s.web.backlog } } :=
    keeps_of_lanesKept ⟨rfl, rfl, rfl⟩
  exact keeps_ite (keeps_trans owed (keeps_ite (enterHalted_keeps _ _) (keeps_refl _))) owed

theorem encoderTransition_keeps (s : State) (a b : Bool) : s.keeps (s.encoderTransition a b) := by
  have referred : s.keeps { s with web := { s.web with refA := a, refB := b } } :=
    keeps_of_lanesKept ⟨rfl, rfl, rfl⟩
  exact keeps_ite (keeps_refl s) (keeps_ite (keeps_trans referred (forwardTick_keeps _))
    (keeps_ite (keeps_trans referred (reverseTick_keeps _)) (keeps_trans referred (give_keeps _ _))))

theorem spliceRise_keeps (s : State) : s.keeps s.spliceRise := by
  have spliced : ∀ (r : LabelRecord) p, (r.splicedAt p).slot = r.slot := fun r p => by
    unfold LabelRecord.splicedAt; split <;> rfl
  have announced : ∀ (u : State) l, u.keeps (u.announceSplice l) := fun u l =>
    keeps_setLane_queue (map_slot_map (fun r => spliced r u.web.position) _) rfl rfl
  have raised : s.keeps { s with web := { s.web with splice := true } } := keeps_of_lanesKept ⟨rfl, rfl, rfl⟩
  exact keeps_ite (keeps_refl s) (keeps_trans (keeps_trans raised (keeps_forLanes announced _)) (give_keeps _ _))

theorem takeDeadline_keeps (s : State) (l : Lane) : s.keeps (s.takeDeadline l) := by
  have closed : ∀ (r : LabelRecord) p, (r.close p).slot = r.slot := fun r p => by
    unfold LabelRecord.close; dsimp only; split <;> rfl
  have taken : s.keeps (s.setQueue l (updateFirst (·.due.deadline) (·.close s.settings.undecidedPolicy)
      (s.lane l).queue)) := keeps_setLane_queue (map_slot_updateFirst (fun r => closed r _) _) rfl rfl
  unfold State.takeDeadline
  split
  · exact keeps_refl s
  · exact keeps_ite (keeps_trans taken (give_keeps _ _)) taken

theorem takeCut_keeps (s : State) (l : Lane) : s.keeps (s.takeCut l) := by
  have cut : ∀ (r : LabelRecord) p f, (r.atCut p f).slot = r.slot := fun r p f => by
    unfold LabelRecord.atCut; dsimp only; split
    · rfl
    · split <;> rfl
  unfold State.takeCut
  split
  · exact keeps_refl s
  · exact keeps_setLane_queue (map_slot_updateFirst (fun r => cut r _ _) _) rfl rfl

theorem takeConfirmLimit_keeps (s : State) (l : Lane) : s.keeps (s.takeConfirmLimit l) := by
  have limited : s.keeps (s.setQueue l (confirmQueue (s.lane l).queue)) :=
    keeps_setLane_queue (map_slot_confirmQueue _) rfl rfl
  unfold State.takeConfirmLimit
  split
  · exact keeps_refl s
  · have missed := fun n => keeps_trans limited (keeps_setLane_same (l := l)
      (y := { (s.setQueue l (confirmQueue (s.lane l).queue)).lane l with misses := n }) rfl rfl)
    exact keeps_ite (keeps_trans (keeps_ite (keeps_trans (missed _) (laneFault_keeps _ _ _)) (missed _))
      (give_keeps _ _)) limited

theorem kdonePulse_keeps (s : State) (l : Lane) : s.keeps (s.kdonePulse l) :=
  keeps_ite (give_keeps s _) (keeps_setLane_queue
    (map_slot_updateFirst (f := fun r => { r with cutState := .confirmed }) (fun _ => rfl) _) rfl rfl)

theorem trayReadyPulse_keeps (s : State) (l : Lane) : s.keeps (s.trayReadyPulse l) := by
  unfold State.trayReadyPulse
  split
  · exact keeps_setLane_same rfl rfl
  · exact keeps_setLane_same rfl rfl
  · exact give_keeps s _

theorem safeRise_keeps (s : State) : s.keeps s.safeRise := by
  have raised : s.keeps { s with engine := { s.engine with safe := true } } := keeps_of_lanesKept ⟨rfl, rfl, rfl⟩
  exact keeps_ite (keeps_refl s) (keeps_trans raised (takeHalt_keeps _ _))

theorem startFetch_keeps (s : State) (l : Lane) : s.keeps (s.startFetch l) := by
  by_cases can : (s.lane l).canFetch = true
  · rw [startFetch_begins can]
    exact keeps_setLane (fun k holds => ringHolds_startFetch holds _ can) rfl
  · rw [startFetch_waits can]; exact keeps_refl s

/-- A row that is neither a host cycle, a grant nor of the power and reset family is one block's act, which keeps rings
and accounts where the lanes are sound. -/
theorem blockRow_keeps (c : Instr) (s : State) (sound : ∀ l, (s.lane l).sound l) (notHost : hostCycleRow c = false)
    (notGrant : grantRow c = false) (notReset : resetRow c = false) :
    ∃ f : State → State, exec c s = .next (s.act f) ∧ s.keeps (f s) := by
  cases c with
  | encoderTransition a b => exact ⟨_, rfl, encoderTransition_keeps s a b⟩
  | spliceStart => exact ⟨_, rfl, spliceRise_keeps s⟩
  | spliceFall => exact ⟨_, rfl, keeps_of_lanesKept ⟨rfl, rfl, rfl⟩⟩
  | markEvent l => exact ⟨_, rfl, markPulse_keeps s l⟩
  | markWindowExpiry l => exact ⟨_, rfl, takeExpiry_keeps s l⟩
  | deadlineEvent l => exact ⟨_, rfl, takeDeadline_keeps s l⟩
  | cutEvent l => exact ⟨_, rfl, takeCut_keeps s l⟩
  | confirmLimitEvent l => exact ⟨_, rfl, takeConfirmLimit_keeps s l⟩
  | knifePulseEnd l => exact ⟨_, rfl, keeps_setLane_same rfl rfl⟩
  | kdone l => exact ⟨_, rfl, kdonePulse_keeps s l⟩
  | gateEvent l => exact ⟨_, rfl, takeGate_keeps l (sound l)⟩
  | trayReady l => exact ⟨_, rfl, trayReadyPulse_keeps s l⟩
  | trayPulseEnd l => exact ⟨_, rfl, keeps_setLane_same rfl rfl⟩
  | safeRise => exact ⟨_, rfl, safeRise_keeps s⟩
  | safeFall => exact ⟨_, rfl, keeps_of_lanesKept ⟨rfl, rfl, rfl⟩⟩
  | fetchStart l => exact ⟨_, rfl, startFetch_keeps s l⟩
  | powerOn _ => cases notReset
  | startUpImageComplete _ => cases notReset
  | lineReset _ _ => cases notReset
  | verifyWord => cases notGrant
  | clearWord => cases notGrant
  | scrub => cases notGrant
  | fetchRead => cases notGrant
  | stackRecordWord => cases notGrant
  | stackPublicationComplete => cases notGrant
  | eventRecordWord => cases notGrant
  | eventPublicationComplete => cases notGrant
  | statusPublication => cases notGrant
  | _ => cases notHost

/-! ## Engine commands (07) -/

theorem commandRun_keeps (s : State) (mask : Byte) : s.keeps (s.commandRun mask).1 := by
  have started := fun ls : List Lane => keeps_trans (setEngine_keeps s .running) (keeps_foldl activate_keeps ls _)
  simp only [State.commandRun]
  split
  · exact keeps_refl s
  · split
    · exact keeps_refl s
    · split
      · exact keeps_refl s
      · exact started _

theorem drainLane_keeps (s : State) (l : Lane) : s.keeps (s.drainLane l) := by
  have draining := setService_keeps s l .draining
  exact keeps_ite (keeps_trans draining (drainComplete_keeps _ _)) draining

theorem commandDrain_keeps (s : State) (mask : Byte) : s.keeps (s.commandDrain mask).1 := by
  simp only [State.commandDrain]
  split
  · exact keeps_refl s
  · split
    · exact keeps_refl s
    · exact keeps_trans (keeps_foldl drainLane_keeps _ s) (settleEngine_keeps _)

theorem commandClearHalt_keeps (s : State) : s.keeps s.commandClearHalt.1 := by
  simp only [State.commandClearHalt]
  split
  · exact keeps_refl s
  · split
    · exact keeps_refl s
    · exact setEngine_keeps s _

theorem commandCloseStack_keeps (s : State) (l : Lane) : s.keeps (s.commandCloseStack l).1 :=
  keeps_ite (closeAndFault_keeps s l _) (keeps_refl s)

theorem commandClearLane_keeps (s : State) (l : Lane) : s.keeps (s.commandClearLane l).1 := by
  simp only [State.commandClearLane]
  split
  · exact keeps_refl s
  · exact keeps_ite (activate_keeps s l) (keeps_trans (setService_keeps s l _) (testStopped_keeps _))

theorem commandBypass_keeps (s : State) (l : Lane) : s.keeps (s.commandBypass l).1 := by
  simp only [State.commandBypass]
  split
  · exact keeps_trans (setService_keeps s l _) (setGate_keeps _ l _)
  · exact keeps_refl s

theorem commandUnbypass_keeps (s : State) (l : Lane) : s.keeps (s.commandUnbypass l).1 := by
  simp only [State.commandUnbypass]
  split
  · exact setService_keeps s l _
  · exact keeps_refl s

/-- A command carried out where its operand is valid. -/
theorem keeps_ite_fst {s : State} {c : Prop} [Decidable c] {p q : State × Reply} (h : s.keeps p.1) (k : s.keeps q.1) :
    s.keeps (if c then p else q).1 := by
  split
  · exact h
  · exact k

theorem engineAction_keeps (s : State) (code operand : Byte) : s.keeps (s.engineAction code operand).1 := by
  simp only [State.engineAction]
  split
  · exact keeps_ite_fst (commandRun_keeps s _) (keeps_refl s)
  · exact keeps_ite_fst (commandDrain_keeps s _) (keeps_refl s)
  · exact takeHalt_keeps s .command
  · exact commandClearHalt_keeps s
  · exact keeps_ite_fst (commandCloseStack_keeps s _) (keeps_refl s)
  · exact keeps_ite_fst (commandClearLane_keeps s _) (keeps_refl s)
  · exact keeps_ite_fst (commandBypass_keeps s _) (keeps_refl s)
  · exact keeps_ite_fst (commandUnbypass_keeps s _) (keeps_refl s)
  · exact keeps_refl s

theorem recordReply_keeps (s : State) (code : Byte) (r : Reply) : s.keeps (s.recordReply code r) :=
  keeps_of_lanesKept ⟨rfl, rfl, rfl⟩

theorem engineCommand_keeps (s : State) (d : Word) : s.keeps (s.engineCommand d) := by
  have acted := engineAction_keeps s (cellCode d) (cellOperand d)
  exact keeps_ite (keeps_trans (keeps_trans acted (keeps_ite (keeps_refl _) (give_keeps _ _))) (recordReply_keeps _ _ _))
    (keeps_trans (give_keeps s _) (recordReply_keeps _ _ _))

/-! ## Control words (03, 08, 09, 11) -/

theorem storeControl_keeps {s t : State} (h : s.keeps t) (off : Nat) (d : Word) : s.keeps (t.storeControl off d) :=
  keeps_trans h (keeps_of_lanesKept ⟨rfl, rfl, rfl⟩)

theorem endHost_keeps {s t : State} (h : s.keeps t) (ok : Bool) (data : Option Word) : s.keeps (t.endHost ok data) :=
  keeps_trans h (keeps_of_lanesKept ⟨rfl, rfl, rfl⟩)

theorem refuseSetting_keeps (s : State) (off : Nat) (d : Word) : s.keeps (s.refuseSetting off d) := giveRaise_keeps s _ _

theorem refuseProtected_keeps (s : State) (b : EventBody) : s.keeps (s.refuseProtected b) :=
  endHost_keeps (giveRaise_keeps s _ b) _ _

theorem writeSetting_keeps (s : State) (x : Setting) (d : Word) : s.keeps (s.writeSetting x d) := by
  have refused := endHost_keeps (refuseSetting_keeps s (settingOffset x) d) true none
  unfold State.writeSetting
  refine keeps_ite refused ?_
  split
  · exact refused
  · next c w _ =>
    have settled : s.keeps (State.settleScrub { s with settings := c } x) :=
      keeps_ite (keeps_of_lanesKept ⟨rfl, rfl, rfl⟩) (keeps_of_lanesKept ⟨rfl, rfl, rfl⟩)
    exact storeControl_keeps settled _ _

theorem recheckWindow_keeps (s : State) (n : WindowName) : s.keeps (s.recheckWindow n) := by
  have cleared : ∀ w, s.keeps (s.setExemptWindow n w) := fun w => by
    cases n <;> exact keeps_of_lanesKept ⟨rfl, rfl, rfl⟩
  exact keeps_ite (keeps_trans (cleared _) (give_keeps _ _)) (keeps_refl s)

/-- While the map is not locked no order is bound or fetched: what a map write to an order ring rests on. -/
def State.unlockedEmpty (s : State) : Prop :=
  s.regions.locked = false → ∀ l, (s.lane l).orderedCount = 0 ∧ (s.lane l).windowDepth = 0

/-- An order ring mapped anew is empty, with fetch and release at put (03 R45). -/
theorem mapOrderRing_keeps {s : State} (l : Lane) (x : MapEntry)
    (empty : (s.lane l).orderedCount = 0 ∧ (s.lane l).windowDepth = 0) :
    s.keeps (({ s with regions := s.regions.withEntry (.orderRing l) x } : State).resetRing (.orderRing l)) := fun m => by
  refine ⟨0, carries_of_parts (fun holds => ?_) ?_ rfl⟩ <;> by_cases other : m = l
  · subst other
    unfold State.ringHoldsAt State.resetRing
    rw [lane_setLane_self]
    exact ringHolds_empty ⟨rfl, rfl⟩ empty
  · unfold State.ringHoldsAt State.resetRing
    rw [lane_setLane_other _ _ other]
    simp only [setLane_regions, RegionMap.withEntry, PerLane.get_set_other _ _ other]
    exact holds
  · subst other
    unfold State.resetRing
    rw [lane_setLane_self]; rfl
  · unfold State.resetRing
    rw [lane_setLane_other _ _ other]; rfl

theorem writeMap_keeps {s : State} (e : MapEntryName) (d : Word) (empty : s.unlockedEmpty) :
    s.keeps (s.writeMap e d) := by
  unfold State.writeMap
  split
  · exact endHost_keeps (refuseSetting_keeps s _ d) _ _
  · next open' =>
    have unlocked : s.regions.locked = false := by
      rw [Bool.or_eq_true, not_or, Bool.not_eq_true] at open'
      exact open'.1
    have mapped : s.keeps (({ s with regions := s.regions.withEntry e (takenEntry e d) } : State).resetRing e) := by
      cases e with
      | orderRing l => exact mapOrderRing_keeps l _ (empty unlocked l)
      | stackRing => exact fun l => ⟨0, carries_of_parts id rfl rfl⟩
      | eventRing => exact fun l => ⟨0, carries_of_parts id rfl rfl⟩
      | verdictCells => exact fun l => ⟨0, carries_of_parts id rfl rfl⟩
    exact storeControl_keeps (keeps_trans (keeps_trans mapped (recheckWindow_keeps _ _)) (recheckWindow_keeps _ _)) _ _

theorem writeLock_keeps (s : State) (d : Word) : s.keeps (s.writeLock d) := by
  have locked : s.keeps { s with regions := { s.regions with locked := true } } :=
    fun l => ⟨0, carries_of_parts id rfl rfl⟩
  have refused := refuseSetting_keeps s 0x067 d
  exact storeControl_keeps (keeps_ite (keeps_ite (keeps_refl s) (keeps_ite locked refused))
    (keeps_ite (keeps_refl s) refused)) _ _

/-- A put write taken leaves put at or past fetch, with no unreleased slot claimed (03 R43). -/
theorem writePut_keeps (s : State) (l : Lane) (d : Word) : s.keeps (s.writePut l d) := by
  by_cases taken : s.putTaken l (indexField d) = true
  · rw [writePut_taken taken]
    obtain ⟨-, room, withdraws⟩ := (putTaken_iff s l _).mp taken
    refine storeControl_keeps (fun m => ⟨0, ?_⟩) _ _
    by_cases other : m = l
    · subst other
      refine carries_of_parts (fun holds => ?_) (by rw [lane_setLane_self]; rfl) rfl
      obtain ⟨-, -, count⟩ := holds
      unfold State.ringHoldsAt
      rw [lane_setLane_self]
      exact ⟨ring_distance_put withdraws, room, count⟩
    · exact carries_setLane_other _ other
  · rw [writePut_refused taken]; exact refuseProtected_keeps s _

theorem writeStackRead_keeps (s : State) (d : Word) : s.keeps (s.writeStackRead d) :=
  keeps_ite (keeps_of_lanesKept ⟨rfl, rfl, rfl⟩) (refuseProtected_keeps s _)

theorem writeEventRead_keeps (s : State) (d : Word) : s.keeps (s.writeEventRead d) :=
  keeps_ite (keeps_of_lanesKept ⟨rfl, rfl, rfl⟩) (refuseProtected_keeps s _)

theorem writeWindow_keeps (s : State) (n : WindowName) (k : WindowWord) (d : Word) : s.keeps (s.writeWindow n k d) := by
  have evaluated : ∀ w, s.keeps (s.setExemptWindow n w) := fun w => by
    cases n <;> exact keeps_of_lanesKept ⟨rfl, rfl, rfl⟩
  exact storeControl_keeps (keeps_ite (keeps_trans (evaluated _) (refuseSetting_keeps _ _ d)) (evaluated _)) _ _

theorem writeControl_keeps {s : State} (off : Nat) (d : Word) (empty : s.unlockedEmpty) :
    s.keeps (s.writeControl off d) := by
  unfold State.writeControl
  cases controlWord off with
  | partOwned => exact refuseProtected_keeps s _
  | reserved => exact storeControl_keeps (keeps_refl s) _ _
  | engineCell => exact storeControl_keeps (engineCommand_keeps s d) _ _
  | memoryCell => exact keeps_of_lanesKept ⟨rfl, rfl, rfl⟩
  | operandStart => exact keeps_of_lanesKept ⟨rfl, rfl, rfl⟩
  | operandCount => exact keeps_of_lanesKept ⟨rfl, rfl, rfl⟩
  | operandFill => exact keeps_of_lanesKept ⟨rfl, rfl, rfl⟩
  | setting x => exact writeSetting_keeps s x d
  | mapEntry e => exact writeMap_keeps e d empty
  | mapLock => exact writeLock_keeps s d
  | put l => exact writePut_keeps s l d
  | stackRead => exact writeStackRead_keeps s d
  | eventRead => exact writeEventRead_keeps s d
  | acknowledge => exact keeps_of_lanesKept ⟨rfl, rfl, rfl⟩
  | window n k => exact writeWindow_keeps s n k d

/-! ## Host cycles (04, 08) -/

theorem takeVerdict_keeps (s : State) (a : Nat) (d : Word) : s.keeps (s.takeVerdict a d) := by
  have applied : s.keeps (s.applyVerdict d (s.verdictOutcome d)) := by
    cases s.verdictOutcome d with
    | taken =>
      exact keeps_setLane_queue (map_slot_updateFirst (f := (·.merge (verdictCode d) (verdictDefect d))) (fun _ => rfl) _)
        rfl rfl
    | held => exact keeps_of_lanesKept ⟨rfl, rfl, rfl⟩
    | late => exact giveRaise_keeps s _ _
    | full => exact give_keeps s _
    | refused => exact give_keeps s _
  exact keeps_trans applied (keeps_of_lanesKept ⟨rfl, rfl, rfl⟩)

theorem hostRead_keeps (s : State) (a : Nat) : s.keeps (s.hostRead a) := by
  refine endHost_keeps ?_ _ _
  cases s.readOutcome a with
  | clean => exact keeps_refl s
  | blank => exact keeps_refl s
  | corrected b =>
    exact keeps_reportOnly (reportOnly_trans (detectCorrectable_reportOnly s _ a b) (offerScrub_reportOnly _ a))
  | uncorrectable d => exact keeps_reportOnly (consumeUncorrectable_reportOnly s _ a d)

theorem hostWrite_keeps {s : State} (a : Nat) (d : Word) (empty : s.unlockedEmpty) : s.keeps (s.hostWrite a d) := by
  have stored : s.keeps (s.storeWord a d).endOk := keeps_of_lanesKept ⟨rfl, rfl, rfl⟩
  have blocked := fun l => refuseProtected_keeps s { code := .protectionBlock, lane := l, address := some a }
  unfold State.hostWrite
  cases s.addressClass a with
  | plain => exact stored
  | exempt => exact stored
  | orderSlot l slot => exact keeps_ite (blocked _) stored
  | verdict => exact endHost_keeps (takeVerdict_keeps s a d) _ _
  | stackRing => exact blocked _
  | eventRing => exact blocked _
  | control => exact writeControl_keeps _ d empty

theorem checkedMerge_keeps (s : State) (a : Nat) (d : Word) (be : BitVec 4) : s.keeps (s.checkedMerge a d be) := by
  have merged : ∀ x, s.keeps (s.lockPort.storeLocation a x) := fun x => keeps_of_lanesKept ⟨rfl, rfl, rfl⟩
  unfold State.checkedMerge
  cases s.readOutcome a with
  | clean => exact endHost_keeps (merged _) _ _
  | blank => exact endHost_keeps (merged _) _ _
  | corrected b =>
    exact endHost_keeps (keeps_trans (merged _) (keeps_reportOnly (detectCorrectable_reportOnly _ _ a b))) _ _
  | uncorrectable x =>
    exact endHost_keeps (keeps_trans (merged _) (keeps_reportOnly (consumeUncorrectable_reportOnly _ _ a x))) _ _

theorem hostPartialWrite_keeps (s : State) (a : Nat) (d : Word) (be : BitVec 4) :
    s.keeps (s.hostPartialWrite a d be) := by
  have merged := checkedMerge_keeps s a d be
  have refused := fun b => refuseProtected_keeps s b
  unfold State.hostPartialWrite
  cases s.addressClass a with
  | plain => exact merged
  | orderSlot l slot => exact keeps_ite (refused _) merged
  | exempt => exact keeps_of_lanesKept ⟨rfl, rfl, rfl⟩
  | verdict => exact refused _
  | control => exact refused _
  | stackRing => exact refused _
  | eventRing => exact refused _

theorem hostWork_keeps {s : State} (c : HostCycle) (empty : s.unlockedEmpty) : s.keeps (s.hostWork c) := by
  cases c with
  | read a => exact hostRead_keeps s _
  | write a d => exact hostWrite_keeps _ d empty
  | partialWrite a d be => exact keeps_ite (hostPartialWrite_keeps s _ d be) (hostWrite_keeps _ d empty)

end Sys2Proof.Machine
end

section
/-! What a step does before its block's own work: the internal grants, which move the labels of a record from the holding
list to the labels published, and the resets, which leave every lane without labels and orders. -/

namespace Sys2Proof.Machine

/-! ## States made ready for a block's work -/

/-- What the rules of rings and accounts rest on: parked records stand apart, and an unlocked map has no order in use. -/
def State.ready (s : State) : Prop := (∀ l, (s.lane l).parkedApart l) ∧ s.unlockedEmpty

theorem ready_of_sound {s : State} (h : s.sound) : s.ready := by
  refine ⟨fun l r parked => ?_, fun unlocked l => ?_⟩
  · obtain ⟨noStack, -, own⟩ := (h.lanes l).parked r parked
    exact ⟨noStack, own⟩
  · obtain ⟨-, queue, window, reservation, -⟩ := h.unlocked unlocked l
    exact ⟨by rw [LaneState.orderedCount, queue]; rfl, by rw [LaneState.windowDepth, window, reservation]; rfl⟩

/-- `t` makes `s` ready for a block's work: rings hold on, and each lane accounts for the labels it did, or for none of
none. -/
structure State.prepares (s t : State) : Prop where
  ready   : s.ready → t.ready
  ring    : s.ready → ∀ l, s.ringHoldsAt l → t.ringHoldsAt l
  account : s.ready → ∀ l, (t.accountedFor l = s.accountedFor l ∧ (t.lane l).departed = (s.lane l).departed) ∨
              (t.accountedFor l = 0 ∧ (t.lane l).departed = 0)

theorem prepares_trans {s t u : State} (h : s.prepares t) (k : t.prepares u) : s.prepares u where
  ready r := k.ready (h.ready r)
  ring r l holds := k.ring (h.ready r) l (h.ring r l holds)
  account r l := by
    rcases k.account (h.ready r) l with ⟨account, departed⟩ | blank
    · rw [account, departed]; exact h.account r l
    · exact .inr blank

theorem prepares_ite {s t u : State} {c : Prop} [Decidable c] (h : s.prepares t) (k : s.prepares u) :
    s.prepares (if c then t else u) := by
  split
  · exact h
  · exact k

/-- The rings untouched, and the accounts with them. -/
theorem prepares_of_account {s t : State} (regions : t.regions = s.regions)
    (ring : ∀ l, (t.lane l).ringPart = (s.lane l).ringPart)
    (account : s.ready → ∀ l, (t.lane l).parkedApart l ∧ t.accountedFor l = s.accountedFor l ∧
      (t.lane l).departed = (s.lane l).departed) : s.prepares t where
  ready r := by
    obtain ⟨-, empty⟩ := id r
    refine ⟨fun l => (account r l).1, fun unlocked l => ?_⟩
    have same := ring l
    simp only [LaneState.ringPart, RingPart.mk.injEq] at same
    obtain ⟨-, -, -, ordered, depth⟩ := same
    rw [ordered, depth]
    exact empty (regions ▸ unlocked) l
  ring _ l holds := by
    unfold State.ringHoldsAt
    rw [regions]
    exact ringHolds_of_part (ring l) holds
  account r l := .inl (account r l).2

theorem prepares_of_parts {s t : State} (regions : t.regions = s.regions)
    (holding : t.writer.holding = s.writer.holding) (ring : ∀ l, (t.lane l).ringPart = (s.lane l).ringPart)
    (part : ∀ l, (t.lane l).labelPart = (s.lane l).labelPart) : s.prepares t := by
  refine prepares_of_account regions ring fun ⟨apart, _⟩ l => ?_
  obtain ⟨stack, -, parked, departed, -⟩ := labelPart_eq (part l)
  refine ⟨?_, accountedFor_of_parts (part l) (by unfold State.heldOf; rw [holding]), departed⟩
  unfold LaneState.parkedApart
  rw [parked, stack]
  exact apart l

theorem prepares_of_lanesKept {s t : State} (h : s.lanesKept t) : s.prepares t := by
  obtain ⟨lanes, regions, holding⟩ := h
  have lane : ∀ l, t.lane l = s.lane l := fun l => by unfold State.lane; rw [lanes]
  exact prepares_of_parts regions holding (fun l => by rw [lane]) (fun l => by rw [lane])

theorem prepares_refl (s : State) : s.prepares s := prepares_of_lanesKept ⟨rfl, rfl, rfl⟩

theorem commitExcept_lanesKept (pre post : State) (os : List Nat) : post.lanesKept (State.commitExcept pre post os) :=
  ⟨rfl, rfl, rfl⟩

theorem prepares_commitExcept {s t : State} (h : s.prepares t) (pre : State) (os : List Nat) :
    s.prepares (State.commitExcept pre t os) :=
  prepares_trans h (prepares_of_lanesKept (commitExcept_lanesKept pre t os))

/-! ## Fetch grants (03 R47, R48) -/

theorem reportFetch_lanesKept (s : State) (l : Lane) (a : Nat) (o : ReadOutcome) :
    s.lanesKept (s.reportFetch l a o) := by
  cases o with
  | clean => exact ⟨rfl, rfl, rfl⟩
  | blank => exact ⟨rfl, rfl, rfl⟩
  | corrected b =>
    exact reportOnly_lanesKept (reportOnly_trans (detectCorrectable_reportOnly s _ a b) (offerScrub_reportOnly _ a))
  | uncorrectable d => exact reportOnly_lanesKept (offerUncorrectable_reportOnly s _ false a d)

theorem completeFetch_labelPart (x : LaneState) (q : Reservation) (pmin : Half) :
    (x.completeFetch q pmin).labelPart = x.labelPart := by
  unfold LaneState.completeFetch
  split <;> rfl

/-- A word read into a reservation leaves the ring as it was: the reservation stays, or turns into a window entry. -/
theorem completeFetch_prepares {s : State} {l : Lane} {r : Reservation} (reserved : (s.lane l).reservation = some r)
    (q : Reservation) (pmin : Half) : s.prepares (s.setLane l ((s.lane l).completeFetch q pmin)) := by
  refine prepares_of_parts rfl rfl (fun m => ?_) (fun m => ?_) <;> by_cases other : m = l
  · subst other; rw [lane_setLane_self]; exact ringPart_completeFetch reserved q pmin
  · rw [lane_setLane_other _ _ other]
  · subst other; rw [lane_setLane_self]; exact completeFetch_labelPart _ q pmin
  · rw [lane_setLane_other _ _ other]

theorem fetchWork_prepares (s : State) : s.prepares s.fetchWork := by
  unfold State.fetchWork
  split
  · exact prepares_refl s
  · next l _ =>
    split
    · exact prepares_refl s
    · next r reserved =>
      have asked : s.prepares { s with arbiter := { s.arbiter with lastLane := l } } :=
        prepares_of_lanesKept ⟨rfl, rfl, rfl⟩
      obtain ⟨lanes, rest⟩ := reportFetch_lanesKept { s with arbiter := { s.arbiter with lastLane := l } } l
        ((s.regions.orderRing.get l).slotAddress r.index r.words.length)
        (State.readOutcome { s with arbiter := { s.arbiter with lastLane := l } }
          ((s.regions.orderRing.get l).slotAddress r.index r.words.length))
      refine prepares_trans (prepares_trans asked (prepares_of_lanesKept ⟨lanes, rest⟩))
        (completeFetch_prepares (r := r) ?_ _ _)
      unfold State.lane
      rw [lanes]
      exact reserved

theorem serveFetch_prepares (s : State) : s.prepares s.serveFetch :=
  prepares_commitExcept (prepares_trans (s := s) (t := s.grantInternal .fetch) (prepares_of_lanesKept ⟨rfl, rfl, rfl⟩)
    (fetchWork_prepares _)) s []

/-! ## Record grants (06 R103, R106) -/

/-- The head record of the holding list published: its labels move to its lane's labels written. -/
def State.publishHead (s : State) (r : StackRecord) : State :=
  State.setLane { s with writer := { s.writer with stackWords := 0, holding := s.writer.holding.tail } } r.lane
    { s.lane r.lane with written := (s.lane r.lane).written + r.labels }

theorem publishHead_prepares {s : State} {r : StackRecord} {rest : List StackRecord}
    (head : s.writer.holding = r :: rest) : s.prepares (s.publishHead r) := by
  have held : ∀ l, (s.publishHead r).heldOf l = rest.filter (fun p => p.lane == l) := fun l => by
    show List.filter _ s.writer.holding.tail = _
    rw [head, List.tail_cons]
  refine prepares_of_account rfl (fun l => ?_) fun ⟨apart, _⟩ l => ?_ <;> by_cases other : l = r.lane
  · subst other; unfold State.publishHead; rw [lane_setLane_self]; rfl
  · unfold State.publishHead; rw [lane_setLane_other _ _ other]; rfl
  · subst other
    have lane : (s.publishHead r).lane r.lane =
      { s.lane r.lane with written := (s.lane r.lane).written + r.labels } := lane_setLane_self _ _ _
    refine ⟨by rw [lane]; exact apart r.lane, ?_, by rw [lane]⟩
    have before : (s.heldOf r.lane).map StackRecord.labels =
        r.labels :: (rest.filter (fun p => p.lane == r.lane)).map StackRecord.labels := by
      unfold State.heldOf
      rw [head, List.filter_cons_of_pos (by simp), List.map_cons]
    rw [accountedFor_eq, accountedFor_eq, held, before, lane, List.sum_cons]
    simp only [LaneState.unclosedLabels]
    omega
  · have lane : (s.publishHead r).lane l = s.lane l := lane_setLane_other _ _ other
    refine ⟨lane ▸ apart l, ?_, by rw [lane]⟩
    have before : s.heldOf l = rest.filter (fun p => p.lane == l) := by
      unfold State.heldOf
      rw [head, List.filter_cons_of_neg (by simpa using Ne.symm other)]
    rw [accountedFor_eq, accountedFor_eq, held, before, lane]

/-- The parked record of a lane taken into the holding list. -/
def State.takeParked (s : State) (l : Lane) (r : StackRecord) : State :=
  State.setLane { s with writer := { s.writer with holding := s.writer.holding ++ [r] } } l
    { s.lane l with parked := none }

/-- The labels of a parked record move with it, for it is its lane's own. -/
theorem takeParked_prepares {s : State} {l : Lane} {r : StackRecord} (parked : (s.lane l).parked = some r) :
    s.prepares (s.takeParked l r) := by
  have freed : (s.takeParked l r).lane l = { s.lane l with parked := none } := lane_setLane_self _ _ _
  have same : ∀ m, m ≠ l → (s.takeParked l r).lane m = s.lane m := fun m other => lane_setLane_other _ _ other
  have held : ∀ m, (s.takeParked l r).heldOf m = s.heldOf m ++ [r].filter (fun p => p.lane == m) := fun m =>
    heldOf_append rfl
  refine prepares_of_account rfl (fun m => ?_) fun ⟨apart, _⟩ m => ?_ <;> by_cases other : m = l
  · subst other; rw [freed]; rfl
  · rw [same m other]
  · subst other
    obtain ⟨-, own⟩ := apart m r parked
    refine ⟨by rw [freed]; exact nofun, ?_, by rw [freed]⟩
    rw [accountedFor_eq, accountedFor_eq, held, freed, parked, List.filter_cons_of_pos (by simp [own]), List.filter_nil,
      List.map_append, List.sum_append, List.map_singleton, List.sum_singleton]
    simp only [Option.elim_some, Option.elim_none, LaneState.unclosedLabels]
    omega
  · obtain ⟨-, own⟩ := apart l r parked
    refine ⟨same m other ▸ apart m, ?_, by rw [same m other]⟩
    rw [accountedFor_eq, accountedFor_eq, held, same m other,
      List.filter_cons_of_neg (by simpa [own] using Ne.symm other), List.filter_nil, List.append_nil]

theorem unpark_prepares (s : State) : s.prepares s.unpark := by
  unfold State.unpark
  split
  · exact prepares_refl s
  · split
    · exact prepares_refl s
    · next parked => exact takeParked_prepares parked

theorem recordWork_prepares (s : State) (k : RecordKind) : s.prepares (s.recordWork k) := by
  have served : ∀ j, s.prepares (s.servedRecord j) := fun j => prepares_of_lanesKept ⟨rfl, rfl, rfl⟩
  cases k with
  | stack =>
    refine prepares_trans (served .stack) (show State.prepares _ (State.stackWork _) from ?_)
    unfold State.stackWork
    split
    · exact prepares_refl _
    · next r rest head =>
      have stored : ∀ (u : State) a d, u.prepares (u.storeWord a d) := fun u a d =>
        prepares_of_lanesKept ⟨rfl, rfl, rfl⟩
      exact prepares_ite (prepares_of_lanesKept ⟨rfl, rfl, rfl⟩)
        (prepares_trans (prepares_trans (stored _ _ _) (publishHead_prepares (rest := rest) head)) (unpark_prepares _))
  | event =>
    refine prepares_trans (served .event) (show State.prepares _ (State.eventWork _) from ?_)
    unfold State.eventWork
    split
    · exact prepares_refl _
    · exact prepares_ite (prepares_of_lanesKept ⟨rfl, rfl, rfl⟩) (prepares_of_lanesKept ⟨rfl, rfl, rfl⟩)
  | status =>
    refine prepares_trans (served .status) (show State.prepares _ (State.storeStatusWord _) from ?_)
    unfold State.storeStatusWord
    split
    · exact prepares_refl _
    · exact prepares_of_lanesKept ⟨rfl, rfl, rfl⟩

theorem serveRecord_prepares (s : State) (k : RecordKind) : s.prepares (s.serveRecord k) :=
  prepares_commitExcept (prepares_trans (s := s) (t := s.grantInternal .record) (prepares_of_lanesKept ⟨rfl, rfl, rfl⟩)
    (recordWork_prepares _ k)) s indexOffsets

/-! ## Memory command grants (09 R152, 10) -/

theorem scrubAddress_lanesKept (s : State) (a : Nat) : s.lanesKept (s.scrubAddress a) := by
  unfold State.scrubAddress
  dsimp only
  split
  · exact ⟨rfl, rfl, rfl⟩
  · exact ⟨rfl, rfl, rfl⟩
  · exact lanesKept_trans (t := s.storeWord a _) ⟨rfl, rfl, rfl⟩
      (reportOnly_lanesKept (detectCorrectable_reportOnly _ _ a _))
  · exact reportOnly_lanesKept (consumeUncorrectable_reportOnly s _ a _)

theorem scrubWork_lanesKept (s : State) : s.lanesKept s.scrubWork := by
  unfold State.scrubWork
  split
  · exact ⟨rfl, rfl, rfl⟩
  · next a rest _ =>
    dsimp only
    split
    · exact ⟨rfl, rfl, rfl⟩
    · exact lanesKept_trans (t := ({ s with scrubQueue := rest } : State).lockPort) ⟨rfl, rfl, rfl⟩
        (scrubAddress_lanesKept _ a)

theorem verifyAt_lanesKept (s : State) (a : Nat) : s.lanesKept (s.verifyAt a) := by
  have placed : ∀ {u : State}, s.lanesKept u → ∀ m, s.lanesKept (u.setMem m) := fun h _ =>
    lanesKept_trans h ⟨rfl, rfl, rfl⟩
  unfold State.verifyAt
  dsimp only
  split
  · exact ⟨rfl, rfl, rfl⟩
  · split
    · exact ⟨rfl, rfl, rfl⟩
    · exact ⟨rfl, rfl, rfl⟩
    · exact placed (lanesKept_trans (t := s.lockPort.storeWord a _) ⟨rfl, rfl, rfl⟩
        (reportOnly_lanesKept (detectCorrectable_reportOnly _ _ a _))) _
    · exact placed (lanesKept_trans (t := s.lockPort) ⟨rfl, rfl, rfl⟩
        (reportOnly_lanesKept (consumeUncorrectable_reportOnly _ _ a _))) _

theorem walkWork_lanesKept (s : State) : s.lanesKept s.walkWork := by
  unfold State.walkWork
  split
  · exact verifyAt_lanesKept s _
  · split
    · unfold State.clearAt
      split <;> exact ⟨rfl, rfl, rfl⟩
    · exact ⟨rfl, rfl, rfl⟩

theorem memWork_lanesKept (s : State) (k : MemKind) : s.lanesKept (s.memWork k) := by
  cases k with
  | scrub => exact lanesKept_trans (t := s.servedMem .scrub) ⟨rfl, rfl, rfl⟩ (scrubWork_lanesKept _)
  | walk => exact lanesKept_trans (t := s.servedMem .walk) ⟨rfl, rfl, rfl⟩ (walkWork_lanesKept _)

theorem serveMem_prepares (s : State) (k : MemKind) : s.prepares (s.serveMem k) := by
  obtain ⟨publication, last⟩ := statusLast_eq s (State.commit s ((s.grantInternal .memcmd).memWork k))
  have worked := lanesKept_trans (s := s) (t := s.grantInternal .memcmd) ⟨rfl, rfl, rfl⟩ (memWork_lanesKept _ k)
  unfold State.serveMem
  rw [last]
  exact prepares_trans (prepares_commitExcept (prepares_of_lanesKept worked) s [])
    (prepares_of_lanesKept ⟨rfl, rfl, rfl⟩)

/-! ## The grants owed before HOST (08 R138) -/

theorem serve_prepares (s : State) (r : Internal) : s.prepares (s.serve r) := by
  cases r with
  | fetch => exact serveFetch_prepares s
  | record =>
    unfold State.serve
    cases s.nextRecord with
    | none => exact prepares_refl s
    | some k => exact serveRecord_prepares s k
  | memcmd =>
    unfold State.serve
    cases s.nextMem with
    | none => exact prepares_refl s
    | some k => exact serveMem_prepares s k

theorem serveOwed_prepares (n : Nat) (s : State) : s.prepares (State.serveOwed n s) := by
  induction n generalizing s with
  | zero => exact prepares_refl s
  | succ n ih =>
    unfold State.serveOwed
    split
    · exact prepares_refl s
    · exact prepares_trans (serve_prepares s _) (ih _)

theorem beforeHost_prepares (s : State) : s.prepares s.beforeHost := serveOwed_prepares 3 s

/-! ## Resets (11 R177, 08 R142) -/

/-- A lane without labels and orders, its indices at put. -/
structure LaneState.blank (x : LaneState) : Prop where
  labels      : x.labelPart = LaneState.initial.labelPart
  queue       : x.queue = []
  window      : x.window = []
  reservation : x.reservation = none
  fetch       : x.fetch = x.put
  release     : x.release = x.put

/-- A state without labels and orders, as a reset leaves it. -/
def State.blank (s : State) : Prop := s.writer.holding = [] ∧ ∀ l, (s.lane l).blank

theorem blank_orders {x : LaneState} (h : x.blank) : x.orderedCount = 0 ∧ x.windowDepth = 0 := by
  unfold LaneState.orderedCount LaneState.windowDepth
  rw [h.queue, h.window, h.reservation]
  exact ⟨rfl, rfl⟩

theorem prepares_of_blank {t : State} (h : t.blank) (s : State) : s.prepares t := by
  obtain ⟨holding, lanes⟩ := h
  refine ⟨fun _ => ⟨fun l r parked => ?_, fun _ l => blank_orders (lanes l)⟩,
    fun _ l _ => ringHolds_empty ⟨(lanes l).fetch, (lanes l).release⟩ (blank_orders (lanes l)), fun _ l => .inr ?_⟩
  · obtain ⟨-, -, free, -⟩ := labelPart_eq (lanes l).labels
    cases free.symm.trans parked
  · obtain ⟨stack, carry, free, departed, written⟩ := labelPart_eq (lanes l).labels
    refine ⟨?_, departed⟩
    unfold State.accountedFor labelsHeld
    rw [holding, stack, carry, free, written]
    rfl

theorem blank_of_lanesKept {s t : State} (h : s.lanesKept t) (blank : s.blank) : t.blank := by
  obtain ⟨lanes, -, holding⟩ := h
  obtain ⟨none, blank⟩ := blank
  refine ⟨holding.trans none, fun l => ?_⟩
  unfold State.lane
  rw [lanes]
  exact blank l

/-- A halt has nothing to list, close or rewind in a lane without labels and orders. -/
theorem haltedFrom_blank {x y : LaneState} {l : Lane} {parks : Prop} (h : y.haltedFrom x l parks) (blank : x.blank) :
    y.blank ∧ x.haltRecord l = none := by
  obtain ⟨stack, carry, parked, departed, written⟩ := labelPart_eq blank.labels
  have short : x.shortAtHalt = Shortfall.empty := by
    unfold LaneState.shortAtHalt
    rw [blank.queue, stack, carry]
    rfl
  have noRecord : x.haltRecord l = none := by
    unfold LaneState.haltRecord
    rw [stack, short]
    rfl
  obtain ⟨queue, noStack, -, -, -, -, release, put, halted, bypassed, -, -, -, -, left, published, -, listed, -, -,
    free⟩ := h
  obtain ⟨carried, -⟩ := listed stack noRecord
  have released : y.release = y.put := by
    rw [release, put, (blank_orders blank).1, blank.release]
    exact BitVec.add_zero _
  have fetching : y.window = [] ∧ y.reservation = none ∧ y.fetch = y.put := by
    by_cases service : x.service = .bypassed
    · obtain ⟨window, reservation, fetch, -⟩ := bypassed service
      exact ⟨window.trans blank.window, reservation.trans blank.reservation, by rw [fetch, put, blank.fetch]⟩
    · obtain ⟨window, reservation, fetch, -⟩ := halted service
      exact ⟨window, reservation, fetch.trans released⟩
  obtain ⟨window, reservation, fetch⟩ := fetching
  refine ⟨⟨?_, queue, window, reservation, fetch, released⟩, noRecord⟩
  unfold LaneState.labelPart
  rw [noStack, carried, short, free (.inl noRecord), parked, left, departed, blank.queue, published, written]
  rfl

theorem takeHalt_blank {s : State} (c : HaltCause) (blank : s.blank) : (s.takeHalt c).blank := by
  unfold State.takeHalt
  split
  · exact blank
  · obtain ⟨none, lanes⟩ := blank
    obtain ⟨⟨-, -, -, halted, holding, -⟩, -⟩ := enterHalted_spec s c
    have records : s.haltRecords Lane.inOrder = [] :=
      List.filterMap_eq_nil_iff.mpr fun l _ => (haltedFrom_blank (halted l) (lanes l)).2
    rw [none, records] at holding
    exact ⟨holding, fun l => (haltedFrom_blank (halted l) (lanes l)).1⟩

theorem sampleSafe_blank {s : State} (i : InputLines) (blank : s.blank) : (s.sampleSafe i).blank := by
  unfold State.sampleSafe State.safeRise
  split
  · split
    · exact blank
    · exact takeHalt_blank _ (blank_of_lanesKept (s := s) ⟨rfl, rfl, rfl⟩ blank)
  · exact blank

theorem initial_blank : LaneState.initial.blank := ⟨rfl, rfl, rfl, rfl, rfl, rfl⟩

theorem lineReset_blank (x : LaneState) : x.lineReset.blank := ⟨rfl, rfl, rfl, rfl, rfl, rfl⟩

theorem execPowerOn_blank (s : State) (i : InputLines) :
    (State.commit (s.poweredOn i) ((s.poweredOn i).sampleSafe i)).blank := by
  refine blank_of_lanesKept (commitExcept_lanesKept _ _ []) (sampleSafe_blank i ⟨rfl, fun l => ?_⟩)
  cases l <;> exact initial_blank

theorem takeLineReset_blank (s : State) (i : InputLines) (mergeCut : Bool) : (s.takeLineReset i mergeCut).blank := by
  have reset : (s.lineReset i).blank := ⟨rfl, fun l => by cases l <;> exact lineReset_blank _⟩
  have sampled := blank_of_lanesKept (commitExcept_lanesKept (s.lineReset i) _ []) (sampleSafe_blank i reset)
  unfold State.takeLineReset
  dsimp only
  split
  · exact blank_of_lanesKept (t := State.endError _) ⟨rfl, rfl, rfl⟩ sampled
  · exact sampled

theorem takeLineReset_prepares (s : State) (i : InputLines) (mergeCut : Bool) :
    s.prepares (s.takeLineReset i mergeCut) := prepares_of_blank (takeLineReset_blank s i mergeCut) s

theorem imageDone_lanesKept (s : State) : s.lanesKept s.imageDone := by
  unfold State.imageDone State.publishSplice
  split <;> exact ⟨rfl, rfl, rfl⟩

theorem takeWaitingReset_prepares (s : State) (waiting : Bool) (reset : Option InputLines) :
    s.prepares (s.takeWaitingReset waiting reset) := by
  unfold State.takeWaitingReset
  split
  · exact prepares_ite (takeLineReset_prepares s _ _) (prepares_refl s)
  · exact prepares_refl s

end Sys2Proof.Machine
end

section
/-! Every step makes the state ready for its work and then keeps rings and accounts: the obligation on what each step
keeps of them. -/

namespace Sys2Proof.Machine

/-- `t` comes from `s` by what makes it ready, and by work that then keeps rings and accounts. -/
def State.follows (s t : State) : Prop := ∃ u, s.prepares u ∧ (u.ready → u.keeps t)

theorem follows_of_prepares {s t : State} (h : s.prepares t) : s.follows t := ⟨t, h, fun _ => keeps_refl t⟩

theorem prepares_follows {s t u : State} (h : s.prepares t) (k : t.follows u) : s.follows u := by
  obtain ⟨v, prepared, kept⟩ := k
  exact ⟨v, prepares_trans h prepared, kept⟩

/-! ## The rows -/

theorem commit_keeps {s t : State} (h : s.keeps t) (pre : State) : s.keeps (State.commit pre t) :=
  keeps_trans h (keeps_of_lanesKept (commitExcept_lanesKept pre t []))

theorem takeCycle_keeps {s : State} (c : HostCycle) (ready : s.ready) : s.keeps (s.takeCycle c) := by
  have granted : s.keeps s.grantHost := keeps_of_lanesKept ⟨rfl, rfl, rfl⟩
  obtain ⟨-, empty⟩ := ready
  exact commit_keeps (keeps_trans granted (hostWork_keeps c empty)) s

theorem hostCycle_follows (s : State) (c : HostCycle) : s.follows (s.hostCycle c) := by
  unfold State.hostCycle
  split
  · exact ⟨s.beforeHost, beforeHost_prepares s, takeCycle_keeps c⟩
  · exact follows_of_prepares (prepares_ite (prepares_refl s) (prepares_of_lanesKept ⟨rfl, rfl, rfl⟩))

theorem takeHeldCycle_follows (s : State) : s.follows s.takeHeldCycle := by
  unfold State.takeHeldCycle
  split
  · exact prepares_follows (t := { s with hostPort := none }) (prepares_of_lanesKept ⟨rfl, rfl, rfl⟩)
      (hostCycle_follows _ _)
  · exact follows_of_prepares (prepares_refl s)

theorem grantRow_prepares {c : Instr} {s t : State} (row : grantRow c = true) (he : exec c s = .next t) :
    s.prepares t := by
  have record : ∀ (p : Prop) [Decidable p] k, s.prepares (if p then s.serveRecord k else s) := fun p _ k =>
    prepares_ite (serveRecord_prepares s k) (prepares_refl s)
  have mem : ∀ (p : Prop) [Decidable p] k, s.prepares (if p then s.serveMem k else s) := fun p _ k =>
    prepares_ite (serveMem_prepares s k) (prepares_refl s)
  cases c with
  | fetchRead => cases he; exact prepares_ite (serveFetch_prepares s) (prepares_refl s)
  | verifyWord => cases he; exact mem _ _
  | clearWord => cases he; exact mem _ _
  | scrub => cases he; exact mem _ _
  | stackRecordWord => cases he; exact record _ _
  | stackPublicationComplete => cases he; exact record _ _
  | eventRecordWord => cases he; exact record _ _
  | eventPublicationComplete => cases he; exact record _ _
  | statusPublication => cases he; exact record _ _
  | _ => cases row

theorem resetRow_follows {c : Instr} {s t : State} (row : resetRow c = true) (he : exec c s = .next t) :
    s.follows t := by
  cases c with
  | powerOn i => cases he; exact follows_of_prepares (prepares_of_blank (execPowerOn_blank s i) s)
  | lineReset i mergeCut =>
    cases he
    exact follows_of_prepares (prepares_ite (prepares_of_lanesKept ⟨rfl, rfl, rfl⟩) (takeLineReset_prepares s i mergeCut))
  | startUpImageComplete reset =>
    cases he
    split
    · exact prepares_follows (prepares_trans (prepares_of_lanesKept (imageDone_lanesKept s))
        (takeWaitingReset_prepares _ _ reset)) (takeHeldCycle_follows _)
    · exact follows_of_prepares (prepares_refl s)
  | _ => cases row

theorem exec_follows {c : Instr} {s t : State} (sound : ∀ l, (s.lane l).sound l) (he : exec c s = .next t) :
    s.follows t := by
  cases host : hostCycleRow c with
  | true =>
    obtain ⟨cycle, taken⟩ := hostCycleRow_exec c s host
    cases taken.symm.trans he
    exact hostCycle_follows s cycle
  | false =>
    cases grant : grantRow c with
    | true => exact follows_of_prepares (grantRow_prepares grant he)
    | false =>
      cases reset : resetRow c with
      | true => exact resetRow_follows reset he
      | false =>
        obtain ⟨f, acts, kept⟩ := blockRow_keeps c s sound host grant reset
        cases acts.symm.trans he
        exact ⟨s, prepares_refl s, fun _ => commit_keeps kept s⟩

/-- A command leaves the queue before it is carried out, which neither rings nor accounts can tell. -/
theorem step_follows {s t : State} (sound : ∀ l, (s.lane l).sound l) (he : step s = .next t) : s.follows t := by
  unfold step at he
  split at he
  · cases he; exact follows_of_prepares (prepares_refl s)
  · next c rest _ =>
    exact prepares_follows (t := { s with pending := rest }) (prepares_of_lanesKept ⟨rfl, rfl, rfl⟩)
      (exec_follows sound he)

/-! ## What follows from it -/

theorem follows_ringsHold {s t : State} (ready : s.ready) (h : s.follows t) (rings : s.ringsHold) : t.ringsHold := by
  obtain ⟨u, prepared, kept⟩ := h
  intro l
  obtain ⟨n, carried⟩ := kept (prepared.ready ready) l
  exact carried.ring (prepared.ring ready l (rings l))

/-- While no count has saturated, the account stays exact: as many labels were accounted for as departed. -/
theorem follows_exact {s t : State} (ready : s.ready) (h : s.follows t) {l : Lane} (unsaturated : t.unsaturated l)
    (exact : s.accountedFor l = (s.lane l).departed) : t.accountedFor l = (t.lane l).departed := by
  obtain ⟨u, prepared, kept⟩ := h
  have readied := prepared.ready ready
  obtain ⟨n, carried⟩ := kept readied l
  obtain ⟨-, account⟩ := carried.exact (readied.1 l) unsaturated
  rw [account, carried.departed]
  rcases prepared.account ready l with ⟨same, departed⟩ | ⟨zero, departed⟩
  · rw [same, departed, exact]
  · rw [zero, departed]

/-- While no more than 65,535 labels have departed no count can saturate, so the account holds on. -/
theorem follows_accountHolds {s t : State} (ready : s.ready) (h : s.follows t) (account : s.accountHolds) :
    t.accountHolds := by
  obtain ⟨u, prepared, kept⟩ := h
  have readied := prepared.ready ready
  intro l few
  obtain ⟨n, carried⟩ := kept readied l
  have departed := carried.departed
  have exact : u.accountedFor l = (u.lane l).departed := by
    rcases prepared.account ready l with ⟨same, unchanged⟩ | ⟨zero, none⟩
    · rw [same, unchanged]; exact account l (by omega)
    · rw [zero, none]
  rw [carried.first (readied.1 l) (by omega), departed, exact]

end Sys2Proof.Machine

namespace Sys2Proof.Proofs
open Sys2Proof.Machine

/-- Settles O59: a step makes the state ready for its work, by internal grants that move published labels or by a reset
that leaves none, and its work then accounts for each label that departs and counts each order once. -/
theorem stepKeepsRingsAndAccount : Obligations.StepKeepsRingsAndAccount := by
  unfold Obligations.StepKeepsRingsAndAccount
  intro s t taken sound
  have ready := ready_of_sound sound
  have follows := step_follows sound.lanes taken
  exact ⟨follows_ringsHold ready follows, fun l => follows_exact ready follows, follows_accountHolds ready follows⟩

end Sys2Proof.Proofs
end

section
/-! Verdict intake (04): the deadline event that closes a verdict, precedence, what a verdict's outcome is by its lane's
queue, the last bound serial and the early verdict table, and what each outcome changes. -/

namespace Sys2Proof.Machine

/-! ## Deadlines (04 R71) -/

theorem close_decided {r : LabelRecord} (p : UndecidedPolicy) (decided : r.verdict ≠ .none) :
    r.close p = { r with closed := true, due := { r.due with deadline := false } } := if_neg decided

theorem close_undecided {r : LabelRecord} (p : UndecidedPolicy) (undecided : r.verdict = .none) :
    r.close p = { r with
      closed := true, verdict := p.verdict, defect := 0, flags := { r.flags with undecided := true },
      due := { r.due with deadline := false } } := if_pos undecided

theorem undecidedPolicy_verdict (p : UndecidedPolicy) : p.verdict = if p = .pass then Verdict.good else .reject := by
  cases p <;> rfl

/-- The deadline event takes the first record of the queue whose deadline is due. -/
theorem takeDeadline_first {s : State} {l : Lane} {before after : List LabelRecord} {r : LabelRecord}
    (queue : (s.lane l).queue = before ++ r :: after) (waiting : ∀ x ∈ before, x.due.deadline = false)
    (due : r.due.deadline = true) {u : State}
    (closed : u = s.setLane l { s.lane l with queue := before ++ r.close s.settings.undecidedPolicy :: after }) :
    s.takeDeadline l =
      if r.verdict = .none then
        u.give { code := .verdictUndecided, lane := some l, serial := r.serial,
                 value := some (BitVec.ofNat 32 s.settings.undecidedPolicy.verdict.code) }
      else u := by
  have oldest : (s.lane l).queue.find? (·.due.deadline) = some r := queue ▸ find_split waiting due
  have closes : updateFirst (·.due.deadline) (·.close s.settings.undecidedPolicy) (s.lane l).queue =
      before ++ r.close s.settings.undecidedPolicy :: after := queue ▸ updateFirst_split waiting due
  simp only [State.takeDeadline, oldest, closes, State.setQueue, closed]

/-! ## Precedence (04 R64) -/

theorem mergeVerdict_stronger {v w : Verdict} (c d : BitVec 4) (h : v.rank < w.rank) :
    mergeVerdict v c w d = (w, d) := if_pos h

theorem mergeVerdict_weaker {v w : Verdict} (c d : BitVec 4) (h : v.rank < w.rank) :
    mergeVerdict w d v c = (w, d) := by
  rw [mergeVerdict, if_neg (Nat.lt_asymm h), if_neg (Nat.ne_of_gt h)]

theorem mergeVerdict_equal (v : Verdict) (c d : BitVec 4) : mergeVerdict v c v d = (v, d) := by
  rw [mergeVerdict, if_neg (Nat.lt_irrefl _), if_pos rfl]

/-- The order of the verdicts, from NONE to REJECT. -/
theorem rank_lt {v w : Verdict} (h : v = .none ∧ (w = .good ∨ w = .sample ∨ w = .reject) ∨
    v = .good ∧ (w = .sample ∨ w = .reject) ∨ v = .sample ∧ w = .reject) : v.rank < w.rank := by
  rcases h with ⟨rfl, rfl | rfl | rfl⟩ | ⟨rfl, rfl | rfl⟩ | ⟨rfl, rfl⟩ <;> decide

/-! ## Matching (04 R63, R66, R67) -/

theorem verdictCode_of_code {v : Verdict} {d : Word} (h : v.code = (verdictCodeField d).toNat) : verdictCode d = v :=
  Verdict.code_inj _ _ ((verdictCode_toNat d).trans h.symm)

/-- A record takes a verdict for a serial: it matches and is OPEN (04 R63). -/
def LabelRecord.takes (v : Serial20) (r : LabelRecord) : Bool := r.isMatch v && !r.closed

theorem takes_of_open {r : LabelRecord} {n : Serial} {v : Serial20} (serial : r.serial = some n) (low : low20 n = v)
    (isOpen : r.closed = false) : r.takes v = true := by
  rw [LabelRecord.takes, (isMatch_iff r v).mpr ⟨n, serial, low⟩, isOpen]; rfl

theorem takes_eq_false {r : LabelRecord} {v : Serial20}
    (h : ∀ m, r.serial = some m → low20 m = v → r.closed = true) : r.takes v = false := by
  cases same : r.isMatch v with
  | false => rw [LabelRecord.takes, same]; rfl
  | true =>
    obtain ⟨m, serial, low⟩ := (isMatch_iff r v).mp same
    rw [LabelRecord.takes, h m serial low, Bool.not_true, Bool.and_false]

theorem isMatch_eq_false {r : LabelRecord} {v : Serial20} (h : ∀ m, r.serial = some m → low20 m ≠ v) :
    r.isMatch v = false :=
  Bool.eq_false_iff.mpr fun same => by
    obtain ⟨m, serial, low⟩ := (isMatch_iff r v).mp same
    exact h m serial low

theorem isFor_eq_false {e : EarlyEntry} {l : Lane} {v : Serial20} (h : ¬ (e.lane = l ∧ e.serial = v)) :
    e.isFor l v = false := Bool.eq_false_iff.mpr (mt (isFor_iff e l v).mp h)

theorem isEarly_iff (x : LaneState) (v : Serial20) :
    x.isEarly v = true ↔ ∀ n, x.lastBound = some n → isForward v (low20 n) = true := by
  unfold LaneState.isEarly
  cases x.lastBound <;> simp

/-- An element that meets a test stands in the list. -/
theorem any_split {α : Type} {p : α → Bool} {before after : List α} {x : α} (h : p x = true) :
    (before ++ x :: after).any p = true := List.any_eq_true.mpr ⟨x, by simp, h⟩

theorem any_eq_false_of {α : Type} {p : α → Bool} {xs : List α} (h : ∀ x ∈ xs, p x = false) : xs.any p = false :=
  List.any_eq_false.mpr fun x hx => Bool.eq_false_iff.mp (h x hx)

/-! ## The outcome of a verdict (04 R62 to R68) -/

theorem verdictOutcome_refused {s : State} {d : Word}
    (h : verdictCodeField d = 0 ∨ s.inService (verdictLane d) = false) : s.verdictOutcome d = .refused :=
  if_pos (h.imp_left (verdictCode_none d).mpr)

/-- A verdict with a code, for a lane in service, is not refused. -/
def State.admits (s : State) (d : Word) : Prop := s.inService (verdictLane d) = true ∧ verdictCode d ≠ .none

/-- An admitted verdict's outcome, as its lane's queue and the early verdict table give it. -/
theorem verdictOutcome_admitted {s : State} {d : Word} (h : s.admits d) :
    s.verdictOutcome d =
      if (s.lane (verdictLane d)).queue.any (·.takes (verdictSerial d)) then .taken
      else if (s.lane (verdictLane d)).queue.any (·.isMatch (verdictSerial d)) then .late
      else if (s.lane (verdictLane d)).isEarly (verdictSerial d) then
        if s.early.any (·.isFor (verdictLane d) (verdictSerial d)) || s.early.length < Config.earlyPlaces then .held
        else .full
      else .late := by
  obtain ⟨serving, coded⟩ := h
  exact if_neg fun refused => refused.elim coded fun out => Bool.false_ne_true (out.symm.trans serving)

theorem verdictOutcome_taken {s : State} {d : Word} (h : s.admits d)
    (takes : (s.lane (verdictLane d)).queue.any (·.takes (verdictSerial d)) = true) :
    s.verdictOutcome d = .taken := by
  rw [verdictOutcome_admitted h, if_pos takes]

/-- A verdict that no OPEN record matches is LATE by a CLOSED one, or by the lane's last bound serial. -/
theorem verdictOutcome_late {s : State} {d : Word} (h : s.admits d)
    (closed : (s.lane (verdictLane d)).queue.any (·.takes (verdictSerial d)) = false)
    (late : (s.lane (verdictLane d)).queue.any (·.isMatch (verdictSerial d)) = true ∨
      (s.lane (verdictLane d)).isEarly (verdictSerial d) = false) : s.verdictOutcome d = .late := by
  rw [verdictOutcome_admitted h, closed, if_neg Bool.false_ne_true]
  rcases late with same | bound
  · rw [if_pos same]
  · rw [bound, if_neg Bool.false_ne_true, ite_self]

/-- A verdict that no record of its lane matches and whose serial is forward of the last bound one (04 R67). -/
def State.admitsEarly (s : State) (d : Word) : Prop :=
  s.admits d ∧ (∀ x ∈ (s.lane (verdictLane d)).queue, x.isMatch (verdictSerial d) = false) ∧
  (s.lane (verdictLane d)).isEarly (verdictSerial d) = true

theorem verdictOutcome_early {s : State} {d : Word} (h : s.admitsEarly d) :
    s.verdictOutcome d =
      if s.early.any (·.isFor (verdictLane d) (verdictSerial d)) || s.early.length < Config.earlyPlaces then .held
      else .full := by
  obtain ⟨admitted, unmatched, early⟩ := h
  have noneTakes : (s.lane (verdictLane d)).queue.any (·.takes (verdictSerial d)) = false :=
    any_eq_false_of fun x hx => by rw [LabelRecord.takes, unmatched x hx, Bool.false_and]
  rw [verdictOutcome_admitted admitted, noneTakes, any_eq_false_of unmatched, early]
  rfl

theorem verdictOutcome_held {s : State} {d : Word} (h : s.admitsEarly d)
    (room : s.early.any (·.isFor (verdictLane d) (verdictSerial d)) = true ∨ s.early.length < 16) :
    s.verdictOutcome d = .held := by
  have holds : (s.early.any (·.isFor (verdictLane d) (verdictSerial d)) ||
      decide (s.early.length < Config.earlyPlaces)) = true := by
    rw [Bool.or_eq_true, decide_eq_true_iff]; exact room
  rw [verdictOutcome_early h, if_pos holds]

theorem verdictOutcome_full {s : State} {d : Word} (h : s.admitsEarly d)
    (noneFor : s.early.any (·.isFor (verdictLane d) (verdictSerial d)) = false) (full : 16 ≤ s.early.length) :
    s.verdictOutcome d = .full := by
  have noRoom : ¬ s.early.length < Config.earlyPlaces := Nat.not_lt.mpr full
  rw [verdictOutcome_early h, noneFor, Bool.false_or, if_neg (mt of_decide_eq_true noRoom)]

/-! ## What an outcome changes (04 sections 4.1 to 4.3) -/

/-- The events of a verdict carry its lane, serial and code field. -/
theorem verdictEvent_eq (code : EventCode) (d : Word) : verdictEvent code d =
    { code := code, lane := some (verdictLane d), serial := some ((verdictSerial d).setWidth 32),
      value := some ((verdictCodeField d).setWidth 32) } := by
  rw [verdictEvent, verdictCode_field]

theorem applyVerdict_taken {s : State} {d : Word} {before after : List LabelRecord} {r : LabelRecord}
    (queue : (s.lane (verdictLane d)).queue = before ++ r :: after)
    (pass : ∀ x ∈ before, x.takes (verdictSerial d) = false) (takes : r.takes (verdictSerial d) = true) :
    s.applyVerdict d .taken = s.setLane (verdictLane d) { s.lane (verdictLane d) with
      queue := before ++ r.merge (verdictCode d) (verdictDefect d) :: after } := by
  have first : updateFirst (·.takes (verdictSerial d)) (·.merge (verdictCode d) (verdictDefect d))
      (s.lane (verdictLane d)).queue = before ++ r.merge (verdictCode d) (verdictDefect d) :: after :=
    queue ▸ updateFirst_split pass takes
  rw [← first]
  rfl

theorem holdEarly_merges {d : Word} {before after : List EarlyEntry} {e : EarlyEntry}
    (others : ∀ x ∈ before, x.isFor (verdictLane d) (verdictSerial d) = false)
    (entry : e.isFor (verdictLane d) (verdictSerial d) = true) :
    holdEarly (before ++ e :: after) d = before ++ e.merge (verdictCode d) (verdictDefect d) :: after := by
  have listed : (before ++ e :: after).any (·.isFor (verdictLane d) (verdictSerial d)) = true := any_split entry
  rw [holdEarly, if_pos listed, updateFirst_split others entry]

theorem holdEarly_enters {t : List EarlyEntry} {d : Word}
    (noneFor : t.any (·.isFor (verdictLane d) (verdictSerial d)) = false) :
    holdEarly t d = t ++ [{ lane := verdictLane d, serial := verdictSerial d, code := verdictCode d,
                            defect := verdictDefect d }] := by
  rw [holdEarly, noneFor, if_neg Bool.false_ne_true]

end Sys2Proof.Machine

namespace Sys2Proof.Proofs

open Sys2Proof.Machine

/-- Settles O14: the event takes the first due record, whose close is decided by whether it has a verdict. -/
theorem deadlineClosesTheVerdict : Obligations.DeadlineClosesTheVerdict := by
  unfold Obligations.DeadlineClosesTheVerdict
  intro l s before after r queue waiting due
  have first := takeDeadline_first queue waiting due rfl
  refine ⟨fun decided => ?decided, fun v undecided policy => ?undecided⟩
  case decided =>
    rw [if_neg decided, close_decided _ decided] at first
    exact ⟨_, rfl, act_both first rfl rfl⟩
  case undecided =>
    rw [if_pos undecided, close_undecided _ undecided, undecidedPolicy_verdict, ← policy] at first
    exact ⟨_, rfl, act_both first (giveAt_memory _ _ _) (giveAt_powerCycle _ _ _)⟩

/-- Settles O37: the ranks order the verdicts, and the outcome of an admitted verdict is TAKEN as soon as a record takes
it. -/
theorem verdictTakenByPrecedence : Obligations.VerdictTakenByPrecedence := by
  unfold Obligations.VerdictTakenByPrecedence
  refine ⟨fun v w c d => ⟨fun order => ?precedence, mergeVerdict_equal v c d⟩,
    fun a d s before after r n v next cell serving coded code queue closed serial low isOpen => ?taken⟩
  case precedence => exact ⟨mergeVerdict_stronger c d (rank_lt order), mergeVerdict_weaker c d (rank_lt order)⟩
  case taken =>
    obtain rfl := verdictCode_of_code code
    have takes : r.takes (verdictSerial d) = true := takes_of_open serial low isOpen
    have outcome : s.verdictOutcome d = .taken :=
      verdictOutcome_taken ⟨serving, coded⟩ (queue ▸ any_split takes)
    exact verdict_answers a d s next cell .taken _ outcome
      (applyVerdict_taken queue (fun x hx => takes_eq_false (closed x hx)) takes)

/-- Settles O36: the outcome of each verdict (`verdictOutcome_refused`, `_late`, `_held`, `_full`), and what that outcome
changes. -/
theorem verdictNotTakenByARecord : Obligations.VerdictNotTakenByARecord := by
  unfold Obligations.VerdictNotTakenByARecord
  refine ⟨fun a d s next cell => ⟨fun invalid => ?refused, fun serving coded closed late => ?late⟩,
    fun a d s v next cell serving coded code unmatched forward => ?early⟩
  case refused =>
    exact verdict_answers a d s next cell .refused _ (verdictOutcome_refused invalid)
      (congrArg s.give (verdictEvent_eq _ d))
  case late =>
    have outcome : s.verdictOutcome d = .late := by
      refine verdictOutcome_late ⟨serving, mt (verdictCode_none d).mp coded⟩
        (any_eq_false_of fun x hx => takes_eq_false (closed x hx)) (late.imp ?_ ?_)
      · rintro ⟨x, queued, same⟩
        exact List.any_eq_true.mpr ⟨x, queued, (isMatch_iff x _).mpr same⟩
      · rintro ⟨n, bound, behind⟩
        exact Bool.eq_false_iff.mpr fun early =>
          Bool.false_ne_true (behind.symm.trans ((isEarly_iff _ _).mp early n bound))
    exact verdict_answers a d s next cell .late _ outcome (congrArg (s.giveRaise .lateVerdict) (verdictEvent_eq _ d))
  case early =>
    obtain rfl := verdictCode_of_code code
    have early : s.admitsEarly d :=
      ⟨⟨serving, coded⟩, fun x hx => isMatch_eq_false (unmatched x hx), (isEarly_iff _ _).mpr forward⟩
    refine ⟨fun before after e table others lane serial => ?merged, fun noneFor room => ?entered,
      fun noneFor full => ?full⟩
    case merged =>
      have entry := (isFor_iff e _ _).mpr ⟨lane, serial⟩
      have holds : holdEarly s.early d = before ++ e.merge (verdictCode d) (verdictDefect d) :: after :=
        table ▸ holdEarly_merges (fun x hx => isFor_eq_false (others x hx)) entry
      exact verdict_answers a d s next cell .held _ (verdictOutcome_held early (.inl (table ▸ any_split entry)))
        (congrArg (fun t => ({ s with early := t } : State)) holds)
    case entered =>
      have holds := holdEarly_enters (any_eq_false_of fun x hx => isFor_eq_false (noneFor x hx))
      exact verdict_answers a d s next cell .held _ (verdictOutcome_held early (.inr room))
        (congrArg (fun t => ({ s with early := t } : State)) holds)
    case full =>
      exact verdict_answers a d s next cell .full _
        (verdictOutcome_full early (any_eq_false_of fun x hx => isFor_eq_false (noneFor x hx)) full) rfl

end Sys2Proof.Proofs
end

section
/-! Knives and gates (05), lane faults (07 R120) and output lines: what a cut event, a confirm and a confirm limit make
of the first record that each takes, a lane fault by the lane's service state, and the order of the tests for a fate. -/

namespace Sys2Proof.Machine

/-! ## Cuts (05 R76) -/

/-- A cut needs a going engine, a lane that runs or is OFF, and SAFE low (05 R76). -/
theorem cutPermitted_iff (s : State) (l : Lane) : s.cutPermitted l = true ↔
    (s.engine.state = .running ∨ s.engine.state = .draining) ∧
      ((s.lane l).service = .active ∨ (s.lane l).service = .draining ∨ (s.lane l).service = .off) ∧
      s.engine.safe = false := by
  simp only [State.cutPermitted, State.engineGoing, Bool.and_eq_true, Bool.or_eq_true, beq_iff_eq,
    Bool.not_eq_true', and_assoc, or_assoc]

theorem atCut_fires {r : LabelRecord} (waiting : r.cutState = .waiting) (faulted : Bool) :
    r.atCut true faulted = { r with cutState := .fired, due := { r.due with cut := false } } := by
  simp [LabelRecord.atCut, waiting]

theorem atCut_inhibits {r : LabelRecord} (waiting : r.cutState = .waiting) (faulted : Bool) :
    r.atCut false faulted = { r with
      cutState := .inhibited
      flags := { r.flags with laneFault := r.flags.laneFault || faulted }
      due := { r.due with cut := false } } := by
  simp [LabelRecord.atCut, waiting]

/-- The cut event takes the first record of the queue whose cut is due. -/
theorem takeCut_first {s : State} {l : Lane} {before after : List LabelRecord} {r : LabelRecord}
    (queue : (s.lane l).queue = before ++ r :: after) (untaken : ∀ x ∈ before, x.due.cut = false)
    (due : r.due.cut = true) (waiting : r.cutState = .waiting) :
    s.takeCut l = s.setLane l { s.lane l with
      queue := before ++ r.atCut (s.cutPermitted l) (s.lane l).service.isFaulted :: after
      knifePulse := (s.lane l).knifePulse || s.cutPermitted l } := by
  have oldest : (s.lane l).queue.find? (·.due.cut) = some r := queue ▸ find_split untaken due
  have cuts : ∀ p f, updateFirst (·.due.cut) (·.atCut p f) (s.lane l).queue = before ++ r.atCut p f :: after :=
    fun p f => queue ▸ updateFirst_split untaken due
  simp only [State.takeCut, oldest, cuts, waiting, beq_self_eq_true, Bool.and_true]

/-! ## Confirms (05 R78) -/

theorem pendingConfirms_isEmpty_iff (x : LaneState) :
    x.pendingConfirms.isEmpty = true ↔ ∀ r ∈ x.queue, r.cutState ≠ .fired := by
  simp [LaneState.pendingConfirms]

theorem kdonePulse_stray {s : State} {l : Lane} (noneFired : ∀ x ∈ (s.lane l).queue, x.cutState ≠ .fired) :
    s.kdonePulse l = s.give { code := .kdoneStray, lane := some l } :=
  if_pos ((pendingConfirms_isEmpty_iff _).mpr noneFired)

theorem kdonePulse_confirms {s : State} {l : Lane} {before after : List LabelRecord} {r : LabelRecord}
    (queue : (s.lane l).queue = before ++ r :: after) (older : ∀ x ∈ before, x.cutState ≠ .fired)
    (fired : r.cutState = .fired) : s.kdonePulse l = s.setLane l { s.lane l with
      misses := 0
      queue := before ++ { r with cutState := .confirmed } :: after } := by
  have awaited : ¬ (s.lane l).pendingConfirms.isEmpty = true := fun none =>
    (pendingConfirms_isEmpty_iff _).mp none r (by simp [queue]) fired
  have confirms : updateFirst (fun r => r.cutState == .fired) (fun r => { r with cutState := .confirmed })
      (s.lane l).queue = before ++ { r with cutState := .confirmed } :: after :=
    queue ▸ updateFirst_split (fun x hx => beq_eq_false_iff_ne.mpr (older x hx)) (beq_iff_eq.mpr fired)
  rw [State.kdonePulse, if_neg awaited, confirms]

/-! ## Confirm limits (05 R79, R80) -/

/-- The queue in which the record after `before` has been missed: its follower, if any, is JOINED (02 R31). -/
def missedQueue (before : List LabelRecord) (r : LabelRecord) (after : List LabelRecord) : List LabelRecord :=
  before ++ r.dropConfirm.miss ::
    (match after with
      | [] => []
      | f :: fs => f.flagJoined :: fs)

theorem confirmQueue_fired {before after : List LabelRecord} {r : LabelRecord}
    (untaken : ∀ x ∈ before, x.due.confirmLimit = false) (due : r.due.confirmLimit = true)
    (fired : r.cutState = .fired) : confirmQueue (before ++ r :: after) = missedQueue before r after := by
  rw [confirmQueue_split untaken due, if_pos fired]; rfl

theorem confirmQueue_notFired {before after : List LabelRecord} {r : LabelRecord}
    (untaken : ∀ x ∈ before, x.due.confirmLimit = false) (due : r.due.confirmLimit = true)
    (notFired : r.cutState ≠ .fired) : confirmQueue (before ++ r :: after) = before ++ r.dropConfirm :: after := by
  rw [confirmQueue_split untaken due, if_neg notFired]

/-- The confirm limit of a FIRED record: the miss counted, then the lane fault that it may raise, then KNIFE_MISSED. -/
theorem takeConfirmLimit_fired {s : State} {l : Lane} {before after : List LabelRecord} {r : LabelRecord} {n : Nat}
    (queue : (s.lane l).queue = before ++ r :: after) (untaken : ∀ x ∈ before, x.due.confirmLimit = false)
    (due : r.due.confirmLimit = true) (fired : r.cutState = .fired) (counted : n = raiseHolding 2 (s.lane l).misses)
    {u : State} (missed : u = s.setLane l { s.lane l with misses := n, queue := missedQueue before r after }) :
    s.takeConfirmLimit l =
      (if n = 2 ∧ (s.lane l).service.isFaulted = false then u.laneFault l .knife else u).give
        { code := .knifeMissed, lane := some l, serial := r.serial, value := some (BitVec.ofNat 32 n) } := by
  have oldest : (s.lane l).queue.find? (·.due.confirmLimit) = some r := queue ▸ find_split untaken due
  have takes : confirmQueue (s.lane l).queue = missedQueue before r after :=
    queue ▸ confirmQueue_fired untaken due fired
  simp only [State.takeConfirmLimit, oldest, fired, if_true, takes, State.setQueue, lane_setLane_self,
    setLane_setLane, ← counted, ← missed]

theorem takeConfirmLimit_notFired {s : State} {l : Lane} {before after : List LabelRecord} {r : LabelRecord}
    (queue : (s.lane l).queue = before ++ r :: after) (untaken : ∀ x ∈ before, x.due.confirmLimit = false)
    (due : r.due.confirmLimit = true) (notFired : r.cutState ≠ .fired) :
    s.takeConfirmLimit l = s.setLane l { s.lane l with queue := before ++ r.dropConfirm :: after } := by
  have oldest : (s.lane l).queue.find? (·.due.confirmLimit) = some r := queue ▸ find_split untaken due
  have takes : confirmQueue (s.lane l).queue = before ++ r.dropConfirm :: after :=
    queue ▸ confirmQueue_notFired untaken due notFired
  simp only [State.takeConfirmLimit, oldest, if_neg notFired, takes, State.setQueue]

/-! ## Lane faults by service state (07 R120) -/

theorem laneFault_bypassed {s : State} {l : Lane} (c : FaultCause) (bypassed : (s.lane l).service = .bypassed) :
    s.laneFault l c = s := by
  simp only [State.laneFault, bypassed]

/-- A lane that is OFF, ACTIVE or DRAINING takes the whole effect of a fault. -/
def Service.takesFault (v : Service) : Prop := v = .off ∨ v = .active ∨ v = .draining

theorem takesFault_iff (v : Service) : v.takesFault ↔ v ≠ .bypassed ∧ v.isFaulted = false := by
  cases v <;> simp [Service.takesFault, Service.isFaulted]

theorem laneFault_taken {s : State} {l : Lane} (c : FaultCause) (takes : (s.lane l).service.takesFault) :
    s.laneFault l c = (if (s.lane l).queue = [] then (s.faultedAt l c).runOutComplete l
      else s.faultedAt l c).settleEngine := by
  obtain ⟨notBypassed, notFaulted⟩ := (takesFault_iff _).mp takes
  have queue : ((s.faultedAt l c).lane l).queue.isEmpty = true ↔ (s.lane l).queue = [] := by
    rw [faultedAt_lane_self]
    simp [LaneState.rewound, LaneState.faultedBy]
  rw [laneFault_eq s l c notBypassed notFaulted]
  simp only [queue]

theorem settleEngine_drains {e : State} (running : e.engine.state = .running)
    (noneActive : ∀ m, (e.lane m).service ≠ .active) : e.settleEngine = (e.setEngine .draining).testStopped := by
  rw [State.settleEngine, if_pos ⟨running, (noLaneActive_iff e).mpr noneActive⟩]

theorem settleEngine_stays {e : State} (h : e.engine.state ≠ .running ∨ ∃ m, (e.lane m).service = .active) :
    e.settleEngine = e.testStopped := by
  rw [State.settleEngine, if_neg]
  rintro ⟨running, noneActive⟩
  rcases h with other | ⟨m, active⟩
  · exact other running
  · exact (noLaneActive_iff e).mp noneActive m active

/-- A step that replaces the misses and the queue of a lane, faults it and gives an event, said of the lane, the engine
and the reports before the step. -/
theorem laneFault_of_missed {s u t : State} {l : Lane} {n : Nat} {q : List LabelRecord} {c : FaultCause}
    {b : EventBody} (takes : (s.lane l).service.takesFault)
    (missed : u = s.setLane l { s.lane l with misses := n, queue := q })
    (ht : t = ((u.laneFault l c).give b).bookkeptAs t) :
    (t.lane l).faultedFrom (s.lane l) q c ∧ (t.lane l).misses = n ∧ (∀ e ∈ t.early, e.lane ≠ l) ∧
      t.stopReq = true ∧ t.summary.getLsbD 2 = true ∧ t.engineAfterFault s l := by
  have self : u.lane l = { s.lane l with misses := n, queue := q } := by rw [missed, lane_setLane_self]
  obtain ⟨notBypassed, notFaulted⟩ := (takesFault_iff (u.lane l).service).mp (by rw [self]; exact takes)
  have lane : t.lane l = (u.laneFault l c).lane l := by rw [ht]; exact give_lane _ b l
  have early : t.early = u.early.filter (fun e => e.lane != l) := by
    rw [← laneFault_early u l c notBypassed notFaulted, ht]; exact give_early _ b
  have engine : t.engine = (u.laneFault l c).engine := by rw [ht]; exact give_engine _ b
  obtain ⟨faulted, misses, -⟩ := laneFault_lane_self u l c notBypassed notFaulted
  rw [← lane, self] at faulted misses
  refine ⟨faulted, misses, fun e he => ?_, stopReq_of_faulted t l (by rw [faulted.1]; rfl), ?_,
    engineAfterFault_congr (laneFault_engine u l c notBypassed notFaulted) engine lane (by rw [missed]; rfl)
      fun m hm => by rw [missed, lane_setLane_other _ _ hm]⟩
  · rw [early] at he
    simpa using (List.mem_filter.mp he).2
  · rw [congrArg State.summary ht]
    exact give_keepsSummary _ b 2 (laneFault_summary u l c notBypassed notFaulted)

/-! ## The fate of a record (05 R83) -/

theorem anyFault_iff (f : LabelFlags) : f.anyFault = true ↔
    f.regFault = true ∨ f.markMissing = true ∨ f.splice = true ∨ f.orderless = true ∨ f.orderFault.isSome = true ∨
      f.laneFault = true ∨ f.drain = true ∨ f.uncut = true ∨ f.joined = true := by
  simp only [LabelFlags.anyFault, Bool.or_eq_true, or_assoc]

theorem fate_fault {r : LabelRecord} (fault : r.flags.anyFault = true) : r.fate = .reject .fault := if_pos fault

theorem fate_void {r : LabelRecord} (noFault : r.flags.anyFault = false) (void : r.void = true) :
    r.fate = .reject .void := by
  simp [LabelRecord.fate, noFault, void]

/-- A record that neither a fault nor VOID rejects goes by its verdict, then by the sample pull. -/
theorem fate_byVerdict {r : LabelRecord} (noFault : r.flags.anyFault = false) (notVoid : r.void = false) :
    r.fate = if r.verdict = .reject then .reject .reject
      else if r.verdict = .sample ∨ r.samplePull = true then .sample else .stack := by
  simp [LabelRecord.fate, noFault, notVoid]

end Sys2Proof.Machine

namespace Sys2Proof.Proofs

open Sys2Proof.Machine

/-- Settles O15: the event takes the first due record, and `cutPermitted_iff` decides between the two cuts. -/
theorem cutFiresOrIsInhibited : Obligations.CutFiresOrIsInhibited := by
  unfold Obligations.CutFiresOrIsInhibited
  intro l s before after r queue untaken due waiting
  have first := takeCut_first queue untaken due waiting
  refine ⟨fun going serving low => ?fires, fun refused => ?inhibited⟩
  case fires =>
    have permitted : s.cutPermitted l = true := (cutPermitted_iff s l).mpr ⟨going, serving, low⟩
    rw [permitted, atCut_fires waiting, Bool.or_true] at first
    exact ⟨_, rfl, act_both first rfl rfl⟩
  case inhibited =>
    have forbidden : s.cutPermitted l = false := Bool.eq_false_iff.mpr (mt (cutPermitted_iff s l).mp refused)
    rw [forbidden, atCut_inhibits waiting, Bool.or_false] at first
    exact ⟨_, rfl, act_both first rfl rfl⟩

/-- Settles O16: a pulse finds a FIRED record or none. -/
theorem kdoneConfirmsTheOldestFired : Obligations.KdoneConfirmsTheOldestFired := by
  unfold Obligations.KdoneConfirmsTheOldestFired
  intro l s
  refine ⟨fun before after r queue older fired => ?confirm, fun noneFired => ?stray⟩
  case confirm => exact ⟨_, rfl, act_both (kdonePulse_confirms queue older fired) rfl rfl⟩
  case stray =>
    exact ⟨_, rfl, act_both (kdonePulse_stray noneFired) (giveAt_memory _ _ _) (giveAt_powerCycle _ _ _)⟩

/-- Settles O17: a first miss raises no fault, a FAULTED lane is not faulted again, and a BYPASSED lane takes none. -/
theorem confirmLimitMissesTheFiredRecord : Obligations.ConfirmLimitMissesTheFiredRecord := by
  unfold Obligations.ConfirmLimitMissesTheFiredRecord
  intro l s before after r n queue untaken due
  refine ⟨fun fired counted bound noFault => ?missed, fun notFired => ?idle⟩
  case missed =>
    have first := takeConfirmLimit_fired queue untaken due fired (counted.trans (raiseHolding_eq_min bound).symm) rfl
    have unfaulted : ∀ u : State, (u.lane l).service = (s.lane l).service →
        (if n = 2 ∧ (s.lane l).service.isFaulted = false then u.laneFault l .knife else u) = u := by
      intro u service
      rcases noFault with rfl | faulted | bypassed
      · exact if_neg (by simp)
      · exact if_neg (by simp [faulted])
      · rw [laneFault_bypassed _ (service.trans bypassed), ite_self]
    rw [unfaulted _ (by rw [lane_setLane_self])] at first
    exact ⟨_, rfl, act_both first (giveAt_memory _ _ _) (giveAt_powerCycle _ _ _)⟩
  case idle => exact ⟨_, rfl, act_both (takeConfirmLimit_notFired queue untaken due notFired) rfl rfl⟩

/-- Settles O18: the lane fault by its service state, the engine's test, and for a second miss both applied to the lane
with the miss counted. -/
theorem laneFaultsAndTheSecondMiss : Obligations.LaneFaultsAndTheSecondMiss := by
  unfold Obligations.LaneFaultsAndTheSecondMiss
  refine ⟨?byService, fun e => ⟨settleEngine_drains, settleEngine_stays⟩, ?second⟩
  case byService =>
    intro s l c d x faulted faultedAt
    subst faultedAt
    refine ⟨laneFault_bypassed c, fun k service => laneFault_faulted c ?_, laneFault_taken c⟩
    rw [show (s.lane l).service = .faulted k from service]; rfl
  case second =>
    intro l s before after r queue untaken due fired misses served
    have takes : (s.lane l).service.takesFault := by
      rcases served with active | draining | off
      · exact .inr (.inl active)
      · exact .inr (.inr draining)
      · exact .inl off
    have counted : 2 = raiseHolding 2 (s.lane l).misses := by rcases misses with h | h <;> rw [h] <;> rfl
    have first := takeConfirmLimit_fired queue untaken due fired counted rfl
    rw [if_pos ⟨rfl, ((takesFault_iff _).mp takes).2⟩] at first
    have step := act_eq (f := (·.takeConfirmLimit l)) first
    obtain ⟨memory, frame⟩ := act_labelWork (f := (·.takeConfirmLimit l)) (takeConfirmLimit_labelWork s l)
    obtain ⟨lane, count, early, stop, summary, engine⟩ := laneFault_of_missed takes rfl step
    exact ⟨_, _, rfl, rfl, step, lane, count, early, stop, summary, engine, memory, frame,
      takeConfirmLimit_lanesBut s l⟩

/-- Settles O19: each of the three rows writes one field. -/
theorem pulseEndsAndSafeFall : Obligations.PulseEndsAndSafeFall := by
  unfold Obligations.PulseEndsAndSafeFall
  intro l s
  refine ⟨?knife, ?tray, ?safe⟩
  case knife => exact ⟨_, rfl, act_both (f := (·.endKnifePulse l)) rfl rfl rfl⟩
  case tray => exact ⟨_, rfl, act_both (f := (·.endTrayPulse l)) rfl rfl rfl⟩
  case safe => exact ⟨_, rfl, act_both (f := State.safeFall) rfl rfl rfl⟩

/-- Settles O21: a fault flag, VOID, then the verdict and the sample pull. -/
theorem fateIsTheFirstTestThatApplies : Obligations.FateIsTheFirstTestThatApplies := by
  unfold Obligations.FateIsTheFirstTestThatApplies
  intro r
  refine ⟨fun fault => fate_fault ((anyFault_iff r.flags).mpr fault), fate_void, fun noFault notVoid reject => ?reject,
    fun noFault notVoid notReject sample => ?sample, fun noFault notVoid notReject notSample notPulled => ?stack⟩
  case reject => rw [fate_byVerdict noFault notVoid, if_pos reject]
  case sample => rw [fate_byVerdict noFault notVoid, if_neg notReject, if_pos sample]
  case stack =>
    rw [fate_byVerdict noFault notVoid, if_neg notReject, if_neg]
    simp [notSample, notPulled]

end Sys2Proof.Proofs
end

section
/-! The stack assembler at TRAY-READY and at a gate event (06): a STACK label delivered or spilled, the close test, and a
close with room in the holding list or with the list full, with the fault that a parking raises. -/

namespace Sys2Proof.Machine

/-! ## A step's end -/

theorem act_engine (s : State) (f : State → State) : (s.act f).engine = (f s).engine := rfl

theorem act_summary (s : State) (f : State → State) : (s.act f).summary = (f s).summary := rfl

theorem act_holding (s : State) (f : State → State) : (s.act f).writer.holding = (f s).writer.holding := rfl

/-! ## TRAY-READY (06 R89) -/

theorem trayReadyPulse_notReady {s : State} {l : Lane} (stacker : (s.lane l).stacker = .notReady) :
    s.trayReadyPulse l = s.setLane l { s.lane l with stacker := .filling .a } := by
  simp only [State.trayReadyPulse, stacker]

theorem trayReadyPulse_transferring {s : State} {l : Lane} {t : Tray} (stacker : (s.lane l).stacker = .transferring t) :
    s.trayReadyPulse l = s.setLane l { s.lane l with stacker := .filling t.other } := by
  simp only [State.trayReadyPulse, stacker]

theorem trayReadyPulse_filling {s : State} {l : Lane} {t : Tray} (stacker : (s.lane l).stacker = .filling t) :
    s.trayReadyPulse l = s.give { code := .trayReadyStray, lane := some l } := by
  simp only [State.trayReadyPulse, stacker]

/-! ## Delivery (06 R93) -/

/-- `k` is the stack that a label of a batch is delivered into: the open one of that batch, or a new one that takes the
next sequence number, the tray and the carry list. -/
def LaneState.deliversInto (x : LaneState) (tray : Tray) (batch target : Half) (k : OpenStack) : Prop :=
  x.openStack = some k ∧ k.batch = batch ∨
    x.openStack = none ∧
      k = { sequence := x.nextSequence, tray := tray, batch := batch, target := target, count := 0, first := none,
            last := none, short := x.carry }

/-- The lane with a label delivered into the stack `k`, and GATE at STACK. -/
def LaneState.delivered (x : LaneState) (k : OpenStack) (serial : Option Serial) : LaneState :=
  { x with
    gate := .stack
    openStack := some (k.deliver serial)
    carry := if x.openStack.isSome then x.carry else { entries := [], overflow := 0, unordered := 0 }
    nextSequence := if x.openStack.isSome then x.nextSequence else x.nextSequence + 1 }

theorem openStack_deliver_eq (k : OpenStack) (serial : Option Serial) : k.deliver serial = { k with
    count := k.count + 1
    first := if k.first.isSome then k.first else serial
    last := if serial.isSome then serial else k.last } := by
  unfold OpenStack.deliver
  cases k.first <;> cases serial <;> rfl

theorem deliver_into {x : LaneState} {tray : Tray} {batch target : Half} {k : OpenStack}
    (into : x.deliversInto tray batch target k) (serial : Option Serial) :
    { x.deliver tray batch target serial with gate := .stack } = x.delivered k serial := by
  rcases into with ⟨stack, -⟩ | ⟨noStack, rfl⟩
  · simp [LaneState.deliver, LaneState.withOpenStack, LaneState.delivered, stack]
  · simp [LaneState.deliver, LaneState.withOpenStack, LaneState.delivered, noStack, Shortfall.empty]

theorem batchDiffers_into {x : LaneState} {tray : Tray} {batch target : Half} {k : OpenStack}
    (into : x.deliversInto tray batch target k) : x.batchDiffers (some batch) = false := by
  rcases into with ⟨stack, same⟩ | ⟨noStack, -⟩
  · simp [LaneState.batchDiffers, stack, same]
  · simp [LaneState.batchDiffers, noStack]

theorem takeItem_delivers {s : State} {l : Lane} {r : LabelRecord} {tray : Tray} {batch : Half} {k : OpenStack}
    (fate : r.fate = .stack) (ofBatch : r.batch = some batch) (filling : (s.lane l).stacker = .filling tray)
    (into : (s.lane l).deliversInto tray batch r.target k) :
    s.takeItem l r = s.setLane l ((s.lane l).delivered k r.serial) := by
  have takes : s.takeItem l r = s.takeStackLabel l r := by simp only [State.takeItem, fate]
  rw [takes, takeStackLabel_deliver s l r tray filling (ofBatch ▸ batchDiffers_into into), ofBatch, Option.getD_some,
    State.setGate, lane_setLane_self, setLane_setLane, deliver_into into]

/-- The gate event of a label that is delivered: the delivery, the close test and the completions. -/
theorem takeGate_delivers {s u : State} {l : Lane} {r : LabelRecord} {rest : List LabelRecord} {tray : Tray}
    {batch : Half} {k : OpenStack} (head : (s.lane l).queue = r :: rest) (due : r.due.gate = true)
    (fate : r.fate = .stack) (ofBatch : r.batch = some batch) (filling : (s.lane l).stacker = .filling tray)
    (into : (s.lane l).deliversInto tray batch r.target k)
    (delivered : u = s.setLane l (((s.lane l).withoutHead r).delivered k r.serial)) :
    (s.setLane l ((s.lane l).withoutHead r)).takeItem l r = u ∧ s.takeGate l = (u.testClose l r).afterGate l := by
  have taken : (s.setLane l ((s.lane l).withoutHead r)).takeItem l r = u := by
    rw [takeItem_delivers (tray := tray) (k := k) fate ofBatch (by rw [lane_setLane_self, withoutHead_eq]; exact filling)
      (by rw [lane_setLane_self, withoutHead_eq]; exact into), lane_setLane_self, setLane_setLane, delivered]
  exact ⟨taken, by rw [takeGate_eq s l r rest head due, taken]⟩

/-! ## The close after a gate event's item (06 R97, R98) -/

theorem testClose_full {s : State} {l : Lane} {r : LabelRecord} {k : OpenStack} (more : r.endOfBatch = false)
    (stack : (s.lane l).openStack = some k) (full : k.count = k.target.toNat) :
    s.testClose l r = s.closeAndFault l .count := by
  rw [State.testClose, if_neg (by simp [more]), if_pos (by simp [stack, full])]

/-- The close that follows a gate event's item: BATCH_END for the last label of a batch, else COUNT for a full stack. -/
theorem testClose_closes {s : State} {l : Lane} {r : LabelRecord} {k : OpenStack} {why : CloseReason}
    (stack : (s.lane l).openStack = some k) (cause : r.endOfBatch = true ∧ why = .batchEnd ∨
      r.endOfBatch = false ∧ k.count = k.target.toNat ∧ why = .count) :
    s.testClose l r = s.closeAndFault l why := by
  rcases cause with ⟨last, rfl⟩ | ⟨more, full, rfl⟩
  · exact testClose_endOfBatch last
  · exact testClose_full more stack full

theorem closedRecord_open {x : LaneState} {l : Lane} {w : CloseReason} {k : OpenStack} (stack : x.openStack = some k) :
    x.closedRecord l w = some (k.record l w) := by
  simp only [LaneState.closedRecord, stack]; rfl

theorem closeAndFault_builds {s : State} {l : Lane} {w : CloseReason} {p : StackRecord}
    (built : (s.lane l).closedRecord l w = some p) (room : s.writer.holding.length < 4) :
    s.closeAndFault l w = ((s.setLane l (s.lane l).closed).holdingAs (s.writer.holding ++ [p])).give
      { code := .stackClosed, lane := some l, address := some w.code, value := some (p.sequence.setWidth 32) } := by
  rw [closeAndFault_room s l w room, closeStack_builds built room]

theorem closed_filling {x : LaneState} {k : OpenStack} {tray : Tray} (stack : x.openStack = some k)
    (filling : x.stacker = .filling tray) :
    x.closed = { x with openStack := none, trayPulse := true, stacker := .transferring tray } := by
  rw [closed_open stack, LaneState.afterStackClose, filling]; rfl

theorem holdingAs_setLane (s : State) (held : List StackRecord) (l : Lane) (x : LaneState) :
    (s.holdingAs held).setLane l x = (s.setLane l x).holdingAs held := rfl

theorem holdingAs_lane (s : State) (held : List StackRecord) (m : Lane) : (s.holdingAs held).lane m = s.lane m := rfl

/-- A lane replaced, the holding list replaced and an event given: the completions are tested on that lane. -/
theorem afterGate_placed {s : State} {l : Lane} {x : LaneState} {held : List StackRecord} {b : EventBody}
    (ordered : ¬ (x.service = .draining ∧ x.queue.countP (·.holdsOrder) = 0))
    (queued : ¬ (x.service.isFaulted = true ∧ x.queue = [])) :
    (((s.setLane l x).holdingAs held).give b).afterGate l = ((s.setLane l x).holdingAs held).give b := by
  have lane : (((s.setLane l x).holdingAs held).give b).lane l = x := by
    rw [give_lane, holdingAs_lane, lane_setLane_self]
  exact afterGate_idle (by rwa [lane]) (by rwa [lane])

/-! ## A close that finds the holding list full (06 R102, 07 R120) -/

theorem closedRecord_names {x : LaneState} {l : Lane} {w : CloseReason} {p : StackRecord}
    (built : x.closedRecord l w = some p) : p.lane = l ∧ p.reason = w := by
  unfold LaneState.closedRecord at built
  split at built
  · obtain rfl := Option.some.inj built
    exact ⟨rfl, rfl⟩
  · split at built
    · cases built
    · obtain rfl := Option.some.inj built
      exact ⟨rfl, rfl⟩

/-- A close builds a record exactly where `closedRecord` names one. -/
theorem closeBuilds_eq (x : LaneState) (l : Lane) (w : CloseReason) :
    x.closeBuilds = (x.closedRecord l w).isSome := by
  unfold LaneState.closeBuilds LaneState.closedRecord
  cases x.openStack with
  | some k => rfl
  | none => cases x.carry.isEmpty <;> cases x.parked <;> rfl

theorem closeParks_nothing {s : State} {l : Lane} {w : CloseReason} (nothing : (s.lane l).closedRecord l w = none) :
    s.closeParks l = false := by
  rw [State.closeParks, closeBuilds_eq _ l w, nothing]; rfl

theorem closeAndFault_nothing {s : State} {l : Lane} {w : CloseReason}
    (nothing : (s.lane l).closedRecord l w = none) : s.closeAndFault l w = s := by
  simp only [State.closeAndFault, closeParks_nothing nothing, Bool.false_eq_true, if_false, closeStack_nothing nothing]

/-- The state after a close of the lane parked the record `p`, before the fault that the parking raises. -/
def State.closeParked (s : State) (l : Lane) (w : CloseReason) (p : StackRecord) : State :=
  ((s.setLane l { (s.lane l).closed with parked := some p }).giveRaise .stackBacklog
    { code := .stackParked, lane := some l, value := some (p.sequence.setWidth 32) }).give
    { code := .stackClosed, lane := some l, address := some w.code, value := some (p.sequence.setWidth 32) }

theorem closeAndFault_parks {s : State} {l : Lane} {w : CloseReason} {p : StackRecord}
    (built : (s.lane l).closedRecord l w = some p) (full : 4 ≤ s.writer.holding.length) :
    s.closeAndFault l w = (s.closeParked l w p).laneFault l .backlog := by
  obtain ⟨rfl, rfl⟩ := closedRecord_names built
  have parks : s.closeParks p.lane = true := by
    rw [State.closeParks, closeBuilds_eq _ p.lane p.reason, built]
    exact decide_eq_true full
  have placed : (s.setLane p.lane (s.lane p.lane).closed).placeRecord p = _ := if_neg (Nat.not_lt.mpr full)
  rw [State.closeAndFault, if_pos parks, closeStack_closes built, State.closeWith, placed, lane_setLane_self,
    setLane_setLane]
  rfl

theorem closeParked_lane (s : State) (l : Lane) (w : CloseReason) (p : StackRecord) :
    (s.closeParked l w p).lane l = { (s.lane l).closed with parked := some p } := by
  rw [State.closeParked, give_lane, giveRaise_lane, lane_setLane_self]

theorem closeParked_lanesBut (s : State) (l : Lane) (w : CloseReason) (p : StackRecord) :
    s.lanesBut l (s.closeParked l w p) :=
  lanesBut_trans (setLane_lanesBut s l _) (lanesBut_trans (giveRaise_lanesBut _ l _ _) (give_lanesBut _ l _))

theorem closeParked_engine (s : State) (l : Lane) (w : CloseReason) (p : StackRecord) :
    (s.closeParked l w p).engine = s.engine := by
  rw [State.closeParked, give_engine, giveRaise_engine]; rfl

theorem closeParked_early (s : State) (l : Lane) (w : CloseReason) (p : StackRecord) :
    (s.closeParked l w p).early = s.early := by
  rw [State.closeParked, give_early, giveRaise_early]; rfl

theorem closeParked_holding (s : State) (l : Lane) (w : CloseReason) (p : StackRecord) :
    (s.closeParked l w p).writer.holding = s.writer.holding := by
  rw [State.closeParked, give_holding, giveRaise_holding]; rfl

theorem closeParked_summary (s : State) (l : Lane) (w : CloseReason) (p : StackRecord) :
    (s.closeParked l w p).summary.getLsbD 4 = true :=
  give_keepsSummary _ _ 4 (giveRaise_set _ .stackBacklog _)

/-! ## The fault of a lane whose record is parked -/

/-- A lane whose parked slot is occupied and that has no stack open: a close builds nothing there (06 R104). -/
def LaneState.hasParked (x : LaneState) : Prop := x.openStack = none ∧ x.parked ≠ none

theorem closedRecord_hasParked {x : LaneState} (h : x.hasParked) (l : Lane) (w : CloseReason) :
    x.closedRecord l w = none := closedRecord_none.mpr ⟨h.1, .inr h.2⟩

theorem closeParked_hasParked (s : State) (l : Lane) (w : CloseReason) (p : StackRecord) :
    ((s.closeParked l w p).lane l).hasParked := by
  rw [closeParked_lane]
  exact ⟨(closed_stack (s.lane l)).1, Option.some_ne_none p⟩

/-- Run-out of such a lane is the test for STOPPED alone. -/
theorem runOutComplete_hasParked {s : State} {l : Lane} (h : (s.lane l).hasParked) :
    s.runOutComplete l = s.testStopped := by
  have nothing := closedRecord_hasParked h l .laneFault
  simp only [State.runOutComplete, State.closeFaulted, closeParks_nothing nothing, Bool.false_eq_true, if_false,
    closeStack_nothing nothing]

/-- A fault that its lane does not take leaves the lane, or announces itself in a FAULTED one (07 R120). -/
theorem laneFault_notTaken {s : State} {l : Lane} (c : FaultCause) (h : ¬ (s.lane l).service.takesFault) :
    s.laneFault l c = s ∨ s.laneFault l c = s.announceFault l c := by
  rw [takesFault_iff, not_and_or, not_not, Bool.not_eq_false] at h
  exact h.imp (laneFault_bypassed c) (laneFault_faulted c)

theorem laneFault_takenParked {s : State} {l : Lane} (c : FaultCause) (takes : (s.lane l).service.takesFault)
    (parked : (s.lane l).hasParked) : s.laneFault l c =
      (if (s.lane l).queue = [] then (s.faultedAt l c).testStopped else s.faultedAt l c).settleEngine := by
  have still : ((s.faultedAt l c).lane l).hasParked := by rw [faultedAt_lane_self]; exact parked
  rw [laneFault_taken c takes, runOutComplete_hasParked still]

/-- A fault of such a lane closes nothing. -/
theorem laneFault_hasParked {s : State} {l : Lane} (c : FaultCause) (parked : (s.lane l).hasParked) :
    (s.laneFault l c).writer.holding = s.writer.holding ∧ ((s.laneFault l c).lane l).parked = (s.lane l).parked ∧
      ((s.laneFault l c).lane l).openStack = none ∧ ((s.laneFault l c).lane l).stacker = (s.lane l).stacker := by
  by_cases takes : (s.lane l).service.takesFault
  · have lane : (s.laneFault l c).lane l = ((s.lane l).faultedBy c).rewound := by
      rw [laneFault_takenParked c takes parked, settleEngine_lane, ← faultedAt_lane_self]
      split
      · exact testStopped_lane _ l
      · rfl
    refine ⟨?_, by rw [lane]; rfl, by rw [lane]; exact parked.1, by rw [lane]; rfl⟩
    have kept : (s.faultedAt l c).writer.holding = s.writer.holding := by
      rw [State.faultedAt, discardEarly_holding, rewind_holding]
      exact giveRaise_holding _ _ _
    rw [laneFault_takenParked c takes parked, settleEngine_holding, ← kept]
    split
    · exact testStopped_holding _
    · rfl
  · rcases laneFault_notTaken c takes with same | announced
    · rw [same]; exact ⟨rfl, rfl, parked.1, rfl⟩
    · rw [announced, announceFault_lane]; exact ⟨giveRaise_holding _ _ _, rfl, parked.1, rfl⟩

/-- A fault keeps every class that is raised, whatever the lane's service state. -/
theorem laneFault_keepsClass {s : State} {l : Lane} {c : FaultCause} {i : Nat} (raised : s.summary.getLsbD i = true) :
    (s.laneFault l c).summary.getLsbD i = true := by
  by_cases takes : (s.lane l).service.takesFault
  · obtain ⟨notBypassed, notFaulted⟩ := (takesFault_iff _).mp takes
    exact laneFault_keepsSummary s l c i raised notBypassed notFaulted
  · rcases laneFault_notTaken c takes with same | announced
    · rw [same]; exact raised
    · rw [announced]; exact announceFault_keepsSummary s l c i raised

/-- A fault's account reads of the lane before it what no close changes. -/
theorem faultedFrom_closed {x y : LaneState} {q : List LabelRecord} {c : FaultCause} {p : Option StackRecord}
    (h : y.faultedFrom { x.closed with parked := p } q c) : y.faultedFrom x q c := by
  unfold LaneState.closed at h
  split at h <;> exact h

theorem closed_service_queue (x : LaneState) : x.closed.service = x.service ∧ x.closed.queue = x.queue := by
  unfold LaneState.closed
  split <;> exact ⟨rfl, rfl⟩

/-- What a close that parks leaves: the record in the parked slot, the holding list as it was, STACK_BACKLOG raised. -/
theorem closeAndFault_parked {s : State} {l : Lane} {w : CloseReason} {p : StackRecord}
    (built : (s.lane l).closedRecord l w = some p) (full : 4 ≤ s.writer.holding.length) :
    (s.closeAndFault l w).writer.holding = s.writer.holding ∧ (s.closeAndFault l w).summary.getLsbD 4 = true ∧
      ((s.closeAndFault l w).lane l).parked = some p ∧ ((s.closeAndFault l w).lane l).openStack = none ∧
      ((s.closeAndFault l w).lane l).stacker = (s.lane l).closed.stacker := by
  obtain ⟨holding, parked, noStack, stacker⟩ := laneFault_hasParked .backlog (closeParked_hasParked s l w p)
  rw [closeParked_lane] at parked stacker
  rw [closeAndFault_parks built full]
  exact ⟨holding.trans (closeParked_holding s l w p), laneFault_keepsClass (closeParked_summary s l w p), parked, noStack,
    stacker⟩

theorem closeParked_takesFault {s : State} {l : Lane} (w : CloseReason) (p : StackRecord)
    (takes : (s.lane l).service.takesFault) : ((s.closeParked l w p).lane l).service.takesFault := by
  rw [closeParked_lane]
  exact (closed_service_queue (s.lane l)).1 ▸ takes

/-- The BACKLOG fault that a close raises in a lane that takes it, said of the state before the close. -/
theorem closeAndFault_faults {s : State} {l : Lane} {w : CloseReason} {p : StackRecord}
    (built : (s.lane l).closedRecord l w = some p) (full : 4 ≤ s.writer.holding.length)
    (takes : (s.lane l).service.takesFault) :
    ((s.closeAndFault l w).lane l).faultedFrom (s.lane l) (s.lane l).queue .backlog ∧
      (s.closeAndFault l w).summary.getLsbD 2 = true ∧ (s.closeAndFault l w).stopReq = true ∧
      (s.closeAndFault l w).engineAfterFault s l ∧
      (s.closeAndFault l w).early = s.early.filter (fun e => e.lane != l) := by
  obtain ⟨notBypassed, notFaulted⟩ := (takesFault_iff _).mp (closeParked_takesFault w p takes)
  obtain ⟨faulted, -⟩ := laneFault_lane_self (s.closeParked l w p) l .backlog notBypassed notFaulted
  have engine := laneFault_engine (s.closeParked l w p) l .backlog notBypassed notFaulted
  have early := laneFault_early (s.closeParked l w p) l .backlog notBypassed notFaulted
  have raised := laneFault_summary (s.closeParked l w p) l .backlog notBypassed notFaulted
  rw [← closeAndFault_parks built full] at faulted engine early raised
  rw [closeParked_lane] at faulted
  rw [closeParked_early] at early
  have before := faultedFrom_closed faulted
  rw [show ({ (s.lane l).closed with parked := some p } : LaneState).queue = (s.lane l).queue from
    (closed_service_queue (s.lane l)).2] at before
  exact ⟨before, raised, stopReq_of_faulted _ l (by rw [faulted.1]; rfl),
    engineAfterFault_congr engine rfl rfl (closeParked_engine s l w p) (closeParked_lanesBut s l w p), early⟩

/-! ## The completions after such a fault -/

theorem testStopped_testStopped (s : State) : s.testStopped.testStopped = s.testStopped := by
  refine if_neg fun ⟨draining, done⟩ => ?_
  have same : s.testStopped.runOutDone = s.runOutDone := by simp only [State.runOutDone, testStopped_lane]
  rw [testStopped_engine, ← same, done] at draining
  dsimp only at draining
  split at draining
  next => cases draining
  next going => exact going ⟨draining, rfl⟩

/-- The fault has run the lane out and tested the engine, so that no completion is left to the gate event. -/
theorem afterGate_faultedParked {s : State} {l : Lane} (c : FaultCause) (takes : (s.lane l).service.takesFault)
    (parked : (s.lane l).hasParked) : (s.laneFault l c).afterGate l = s.laneFault l c := by
  obtain ⟨notBypassed, notFaulted⟩ := (takesFault_iff _).mp takes
  obtain ⟨-, slot, noStack, -⟩ := laneFault_hasParked c parked
  obtain ⟨⟨service, -⟩, -⟩ := laneFault_lane_self s l c notBypassed notFaulted
  by_cases empty : ((s.laneFault l c).lane l).queue = []
  · rw [afterGate_runOut (by rw [service]; rfl) empty,
      runOutComplete_hasParked ⟨noStack, by rw [slot]; exact parked.2⟩, laneFault_takenParked c takes parked]
    exact testStopped_testStopped _
  · exact afterGate_idle (fun ⟨draining, _⟩ => by rw [service] at draining; cases draining) (fun ⟨_, h⟩ => empty h)

/-! ## Spill (06 R94) -/

/-- SPILL given with a state of the stacker, and GATE at REJECT, once the lane has listed the label. -/
theorem spill_rejects (s : State) (l : Lane) (r : LabelRecord) :
    (s.spill l (r.item .spill)).setGate l .reject =
      (s.setLane l { (s.lane l).listMissing (r.item .spill) with gate := .reject }).give
        { code := .spill, lane := some l, serial := r.serial,
          value := some (BitVec.ofNat 32 (s.lane l).stacker.code) } := by
  rw [State.setGate, State.spill, State.listMissing, give_lane, lane_setLane_self, give_setLane, setLane_setLane]
  rfl

theorem stackerCode_notFilling {x : Stacker} (notFilling : ∀ tray, x ≠ .filling tray) :
    BitVec.ofNat 32 x.code = if x = .notReady then 0 else 2 := by
  cases x with
  | notReady => rfl
  | transferring t => rfl
  | filling t => exact absurd rfl (notFilling t)

/-- A STACK label spills where no tray is being filled. -/
theorem takeItem_spills {s : State} {l : Lane} {r : LabelRecord} (fate : r.fate = .stack)
    (notFilling : ∀ tray, (s.lane l).stacker ≠ .filling tray) :
    s.takeItem l r = (s.setLane l { (s.lane l).listMissing (r.item .spill) with gate := .reject }).give
      { code := .spill, lane := some l, serial := r.serial,
        value := some (if (s.lane l).stacker = .notReady then 0 else 2) } := by
  rw [← stackerCode_notFilling notFilling, ← spill_rejects]
  simp only [State.takeItem, fate, State.takeStackLabel]
  cases stacker : (s.lane l).stacker with
  | notReady => rfl
  | transferring t => rfl
  | filling t => exact absurd stacker (notFilling t)

/-- A STACK label of another batch than the open stack's closes that stack and spills, with or without room for its
record. -/
theorem takeItem_changesBatch {s v : State} {l : Lane} {r : LabelRecord} {tray : Tray} {k : OpenStack}
    (fate : r.fate = .stack) (filling : (s.lane l).stacker = .filling tray) (opened : (s.lane l).openStack = some k)
    (other : r.batch ≠ some k.batch) (closed : v = s.closeAndFault l .batchChange) :
    s.takeItem l r =
      (v.setLane l { v.lane l with gate := .reject, carry := (v.lane l).carry.list (r.item .spill) }).give
        { code := .spill, lane := some l, serial := r.serial, value := some 2 } := by
  have differs : (s.lane l).batchDiffers r.batch = true := by
    simpa [LaneState.batchDiffers, opened] using other.symm
  have spills : s.takeItem l r = (v.spill l (r.item .spill)).setGate l .reject := by
    simp only [State.takeItem, fate, State.takeStackLabel, filling, differs, if_true, closed]
  have built := closedRecord_open (l := l) (w := .batchChange) opened
  have after : (v.lane l).openStack = none ∧ (v.lane l).stacker = .transferring tray := by
    have changed := closed_filling opened filling
    rcases Nat.lt_or_ge s.writer.holding.length 4 with room | full
    · have lane : v.lane l = (s.lane l).closed := by
        rw [closed, closeAndFault_builds built room, give_lane, holdingAs_lane, lane_setLane_self]
      rw [lane, changed]; exact ⟨rfl, rfl⟩
    · obtain ⟨-, -, -, noStack, stacker⟩ := closeAndFault_parked built full
      rw [closed, stacker, changed]; exact ⟨noStack, rfl⟩
  obtain ⟨noStack, stacker⟩ := after
  have listed : (v.lane l).listMissing (r.item .spill) =
      { v.lane l with carry := (v.lane l).carry.list (r.item .spill) } := by
    simp only [LaneState.listMissing, noStack]
  rw [spills, spill_rejects, stacker, listed]
  rfl

/-- `y` is `x` after its head label left and spilled into the carry list, as far as the end of the gate event asks. -/
def LaneState.spilledFrom (y x : LaneState) (rest : List LabelRecord) (m : MissingItem) : Prop :=
  y.service = x.service ∧ y.queue = rest ∧ y.openStack = none ∧ y.carry = x.carry.list m ∧
    y.nextSequence = x.nextSequence ∧ y.parked = x.parked

/-- With no completion due a gate event ends with such a spill, or with END_OF_BATCH closes the carry list, which is not
empty, into a record of count 0. -/
theorem gateEnds_spilled {u : State} {l : Lane} {r : LabelRecord} {x : LaneState} {rest : List LabelRecord}
    {m : MissingItem} (spilled : (u.lane l).spilledFrom x rest m)
    (ordered : ¬ (x.service = .draining ∧ rest.countP (·.holdsOrder) = 0))
    (queued : ¬ (x.service.isFaulted = true ∧ rest = [])) :
    (r.endOfBatch = false → (u.testClose l r).afterGate l = u) ∧
    (r.endOfBatch = true → x.parked = none → u.writer.holding.length < 4 → (u.testClose l r).afterGate l =
      ((u.setLane l { u.lane l with
          carry := { entries := [], overflow := 0, unordered := 0 }
          nextSequence := x.nextSequence + 1 }).holdingAs
        (u.writer.holding ++ [(x.carry.list m).record l x.nextSequence .batchEnd])).give
        { code := .stackClosed, lane := some l, address := some 2, value := some (x.nextSequence.setWidth 32) }) := by
  obtain ⟨service, queue, noStack, carry, next, parked⟩ := spilled
  rw [← service, ← queue] at ordered queued
  refine ⟨fun more => ?_, fun last free room => ?_⟩
  · rw [testClose_below more (by rw [noStack]; exact nofun), afterGate_idle ordered queued]
  · have listed : (u.lane l).carry.isEmpty = false := by rw [carry]; exact shortfallList_isEmpty _ _
    rw [testClose_endOfBatch last, closeAndFault_builds (closedRecord_carry noStack listed (parked.trans free)) room,
      closed_carry noStack, LaneState.afterCarryClose, carry, next]
    exact afterGate_placed ordered queued

end Sys2Proof.Machine

namespace Sys2Proof.Proofs

open Sys2Proof.Machine

/-- Settles O20: one equation for each state of the stacker. -/
theorem trayReadyFillsTheNextTray : Obligations.TrayReadyFillsTheNextTray := by
  unfold Obligations.TrayReadyFillsTheNextTray
  intro l s
  refine ⟨fun notReady => ?_, fun fromA => ?_, fun fromB => ?_, fun t filling => ?_⟩
  · exact ⟨_, rfl, act_both (trayReadyPulse_notReady notReady) rfl rfl⟩
  · exact ⟨_, rfl, act_both (trayReadyPulse_transferring fromA) rfl rfl⟩
  · exact ⟨_, rfl, act_both (trayReadyPulse_transferring fromB) rfl rfl⟩
  · exact ⟨_, rfl, act_both (trayReadyPulse_filling filling) (giveAt_memory _ _ _) (giveAt_powerCycle _ _ _)⟩

/-- Settles O23: the delivery (`takeGate_delivers`), after which neither the close test nor a completion applies. -/
theorem gateDeliversTheLabel : Obligations.GateDeliversTheLabel := by
  unfold Obligations.GateDeliversTheLabel
  intro l s u r rest tray batch k head due fate ofBatch filling into x front delivered
  have front_eq : (s.lane l).withoutHead r = front := withoutHead_cons head
  have delivered' : u = s.setLane l (((s.lane l).withoutHead r).delivered k r.serial) := by
    rw [delivered, front_eq, LaneState.delivered, openStack_deliver_eq]
  obtain ⟨taken, gated⟩ := takeGate_delivers head due fate ofBatch filling into delivered'
  obtain ⟨mem, -⟩ := act_labelWork (f := (·.takeGate l)) (takeGate_labelWork s l)
  refine ⟨front_eq ▸ taken, _, rfl, mem, act_eq gated, fun more below ordered queued => act_eq ?_⟩
  have lane : u.lane l = front.delivered k r.serial := by rw [delivered', front_eq, lane_setLane_self]
  have unclosed : u.testClose l r = u := testClose_below more fun k' stack => by
    rw [lane] at stack
    obtain rfl := Option.some.inj stack
    exact below
  rw [gated, unclosed, afterGate_idle (by rw [lane]; exact ordered) (by rw [lane]; exact queued)]

/-- Settles O24: the branches of the close test, and the close of the stack that the label has been delivered into. -/
theorem gateClosesTheFullStack : Obligations.GateClosesTheFullStack := by
  unfold Obligations.GateClosesTheFullStack
  refine ⟨fun l s r => ⟨testClose_endOfBatch, fun k => testClose_full, testClose_below⟩, ?_⟩
  intro l s r rest tray batch k k' why head due fate ofBatch filling into cause room ordered queued delivered x
  obtain rfl : k' = k.deliver r.serial := by rw [delivered, openStack_deliver_eq]
  obtain ⟨u, hu⟩ : ∃ u, u = s.setLane l (((s.lane l).withoutHead r).delivered k r.serial) := ⟨_, rfl⟩
  obtain ⟨-, gated⟩ := takeGate_delivers head due fate ofBatch filling into hu
  obtain ⟨mem, -⟩ := act_labelWork (f := (·.takeGate l)) (takeGate_labelWork s l)
  have lane : u.lane l = ((s.lane l).withoutHead r).delivered k r.serial := by rw [hu, lane_setLane_self]
  have stack : (u.lane l).openStack = some (k.deliver r.serial) := by rw [lane]; rfl
  have filled : (u.lane l).stacker = .filling tray := by rw [lane, withoutHead_eq]; exact filling
  have closes := (testClose_closes stack cause).trans
    (closeAndFault_builds (closedRecord_open stack) (by rw [hu]; exact room))
  rw [withoutHead_cons head] at lane hu
  rw [closed_filling stack filled, lane] at closes
  refine ⟨_, rfl, mem, act_eq ?_⟩
  rw [gated, closes, afterGate_placed ordered queued, hu, setLane_setLane]
  rfl

/-- Settles O26: nothing built, a record held and a record parked (`closeAndFault_parked`, `closeAndFault_faults`); the gate
event ends with the second applied to the stack that its label was delivered into. -/
theorem fullHoldingListParksAndFaults : Obligations.FullHoldingListParksAndFaults := by
  unfold Obligations.FullHoldingListParksAndFaults
  refine ⟨fun s l why _ => ⟨closeAndFault_nothing, fun p built => ?close⟩, ?gate⟩
  case close =>
    refine ⟨closeAndFault_builds built, fun full => ?_⟩
    obtain ⟨holding, backlog, parked, -⟩ := closeAndFault_parked built full
    refine ⟨closeAndFault_parks built full, holding, backlog, parked, fun takes => ?_⟩
    obtain ⟨faulted, raised, stop, engine, early⟩ := closeAndFault_faults built full takes
    exact ⟨faulted, raised, stop, engine, early, closeAndFault_lanesBut s l why⟩
  case gate =>
    intro l s r rest tray k why head due fate ofBatch filling opened cause full serves
    obtain ⟨u, hu⟩ : ∃ u, u = s.setLane l (((s.lane l).withoutHead r).delivered k r.serial) := ⟨_, rfl⟩
    obtain ⟨-, gated⟩ := takeGate_delivers head due fate ofBatch filling (.inl ⟨opened, rfl⟩) hu
    obtain ⟨mem, frame⟩ := act_labelWork (f := (·.takeGate l)) (takeGate_labelWork s l)
    have lane : u.lane l = ((s.lane l).withoutHead r).delivered k r.serial := by rw [hu, lane_setLane_self]
    rw [withoutHead_cons head] at lane
    have stack : (u.lane l).openStack = some (k.deliver r.serial) := by rw [lane]; rfl
    have takes : (u.lane l).service.takesFault := by rw [lane]; exact .inr serves
    have built := closedRecord_open (l := l) (w := why) stack
    have full' : 4 ≤ u.writer.holding.length := by rw [hu]; exact full
    have result : s.takeGate l = u.closeAndFault l why := by
      rw [gated, testClose_closes stack cause, closeAndFault_parks built full',
        afterGate_faultedParked _ (closeParked_takesFault why _ takes) (closeParked_hasParked u l why _)]
    obtain ⟨holding, backlog, parked, noStack, -⟩ := closeAndFault_parked built full'
    obtain ⟨⟨service, queue, gate, -⟩, raised, -, engine, -⟩ := closeAndFault_faults built full' takes
    rw [← result] at holding backlog parked noStack service queue gate raised engine
    rw [lane] at queue
    rw [hu] at holding
    have engineOf := engineAfterFault_congr (s := s) engine (act_engine s (·.takeGate l)) (act_lane s (·.takeGate l) l)
      (by rw [hu]; rfl) (hu ▸ setLane_lanesBut s l _)
    have stop := stopReq_of_faulted (s.act (·.takeGate l)) l (by rw [act_lane, service]; rfl)
    refine ⟨_, (k.deliver r.serial).record l why, rfl, ?_⟩
    simp only [act_lane, act_summary, act_holding]
    exact ⟨parked, rfl, rfl, rfl, rfl, service, gate, noStack, queue, holding, raised, backlog, stop, engineOf, mem, frame,
      takeGate_lanesBut s l⟩

/-- Settles O25: the two ways to spill (`takeItem_spills`, `takeItem_changesBatch`), each followed by nothing or by the close
of the carry list. -/
theorem gateSpillsTheLabel : Obligations.GateSpillsTheLabel := by
  unfold Obligations.GateSpillsTheLabel
  intro l s r rest head due fate x item front settled count0
  have front_eq : (s.lane l).withoutHead r = front := withoutHead_cons head
  obtain ⟨mem, -⟩ := act_labelWork (f := (·.takeGate l)) (takeGate_labelWork s l)
  have gated : ∀ u, (s.setLane l front).takeItem l r = u → s.takeGate l = (u.testClose l r).afterGate l := by
    rintro u rfl
    rw [takeGate_eq s l r rest head due, front_eq]
  refine ⟨fun u notFilling spilled => ?noTray, fun tray k v u filling opened other closed spilled => ?batchChange⟩
  case noTray =>
    have taken : (s.setLane l front).takeItem l r = u := by
      rw [takeItem_spills fate (by rw [lane_setLane_self]; exact notFilling), lane_setLane_self, setLane_setLane,
        listMissing_eq, spilled]
      rfl
    refine ⟨taken, _, rfl, mem, act_eq (gated u taken), fun ⟨ordered, queued⟩ noStack => ?_⟩
    have lane : (u.lane l).spilledFrom x rest item := by
      rw [spilled, give_lane, lane_setLane_self, noStack]
      exact ⟨rfl, rfl, rfl, rfl, rfl, rfl⟩
    have holding : u.writer.holding = s.writer.holding := by rw [spilled, give_holding]; rfl
    obtain ⟨idle, closes⟩ := gateEnds_spilled (r := r) lane ordered queued
    exact ⟨fun more => act_eq ((gated u taken).trans (idle more)),
      fun last free room => act_eq ((gated u taken).trans (closes last free (holding ▸ room)))⟩
  case batchChange =>
    have taken : (s.setLane l front).takeItem l r = u := by
      rw [takeItem_changesBatch fate (by rw [lane_setLane_self]; exact filling) (by rw [lane_setLane_self]; exact opened)
        other closed, spilled]
      rfl
    refine ⟨taken, _, rfl, mem, act_eq (gated u taken), fun room => ?_⟩
    have changed := closeAndFault_open (s.setLane l front) l .batchChange k (by rw [lane_setLane_self]; exact opened)
      room tray (by rw [lane_setLane_self]; exact filling)
    rw [← closed, lane_setLane_self, setLane_setLane] at changed
    have lane : v.lane l = { front with openStack := none, trayPulse := true, stacker := .transferring tray } := by
      rw [changed, give_lane, holdingAs_lane, lane_setLane_self]
    rw [lane, changed, give_setLane, holdingAs_setLane, setLane_setLane] at spilled
    refine ⟨spilled, fun ⟨ordered, queued⟩ => ?_⟩
    have left : (u.lane l).spilledFrom x rest item := by
      rw [spilled, give_lane, give_lane, holdingAs_lane, lane_setLane_self]
      exact ⟨rfl, rfl, rfl, rfl, rfl, rfl⟩
    have holding : u.writer.holding.length = s.writer.holding.length + 1 := by
      rw [spilled, give_holding, give_holding]
      exact List.length_append
    obtain ⟨idle, closes⟩ := gateEnds_spilled (r := r) left ordered queued
    exact ⟨fun more => act_eq ((gated u taken).trans (idle more)),
      fun last free room => act_eq ((gated u taken).trans (closes last free (by omega)))⟩

end Sys2Proof.Proofs
end

section
/-! RECORD grants (06 R103, R106, 11 R176, R179): the word that each stores and where, and what leaves with the index word. -/

namespace Sys2Proof.Machine

/-! ## The state that a grant leaves -/

/-- A RECORD grant of a kind made in `s`, with its work's effect in `u` and on the writer. -/
def State.recordServed (s : State) (k : RecordKind) (u : State) (w : Writer) : State :=
  { u with
    arbiter := { s.arbiter with lastServed := .record }
    writer := { w with lastKind := k } }

/-- The state in which a RECORD grant of a kind does its work. -/
def State.recordGranted (s : State) (k : RecordKind) : State := (s.grantInternal .record).servedRecord k

theorem publishedWord_recordGranted (s : State) (k : RecordKind) (o : Nat) :
    (s.recordGranted k).publishedWord o = s.publishedWord o := rfl

/-- The end of a RECORD grant, given its work. -/
theorem serveRecord_eq {s u : State} {k : RecordKind} {w : Writer} {v : State}
    (work : (s.grantInternal .record).recordWork k = v)
    (effect : v.bookkeptAs (s.serveRecord k) = (s.recordServed k u w).bookkeptAs (s.serveRecord k)) :
    s.serveRecord k = (s.recordServed k u w).bookkeptAs (s.serveRecord k) :=
  serveRecord_bookkept s k _ (by rw [work, effect])

/-- A grant out of turn, or of a word where the other kind is due, has no effect (log 7). -/
theorem grant_outOfTurn {s t : State} {turn : Bool} {c : Prop} [Decidable c] (out : turn = false ∨ ¬ c) :
    (if turn = true ∧ c then t else s) = s :=
  if_neg fun ⟨inTurn, due⟩ => out.elim (Bool.eq_false_iff.mp · inTurn) (· due)

/-! ## Record words (06 R106, 11 R179) -/

theorem stackWork_head {s : State} {r : StackRecord} {rest : List StackRecord} (head : s.writer.holding = r :: rest) :
    s.stackWork = if s.writer.stackWords < 32 then s.storeStackWord r else s.completeStack r := by
  simp only [State.stackWork, head]; rfl

theorem storeStackWord_eq (s : State) (r : StackRecord) : s.storeStackWord r =
    { s.storeWord (s.regions.stackRing.base.toNat +
        32 * (s.writer.stackWrite.toNat % 2 ^ s.regions.stackRing.size.toNat) + s.writer.stackWords)
        (r.word s.writer.stackWords) with
      writer := { s.writer with
        stackWords := s.writer.stackWords + 1
        stackWrite := if s.writer.stackWords = 31 then s.writer.stackWrite + 1 else s.writer.stackWrite } } := by
  have last : (s.writer.stackWords + 1 = Config.stackRecordWords) = (s.writer.stackWords = 31) :=
    propext (Nat.succ_inj (b := 31))
  simp only [State.storeStackWord, last]
  rfl

theorem eventWork_head {s : State} {e : Event} {rest : List Event} (head : s.writer.events = e :: rest) :
    s.eventWork = if s.writer.eventWords < 4 then s.storeEventWord e else s.completeEvent := by
  simp only [State.eventWork, head]; rfl

theorem storeEventWord_eq (s : State) (e : Event) : s.storeEventWord e =
    { s.storeWord (s.regions.eventRing.base.toNat +
        4 * (s.writer.eventWrite.toNat % 2 ^ s.regions.eventRing.size.toNat) + s.writer.eventWords)
        (e.word s.writer.eventWords) with
      writer := { s.writer with
        eventWords := s.writer.eventWords + 1
        eventWrite := if s.writer.eventWords = 3 then s.writer.eventWrite + 1 else s.writer.eventWrite } } := by
  have last : (s.writer.eventWords + 1 = Config.eventRecordWords) = (s.writer.eventWords = 3) :=
    propext (Nat.succ_inj (b := 3))
  simp only [State.storeEventWord, last]
  rfl

/-! ## The index word and the parked record that takes the room (06 R103) -/

/-- The lane that a search from lane 0 finds is the lowest that meets the test. -/
theorem find_lowestLane {p : Lane → Bool} {l : Lane} (meets : p l = true)
    (lower : ∀ m : Lane, m.number < l.number → p m = false) : Lane.inOrder.find? p = some l := by
  have cut : Lane.inOrder = Lane.inOrder.take l.number ++ l :: Lane.inOrder.drop (l.number + 1) := by cases l <;> rfl
  have before : ∀ m ∈ Lane.inOrder.take l.number, m.number < l.number := by cases l <;> decide
  rw [cut]
  exact find_split (fun m hm => lower m (before m hm)) meets

theorem unpark_none {s : State} (free : ∀ l, (s.lane l).parked = none) : s.unpark = s := by
  have noLane : s.parkedLane = none := List.find?_eq_none.mpr fun l _ => by simp [free l]
  simp only [State.unpark, noLane]

theorem unpark_lowest {s : State} {l : Lane} {p : StackRecord} (parked : (s.lane l).parked = some p)
    (lower : ∀ m : Lane, m.number < l.number → (s.lane m).parked = none) : s.unpark = s.takeParked l p := by
  have first : s.parkedLane = some l :=
    find_lowestLane (by simp [parked]) fun m hm => by simp [lower m hm]
  simp only [State.unpark, first, parked]
  rfl

/-- The stack write index word stored and the head record gone, its labels written. -/
def State.stackPublished (s : State) (r : StackRecord) (rest : List StackRecord) : State :=
  { (s.setLane r.lane { s.lane r.lane with written := (s.lane r.lane).written + r.labels }).storeWord (4193792 + 0x090)
      (s.writer.stackWrite.setWidth 32) with
    writer := { s.writer with stackWords := 0, holding := rest } }

theorem completeStack_eq (s : State) (r : StackRecord) :
    s.completeStack r = (s.stackPublished r s.writer.holding.tail).unpark := by
  simp only [State.completeStack, publishedWord_stackWrite]
  rfl

theorem stackPublished_parked (s : State) (r : StackRecord) (rest : List StackRecord) (m : Lane) :
    ((s.stackPublished r rest).lane m).parked = (s.lane m).parked := by
  show ((s.setLane r.lane _).lane m).parked = _
  by_cases own : m = r.lane
  · rw [own, lane_setLane_self]
  · rw [lane_setLane_other _ _ own]

/-- A parked record is taken whatever the arbiter and the writer hold. -/
theorem takeParked_with (u : State) (a : Arbiter) (w : Writer) (l : Lane) (p : StackRecord) :
    State.takeParked { u with arbiter := a, writer := w } l p =
      { u.setLane l { u.lane l with parked := none } with
        arbiter := a, writer := { w with holding := w.holding ++ [p] } } := rfl

theorem completeEvent_eq (s : State) : s.completeEvent =
    { s.storeWord (4193792 + 0x092) (s.writer.eventWrite.setWidth 32) with
      writer := { s.writer with eventWords := 0, events := s.writer.events.tail } } := by
  simp only [State.completeEvent, publishedWord_eventWrite]
  rfl

/-! ## Status words (11 R176) -/

theorem storeStatusWord_head {s : State} {o : Nat} {rest : List Nat} (head : s.writer.publication = o :: rest) :
    s.storeStatusWord = (s.storeWord (4193792 + o) (s.publishedWord o)).setPublication rest := by
  simp only [State.storeStatusWord, head]; rfl

/-- The end of a step whose work changed no published word places none. -/
theorem commitExcept_publication_same {p q : State} (x : List Nat) (same : ∀ o, q.publishedWord o = p.publishedWord o) :
    (State.commitExcept p q x).writer.publication = q.writer.publication := by
  have none : changedWords p q x = [] := List.filter_eq_nil_iff.mpr fun o _ => by simp [same o]
  show q.writer.publication ++ (changedWords p q x).filter _ = _
  rw [none, List.filter_nil, List.append_nil]

end Sys2Proof.Machine

namespace Sys2Proof.Proofs

open Sys2Proof.Machine

/-- Settles O54: each grant's work on the state in which it is made (`stackWork_head`, `eventWork_head`,
`storeStatusWord_head`), with the parked record of the lowest lane taking the room of the record that leaves. -/
theorem recordGrantsWork : Obligations.RecordGrantsWork := by
  unfold Obligations.RecordGrantsWork
  intro s served answers
  refine ⟨fun out => congrArg Host.Outcome.next (grant_outOfTurn (out.imp_right Nat.not_lt.mpr)),
    fun out => congrArg Host.Outcome.next (grant_outOfTurn (out.imp_right Nat.not_le.mpr)),
    fun out => congrArg Host.Outcome.next (grant_outOfTurn (out.imp_right Nat.not_lt.mpr)),
    fun out => congrArg Host.Outcome.next (grant_outOfTurn (out.imp_right Nat.not_le.mpr)),
    fun out => congrArg Host.Outcome.next (if_neg (Bool.eq_false_iff.mp out)),
    fun r rest k slot turn head words place => ⟨fun more => ?stackWord, fun u whole stored => ?stackIndex⟩,
    fun e rest k slot turn head words place => ⟨fun more => ?eventWord, fun whole => ?eventIndex⟩,
    fun o rest turn head => ?status⟩
  case stackWord =>
    subst words place
    have head' : (s.recordGranted .stack).writer.holding = r :: rest := head
    have work := (stackWork_head head').trans ((if_pos more).trans (storeStackWord_eq _ r))
    exact ⟨_, congrArg Host.Outcome.next (if_pos ⟨turn, more⟩), serveRecord_eq work rfl⟩
  case stackIndex =>
    subst words
    have grants : exec .stackPublicationComplete s = .next (s.serveRecord .stack) :=
      congrArg Host.Outcome.next (if_pos ⟨turn, whole⟩)
    have head' : (s.recordGranted .stack).writer.holding = r :: rest := head
    have work := (stackWork_head head').trans ((if_neg (Nat.not_lt.mpr whole)).trans (completeStack_eq _ r))
    rw [head', List.tail_cons] at work
    have published : (s.recordGranted .stack).stackPublished r rest = { u with
        arbiter := (s.recordGranted .stack).arbiter
        writer := { (s.recordGranted .stack).writer with stackWords := 0, holding := rest } } := by
      rw [stored]; rfl
    have kept := stackPublished_parked (s.recordGranted .stack) r rest
    refine ⟨fun free => ⟨_, grants, ?_⟩, fun l p parked lower => ⟨_, grants, ?_⟩⟩
    · rw [unpark_none fun l => (kept l).trans (free l), published] at work
      exact serveRecord_eq work rfl
    · rw [unpark_lowest ((kept l).trans parked) fun m hm => (kept m).trans (lower m hm), published,
        takeParked_with] at work
      exact serveRecord_eq work rfl
  case eventWord =>
    subst words place
    have head' : (s.recordGranted .event).writer.events = e :: rest := head
    have work := (eventWork_head head').trans ((if_pos more).trans (storeEventWord_eq _ e))
    exact ⟨_, congrArg Host.Outcome.next (if_pos ⟨turn, more⟩), serveRecord_eq work rfl⟩
  case eventIndex =>
    subst words
    have head' : (s.recordGranted .event).writer.events = e :: rest := head
    have work := (eventWork_head head').trans ((if_neg (Nat.not_lt.mpr whole)).trans (completeEvent_eq _))
    rw [head', List.tail_cons] at work
    exact ⟨_, congrArg Host.Outcome.next (if_pos ⟨turn, whole⟩), serveRecord_eq work rfl⟩
  case status =>
    have head' : (s.recordGranted .status).writer.publication = o :: rest := head
    have work := storeStatusWord_head head'
    refine ⟨_, congrArg Host.Outcome.next (if_pos turn), ?_, serveRecord_eq work rfl⟩
    show (State.commitExcept s (s.recordGranted .status).storeStatusWord indexOffsets).writer.publication = rest
    rw [work]
    exact commitExcept_publication_same (p := s) indexOffsets (publishedWord_recordGranted s .status)

end Sys2Proof.Proofs
end

section
/-! What holds of a lane by itself (`LaneState.sound`), field group by field group, through the changes that the blocks
make to one lane: its records, its stack and parked slot, its service state. -/

namespace Sys2Proof.Machine

/-! ## Service states -/

theorem not_serves_of_idle {v : Service} (h : v = .off ∨ v = .bypassed) : ¬ v.serves := by
  rcases h with rfl | rfl <;> simp [Service.serves]

theorem not_serves_of_faulted {v : Service} (h : v.isFaulted = true) : ¬ v.serves := by
  rintro (rfl | rfl) <;> exact absurd h (by decide)

theorem not_faulted_of_idle {v : Service} {c : FaultCause} (h : v = .off ∨ v = .bypassed) : v ≠ .faulted c := by
  rcases h with rfl | rfl <;> simp

theorem takesFault_of_serves {v : Service} (h : v.serves) : v.takesFault := Or.inr h

/-! ## The records of a queue -/

/-- `r'` has the slot of `r` and every flag of `r` that soundness asks for. -/
def LabelRecord.flagsKept (r r' : LabelRecord) : Prop :=
  r'.slot = r.slot ∧ (r.flags.orderless = true → r'.flags.orderless = true) ∧
    (r.flags.drain = true → r'.flags.drain = true) ∧ (r.flags.anyFault = true → r'.flags.anyFault = true) ∧
    (r.flags.laneFault = true → r'.flags.laneFault = true)

theorem flagsKept_refl (r : LabelRecord) : r.flagsKept r := ⟨rfl, id, id, id, id⟩

theorem flagsKept_of_flags {r r' : LabelRecord} (slot : r'.slot = r.slot) (flags : r'.flags = r.flags) :
    r.flagsKept r' := by
  unfold LabelRecord.flagsKept
  rw [flags]
  exact ⟨slot, id, id, id, id⟩

theorem flagSplice_flagsKept (r : LabelRecord) : r.flagsKept r.flagSplice :=
  ⟨rfl, id, id, fun _ => by simp [LabelRecord.flagSplice, LabelFlags.anyFault], id⟩

theorem flagLaneFault_flagsKept (r : LabelRecord) : r.flagsKept r.flagLaneFault :=
  ⟨rfl, id, id, fun _ => by simp [LabelRecord.flagLaneFault, LabelFlags.anyFault], fun _ => rfl⟩

theorem flagJoined_flagsKept (r : LabelRecord) : r.flagsKept r.flagJoined :=
  ⟨rfl, id, id, fun _ => by simp [LabelRecord.flagJoined, LabelFlags.anyFault], id⟩

theorem splicedAt_flagsKept (r : LabelRecord) (p : WebPos) : r.flagsKept (r.splicedAt p) := by
  unfold LabelRecord.splicedAt
  split
  · exact flagSplice_flagsKept r
  · exact flagsKept_refl r

theorem close_flagsKept (r : LabelRecord) (p : UndecidedPolicy) : r.flagsKept (r.close p) := by
  unfold LabelRecord.close
  split
  · exact ⟨rfl, id, id, id, id⟩
  · exact flagsKept_of_flags rfl rfl

theorem atCut_flagsKept (r : LabelRecord) (permitted faulted : Bool) : r.flagsKept (r.atCut permitted faulted) := by
  unfold LabelRecord.atCut
  split
  · exact flagsKept_of_flags rfl rfl
  · split
    · exact flagsKept_of_flags rfl rfl
    · refine ⟨rfl, id, id, fun h => ?_, fun h => ?_⟩
      · rw [anyFault_iff] at h ⊢
        simp only [Bool.or_eq_true]
        tauto
      · simp only [h, Bool.true_or]

theorem miss_flagsKept (r : LabelRecord) : r.flagsKept r.dropConfirm.miss :=
  ⟨rfl, id, id, fun _ => by simp [LabelRecord.miss, LabelFlags.anyFault], id⟩

/-- Every record of `q'` is a record of `q` with its flags kept. -/
def flagsKeptIn (q q' : List LabelRecord) : Prop := ∀ r' ∈ q', ∃ r ∈ q, r.flagsKept r'

theorem flagsKeptIn_of_subset {q q' : List LabelRecord} (h : q' ⊆ q) : flagsKeptIn q q' :=
  fun r m => ⟨r, h m, flagsKept_refl r⟩

theorem flagsKeptIn_nil {q : List LabelRecord} (h : flagsKeptIn [] q) : q = [] :=
  List.eq_nil_iff_forall_not_mem.mpr fun r m => by obtain ⟨_, no, _⟩ := h r m; cases no

theorem flagsKeptIn_map {f : LabelRecord → LabelRecord} (h : ∀ r : LabelRecord, r.flagsKept (f r))
    (q : List LabelRecord) : flagsKeptIn q (q.map f) := by
  intro r' m
  obtain ⟨r, hr, rfl⟩ := List.mem_map.mp m
  exact ⟨r, hr, h r⟩

theorem flagsKeptIn_cons {r r' : LabelRecord} {q q' : List LabelRecord} (head : r.flagsKept r')
    (tail : flagsKeptIn q q') : flagsKeptIn (r :: q) (r' :: q') := by
  intro u m
  rcases List.mem_cons.mp m with rfl | m
  · exact ⟨r, by simp, head⟩
  · obtain ⟨v, hv, k⟩ := tail u m
    exact ⟨v, by simp [hv], k⟩

theorem flagsKeptIn_updateFirst {p : LabelRecord → Bool} {f : LabelRecord → LabelRecord}
    (h : ∀ r : LabelRecord, r.flagsKept (f r)) (q : List LabelRecord) : flagsKeptIn q (updateFirst p f q) := by
  induction q with
  | nil => exact flagsKeptIn_of_subset (List.Subset.refl _)
  | cons r q ih =>
    unfold updateFirst
    split
    · exact flagsKeptIn_cons (h r) (flagsKeptIn_of_subset (List.Subset.refl _))
    · exact flagsKeptIn_cons (flagsKept_refl r) ih

theorem flagsKeptIn_confirmQueue (q : List LabelRecord) : flagsKeptIn q (confirmQueue q) := by
  induction q with
  | nil => exact flagsKeptIn_of_subset (List.Subset.refl _)
  | cons r q ih =>
    have same : flagsKeptIn q q := flagsKeptIn_of_subset (List.Subset.refl _)
    unfold confirmQueue
    split
    · split
      · cases q with
        | nil => exact flagsKeptIn_cons (miss_flagsKept r) same
        | cons f fs =>
          exact flagsKeptIn_cons (miss_flagsKept r)
            (flagsKeptIn_cons (flagJoined_flagsKept f) (flagsKeptIn_of_subset (List.Subset.refl _)))
      · exact flagsKeptIn_cons (flagsKept_of_flags rfl rfl) same
    · exact flagsKeptIn_cons (flagsKept_refl r) ih

theorem updateFirst_eq_nil {α : Type} {p : α → Bool} {f : α → α} {q : List α} (h : updateFirst p f q = []) :
    q = [] := by
  cases q with
  | nil => rfl
  | cons r q => unfold updateFirst at h; split at h <;> exact absurd h (by simp)

theorem confirmQueue_eq_nil {q : List LabelRecord} (h : confirmQueue q = []) : q = [] := by
  cases q with
  | nil => rfl
  | cons r q =>
    unfold confirmQueue at h
    split at h
    · split at h <;> exact absurd h (by simp)
    · exact absurd h (by simp)

/-! ## The lane but for its stack -/

/-- The lane without its open stack and its parked record: what of `LaneState.sound` concerns queue, window, tracker and
service state alone holds of it alone. -/
def LaneState.bare (x : LaneState) : LaneState := { x with openStack := none, parked := none }

/-- What holds of the stack and the parked slot in every service state. -/
def LaneState.stackHolds (x : LaneState) (l : Lane) : Prop :=
  (∀ k, x.openStack = some k → x.stacker = .filling k.tray ∧ x.carry.isEmpty = true ∧ x.parked = none) ∧
    ∀ r, x.parked = some r → r.lane = l

/-- A lane whose stack a close may take: sound but that it may be OFF, or FAULTED with no record queued, with its stack
still open. -/
structure LaneState.closing (x : LaneState) (l : Lane) : Prop where
  bare   : x.bare.sound l
  stack  : x.stackHolds l
  parked : x.parked ≠ none → ¬ x.service.serves

/-- A lane sound but that it may have run out with its stack still open (06 R99). -/
structure LaneState.standing (x : LaneState) (l : Lane) : Prop extends x.closing l where
  closed : x.service = .off ∨ x.service = .bypassed → x.openStack = none

theorem standing_of_sound {x : LaneState} {l : Lane} (h : x.sound l) : x.standing l where
  bare := { h with
    filling := fun _ k => nomatch k
    closed := fun _ => rfl
    ranOut := fun _ _ => rfl
    parked := fun _ k => nomatch k }
  stack := by
    refine ⟨fun k hk => ?_, fun r hr => (h.parked r hr).2.2⟩
    obtain ⟨stacker, carry⟩ := h.filling k hk
    refine ⟨stacker, carry, Option.eq_none_iff_forall_ne_some.mpr fun r hr => ?_⟩
    exact absurd (h.parked r hr).1 (by simp [hk])
  parked := fun hp => by
    obtain ⟨r, hr⟩ := Option.ne_none_iff_exists'.mp hp
    exact (h.parked r hr).2.1
  closed := h.closed

theorem sound_of_standing {x : LaneState} {l : Lane} (h : x.standing l)
    (ranOut : x.service.isFaulted = true → x.queue = [] → x.openStack = none) : x.sound l := by
  obtain ⟨⟨bare, ⟨stack, own⟩, parked⟩, closed⟩ := h
  refine { bare with
    filling := fun k hk => ⟨(stack k hk).1, (stack k hk).2.1⟩
    closed := closed
    ranOut := ranOut
    parked := fun r hr => ⟨?_, parked (by simp [hr]), own r hr⟩ }
  refine Option.eq_none_iff_forall_ne_some.mpr fun k hk => ?_
  exact absurd (stack k hk).2.2 (by simp [hr])

theorem sound_of_noStack {x : LaneState} {l : Lane} (h : x.closing l) (none : x.openStack = none) : x.sound l :=
  sound_of_standing { h with closed := fun _ => none } fun _ _ => none

theorem standing_of_bare {x y : LaneState} {l : Lane} (h : x.standing l) (bare : y.bare.sound l)
    (service : y.service = x.service) (stacker : y.stacker = x.stacker)
    (stack : y.openStack = x.openStack ∧ y.carry = x.carry ∧ y.parked = x.parked) : y.standing l := by
  obtain ⟨⟨_, stands, parked⟩, closed⟩ := h
  obtain ⟨openStack, carry, slot⟩ := stack
  constructor
  · constructor
    · exact bare
    · unfold LaneState.stackHolds at *
      rw [openStack, carry, slot, stacker]
      exact stands
    · rw [slot, service]; exact parked
  · rw [service, openStack]; exact closed

/-! ## Changes of one lane -/

/-- The queue replaced by one whose records keep their flags. -/
theorem sound_setQueue {x : LaneState} {l : Lane} {q : List LabelRecord} (h : x.sound l) (kept : flagsKeptIn x.queue q)
    (ranOut : q = [] → x.queue = [] ∨ x.openStack = none) : ({ x with queue := q } : LaneState).sound l where
  orderless := fun r' m hs => by
    obtain ⟨r, hr, slot, orderless, drain, _⟩ := kept r' m
    exact (h.orderless r hr (slot ▸ hs)).imp orderless drain
  flagged := fun hv r' m => by
    obtain ⟨r, hr, _, _, _, anyFault, _⟩ := kept r' m
    exact anyFault (h.flagged hv r hr)
  faulted := fun hv r' m => by
    obtain ⟨r, hr, _, _, _, _, laneFault⟩ := kept r' m
    exact laneFault (h.faulted hv r hr)
  noOrder := fun hv r' m => by
    obtain ⟨r, hr, slot, _⟩ := kept r' m
    rw [slot]; exact h.noOrder hv r hr
  noWindow := h.noWindow
  filling := h.filling
  closed := h.closed
  ranOut := fun hv hq => (ranOut hq).elim (h.ranOut hv) id
  parked := h.parked
  synthetic := h.synthetic

/-- A lane fault flags every record and empties the window (07 R120). -/
theorem faultedBy_bare {x : LaneState} {l : Lane} (c : FaultCause)
    (orderless : ∀ r ∈ x.queue, r.slot = none → r.flags.orderless = true ∨ r.flags.drain = true)
    (synthetic : x.tracker.synthetic ≤ 3) : (x.faultedBy c).rewound.bare.sound l where
  orderless := fun r' m hs => by
    obtain ⟨r, hr, rfl⟩ := List.mem_map.mp m
    exact orderless r hr hs
  flagged := fun _ r' m => by
    obtain ⟨r, _, rfl⟩ := List.mem_map.mp m
    simp [LabelRecord.flagLaneFault, LabelFlags.anyFault]
  faulted := fun _ r' m => by
    obtain ⟨r, _, rfl⟩ := List.mem_map.mp m
    rfl
  noOrder := fun hv => absurd rfl (not_faulted_of_idle (c := c) hv)
  noWindow := fun _ => ⟨rfl, rfl⟩
  filling := fun _ k => nomatch k
  closed := fun _ => rfl
  ranOut := fun _ _ => rfl
  parked := fun _ k => nomatch k
  synthetic := ⟨synthetic, fun hv => absurd hv (not_serves_of_faulted rfl)⟩

end Sys2Proof.Machine
end

section
/-! What holds of engine and lanes together, lane by lane (`State.holdsAt`), and how it stands through lane faults,
closes and completions (07 R116, R120). -/

namespace Sys2Proof.Machine

/-! ## Soundness lane by lane -/

/-- What the engine state and the map lock ask of a lane. -/
structure LaneState.fits (x : LaneState) (e : EngineState) (locked : Bool) : Prop where
  active   : x.service = .active → e = .running
  draining : x.service = .draining → e = .running ∨ e = .draining
  halted   : e = .halted → x.queue = [] ∧ x.service.isFaulted = false ∧ x.gate = .reject
  gate     : x.service.isFaulted = true ∨ x.service = .bypassed → x.gate = .reject
  unlocked : locked = false → x.untouched

theorem labelWork_locked {s t : State} (h : s.labelWorkOnly t) : t.regions.locked = s.regions.locked := by
  rw [h]; rfl

/-- What `State.sound` says of one lane. -/
structure State.holdsAt (s : State) (l : Lane) : Prop where
  lane  : (s.lane l).sound l
  fits  : (s.lane l).fits s.engine.state s.regions.locked
  early : ∀ e ∈ s.early, e.lane = l → (s.lane l).service.serves

/-- Under a RUNNING engine some lane is ACTIVE (07 R115, R120). -/
def State.runs (s : State) : Prop := s.engine.state = .running → ∃ l, (s.lane l).service = .active

theorem holdsAt_of_sound {s : State} (h : s.sound) (l : Lane) : s.holdsAt l where
  lane := h.lanes l
  fits :=
    { active := fun v => by
        cases e : s.engine.state with
        | running => rfl
        | draining => exact absurd v (h.draining e l)
        | stopped => exact absurd (Or.inl v) (h.stopped (.inl e) l)
        | halted => exact absurd (Or.inl v) (h.stopped (.inr e) l)
      draining := fun v => by
        cases e : s.engine.state with
        | running => exact .inl rfl
        | draining => exact .inr rfl
        | stopped => exact absurd (Or.inr v) (h.stopped (.inl e) l)
        | halted => exact absurd (Or.inr v) (h.stopped (.inr e) l)
      halted := fun e => ⟨(h.halted e l).1, (h.halted e l).2, h.gates l (.inl e)⟩
      gate := fun v => h.gates l (.inr v)
      unlocked := fun k => h.unlocked k l }
  early := fun e m k => k ▸ h.early e m

theorem sound_of_holdsAt {s : State} (h : ∀ l, s.holdsAt l) (runs : s.runs) : s.sound where
  lanes l := (h l).lane
  stopped := fun e l v => by
    rcases v with v | v
    · have := (h l).fits.active v
      rcases e with e | e <;> rw [e] at this <;> cases this
    · have := (h l).fits.draining v
      rcases e with e | e <;> rw [e] at this <;> rcases this with k | k <;> cases k
  draining := fun e l v => by
    have := (h l).fits.active v
    rw [e] at this; cases this
  running := runs
  halted := fun e l => ⟨((h l).fits.halted e).1, ((h l).fits.halted e).2.1⟩
  gates := fun l v => by
    rcases v with e | v
    · exact ((h l).fits.halted e).2.2
    · exact (h l).fits.gate v
  early := fun e m => (h e.lane).early e m rfl
  unlocked := fun k l => (h l).fits.unlocked k

/-! ## A change of one lane -/

/-- A lane that stays as it is, under an engine state that does not change. -/
theorem holdsAt_of_same {s t : State} {l : Lane} (h : s.holdsAt l) (lane : t.lane l = s.lane l)
    (engine : t.engine.state = s.engine.state) (early : t.early ⊆ s.early)
    (locked : t.regions.locked = s.regions.locked) : t.holdsAt l where
  lane := lane ▸ h.lane
  fits := by rw [lane, engine, locked]; exact h.fits
  early := fun e m k => by rw [lane]; exact h.early e (early m) k

/-- `t` has the lanes, the early table, the engine state and the lock of `s`. -/
def State.controlKept (s t : State) : Prop :=
  t.lanes = s.lanes ∧ t.early = s.early ∧ t.engine.state = s.engine.state ∧ t.regions.locked = s.regions.locked

theorem reportOnly_controlKept {s t : State} (h : s.reportOnly t) : s.controlKept t := by
  rw [h]; exact ⟨rfl, rfl, rfl, rfl⟩

theorem controlKept_lane {s t : State} (k : s.controlKept t) (l : Lane) : t.lane l = s.lane l := by
  unfold State.lane; rw [k.1]

theorem runs_of_same {s t : State} (h : s.runs) (engine : t.engine.state = s.engine.state)
    (services : ∀ m, (s.lane m).service = .active → (t.lane m).service = .active) : t.runs := by
  intro e
  obtain ⟨m, v⟩ := h (engine ▸ e)
  exact ⟨m, services m v⟩

theorem sound_of_controlKept {s t : State} (k : s.controlKept t) (h : s.sound) : t.sound := by
  have lane := controlKept_lane k
  obtain ⟨-, early, engine, locked⟩ := k
  exact sound_of_holdsAt (fun l => holdsAt_of_same (holdsAt_of_sound h l) (lane l) engine (by rw [early]; simp) locked)
    (runs_of_same h.running engine fun l v => by rw [lane]; exact v)

/-- `y` asks no more of the engine than `x` does: service state and GATE are those of `x`, and nothing has appeared in
an empty or untouched lane. -/
structure LaneState.asksNoMore (x y : LaneState) : Prop where
  service   : y.service = x.service
  gate      : y.gate = x.gate
  queue     : x.queue = [] → y.queue = []
  untouched : x.untouched → y.untouched

theorem fits_of_asksNoMore {x y : LaneState} {e : EngineState} {k : Bool} (a : x.asksNoMore y) (h : x.fits e k) :
    y.fits e k where
  active := by rw [a.service]; exact h.active
  draining := by rw [a.service]; exact h.draining
  halted := fun c => by
    rw [a.service, a.gate]
    exact ⟨a.queue (h.halted c).1, (h.halted c).2⟩
  gate := by rw [a.service, a.gate]; exact h.gate
  unlocked := fun c => a.untouched (h.unlocked c)

/-- Every lane changed to a sound one that asks no more of the engine. -/
theorem sound_of_lanes {s t : State} (h : s.sound) (early : t.early ⊆ s.early)
    (engine : t.engine.state = s.engine.state) (locked : t.regions.locked = s.regions.locked)
    (lanes : ∀ l, (t.lane l).sound l ∧ (s.lane l).asksNoMore (t.lane l)) : t.sound := by
  refine sound_of_holdsAt (fun l => ?_) fun e => ?_
  · obtain ⟨lane, asks⟩ := lanes l
    have g := holdsAt_of_sound h l
    refine ⟨lane, ?_, fun e m k => ?_⟩
    · rw [engine, locked]; exact fits_of_asksNoMore asks g.fits
    · rw [asks.service]; exact g.early e (early m) k
  · obtain ⟨l, v⟩ := h.running (engine ▸ e)
    exact ⟨l, by rw [(lanes l).2.service]; exact v⟩

theorem asksNoMore_refl (x : LaneState) : x.asksNoMore x := ⟨rfl, rfl, id, id⟩

/-- One lane changed to a sound one that asks no more of the engine. -/
theorem sound_setLane {s : State} {l : Lane} {y : LaneState} (h : s.sound) (lane : y.sound l)
    (asks : (s.lane l).asksNoMore y) : (s.setLane l y).sound := by
  refine sound_of_lanes h (by simp) rfl rfl fun m => ?_
  by_cases e : m = l
  · subst e; rw [lane_setLane_self]; exact ⟨lane, asks⟩
  · rw [lane_setLane_other _ _ e]; exact ⟨h.lanes m, asksNoMore_refl _⟩

/-! ## An engine in use -/

/-- The map is locked and the engine is not HALTED: labels may be under way. -/
def State.inUse (s : State) : Prop := s.regions.locked = true ∧ s.engine.state ≠ .halted

theorem inUse_of_same {s t : State} (h : s.inUse) (engine : t.engine.state = s.engine.state)
    (locked : t.regions.locked = s.regions.locked) : t.inUse := by
  unfold State.inUse; rw [engine, locked]; exact h

/-- Sound, with the engine in use. -/
def State.goesOn (s : State) : Prop := s.inUse ∧ s.sound

/-- In use and sound lane by lane: a RUNNING engine may be without an ACTIVE lane, as it is before the engine's test. -/
def State.works (s : State) : Prop := s.inUse ∧ ∀ l, s.holdsAt l

theorem works_of_goesOn {s : State} (h : s.goesOn) : s.works := ⟨h.1, holdsAt_of_sound h.2⟩

theorem goesOn_of_works {s : State} (h : s.works) (runs : s.runs) : s.goesOn := ⟨h.1, sound_of_holdsAt h.2 runs⟩

theorem runs_of_controlKept {s t : State} (k : s.controlKept t) (h : s.runs) : t.runs :=
  runs_of_same h k.2.2.1 fun m v => by rw [controlKept_lane k]; exact v

theorem works_of_controlKept {s t : State} (k : s.controlKept t) (h : s.works) : t.works :=
  ⟨inUse_of_same h.1 k.2.2.1 k.2.2.2, fun l =>
    holdsAt_of_same (h.2 l) (controlKept_lane k l) k.2.2.1 (by rw [k.2.1]; simp) k.2.2.2⟩

theorem goesOn_of_controlKept {s t : State} (k : s.controlKept t) (h : s.goesOn) : t.goesOn :=
  goesOn_of_works (works_of_controlKept k (works_of_goesOn h)) (runs_of_controlKept k h.2.running)

/-- The engine is in use and every lane but `l` is as it should be. -/
def State.aside (s : State) (l : Lane) : Prop := s.inUse ∧ ∀ m, m ≠ l → s.holdsAt m

theorem inUse_of_touched {s : State} {l : Lane} (h : s.sound) (touched : ¬ (s.lane l).untouched)
    (notHalted : s.engine.state ≠ .halted) : s.inUse := by
  refine ⟨?_, notHalted⟩
  cases k : s.regions.locked with
  | true => rfl
  | false => exact absurd (h.unlocked k l) touched

theorem aside_of_goesOn {s : State} (h : s.goesOn) (l : Lane) : s.aside l :=
  ⟨h.1, fun m _ => holdsAt_of_sound h.2 m⟩

theorem aside_of_but {s t : State} {l : Lane} (h : s.aside l) (others : s.lanesBut l t)
    (engine : t.engine.state = s.engine.state) (early : t.early ⊆ s.early)
    (locked : t.regions.locked = s.regions.locked) : t.aside l :=
  ⟨inUse_of_same h.1 engine locked, fun m n => holdsAt_of_same (h.2 m n) (others m n) engine early locked⟩

/-- What the engine state asks of a lane while the engine is in use. -/
theorem fits_of_inUse {s : State} {x : LaneState} (h : s.inUse)
    (active : x.service = .active → s.engine.state = .running)
    (draining : x.service = .draining → s.engine.state = .running ∨ s.engine.state = .draining)
    (gate : x.service.isFaulted = true ∨ x.service = .bypassed → x.gate = .reject) :
    x.fits s.engine.state s.regions.locked where
  active := active
  draining := draining
  halted := fun e => absurd e h.2
  gate := gate
  unlocked := fun k => absurd k (by rw [h.1]; decide)

theorem works_of_aside {s : State} {l : Lane} (h : s.aside l) (own : s.holdsAt l) : s.works :=
  ⟨h.1, fun m => by
    by_cases e : m = l
    · exact e ▸ own
    · exact h.2 m e⟩

theorem goesOn_of_aside {s : State} {l : Lane} (h : s.aside l) (own : s.holdsAt l) (runs : s.runs) : s.goesOn :=
  goesOn_of_works (works_of_aside h own) runs

/-! ## The engine's own tests -/

theorem holdsAt_stopped {s t : State} {l : Lane} (h : s.holdsAt l) (lane : t.lane l = s.lane l)
    (idle : ¬ (s.lane l).service.serves) (stopped : t.engine.state = .stopped) (early : t.early = s.early)
    (locked : t.regions.locked = s.regions.locked) : t.holdsAt l where
  lane := lane ▸ h.lane
  fits := by
    rw [lane, locked, stopped]
    exact ⟨fun v => absurd (.inl v) idle, fun v => absurd (.inr v) idle, nofun, h.fits.gate, h.fits.unlocked⟩
  early := fun e m k => by rw [lane]; exact h.early e (early ▸ m) k

theorem testStopped_inUse {s : State} (h : s.inUse) : s.testStopped.inUse := by
  refine ⟨?_, ?_⟩
  · rw [labelWork_locked (testStopped_labelWork s)]; exact h.1
  · rw [testStopped_engine]
    dsimp only
    split
    · decide
    · exact h.2

theorem testStopped_holdsAt {s : State} {l : Lane} (h : s.holdsAt l) : s.testStopped.holdsAt l := by
  have locked : s.testStopped.regions.locked = s.regions.locked := labelWork_locked (testStopped_labelWork s)
  have engine : s.testStopped.engine.state = _ := congrArg Engine.state (testStopped_engine s)
  by_cases k : s.engine.state = .draining ∧ s.runOutDone = true
  · obtain ⟨notActive, notDraining, _⟩ := (runOutDone_iff s).mp k.2 l
    exact holdsAt_stopped h (testStopped_lane s l) (not_or.mpr ⟨notActive, notDraining⟩)
      (engine.trans (if_pos k)) (testStopped_early s) locked
  · exact holdsAt_of_same h (testStopped_lane s l) (engine.trans (if_neg k)) (by rw [testStopped_early]; simp) locked

theorem testStopped_runs {s : State} (h : s.runs) : s.testStopped.runs := by
  intro e
  rw [testStopped_engine] at e
  dsimp only at e
  split at e
  · cases e
  · obtain ⟨l, v⟩ := h e
    exact ⟨l, by rw [testStopped_lane]; exact v⟩

theorem testStopped_works {s : State} (h : s.works) : s.testStopped.works :=
  ⟨testStopped_inUse h.1, fun l => testStopped_holdsAt (h.2 l)⟩

theorem testStopped_goesOn {s : State} (h : s.goesOn) : s.testStopped.goesOn :=
  goesOn_of_works (testStopped_works (works_of_goesOn h)) (testStopped_runs h.2.running)

/-- A RUNNING engine without an ACTIVE lane becomes DRAINING. -/
theorem setDraining_holdsAt {s : State} {l : Lane} (h : s.holdsAt l) (n : (s.lane l).service ≠ .active) :
    (s.setEngine .draining).holdsAt l where
  lane := h.lane
  fits := ⟨fun v => absurd v n, fun _ => .inr rfl, nofun, h.fits.gate, h.fits.unlocked⟩
  early := h.early

/-- The engine's tests after a change of the lanes: whether or not a lane was ACTIVE, the engine state fits. -/
theorem settleEngine_goesOn {s : State} (works : s.works) : s.settleEngine.goesOn := by
  obtain ⟨use, h⟩ := works
  unfold State.settleEngine
  by_cases k : s.engine.state = .running ∧ s.noLaneActive = true
  · have idle := (noLaneActive_iff s).mp k.2
    rw [if_pos k]
    exact testStopped_goesOn ⟨⟨use.1, nofun⟩, sound_of_holdsAt (fun l => setDraining_holdsAt (h l) (idle l)) nofun⟩
  · rw [if_neg k]
    refine testStopped_goesOn ⟨use, sound_of_holdsAt h fun e => ?_⟩
    by_contra none
    exact k ⟨e, (noLaneActive_iff s).mpr fun m v => none ⟨m, v⟩⟩

/-! ## Run-out, lane faults and closes -/

theorem closedFrom_service {x y : LaneState} (h : y.closedFrom x) : y.service = x.service ∧ y.gate = x.gate := by
  rw [h]; exact ⟨rfl, rfl⟩

/-- The lane but for its stack is queue, window, tracker and service state. -/
theorem bare_of_parts {x y : LaneState} {l : Lane} (h : x.bare.sound l) (service : y.service = x.service)
    (queue : y.queue = x.queue) (window : y.window = x.window) (reservation : y.reservation = x.reservation)
    (tracker : y.tracker = x.tracker) : y.bare.sound l where
  orderless := queue ▸ h.orderless
  flagged := queue ▸ service ▸ h.flagged
  faulted := queue ▸ service ▸ h.faulted
  noOrder := queue ▸ service ▸ h.noOrder
  noWindow := window ▸ reservation ▸ service ▸ h.noWindow
  filling := nofun
  closed := fun _ => rfl
  ranOut := fun _ _ => rfl
  parked := nofun
  synthetic := tracker ▸ service ▸ h.synthetic

/-- A close keeps queue, window, tracker and service state. -/
theorem closedFrom_bare {x y : LaneState} {l : Lane} (c : y.closedFrom x) (h : x.bare.sound l) : y.bare.sound l := by
  rw [c]
  exact bare_of_parts h rfl rfl rfl rfl rfl

/-- A lane after a close is sound: its parked record is its own, and not of a lane in service. -/
theorem closedFrom_sound {x y : LaneState} {l : Lane} (c : y.closedFrom x) (h : x.bare.sound l)
    (own : ∀ r, y.parked = some r → r.lane = l) (parked : y.parked ≠ none → ¬ x.service.serves) : y.sound l := by
  have none : y.openStack = none := by rw [c]
  refine sound_of_noStack ⟨closedFrom_bare c h, ⟨fun k hk => ?_, own⟩, ?_⟩ none
  · rw [none] at hk; cases hk
  · rw [(closedFrom_service c).1]; exact parked

/-- A record found parked after a close was parked before it, or the close parked it. -/
theorem closeStack_parked {s : State} {l : Lane} {w : CloseReason} {r : StackRecord}
    (h : ((s.closeStack l w).lane l).parked = some r) :
    (s.lane l).parked = some r ∨ s.closeParks l = true ∧ r.lane = l := by
  cases record : (s.lane l).closedRecord l w with
  | none => rw [closeStack_nothing record] at h; exact .inl h
  | some p =>
    obtain ⟨own, _⟩ := closedRecord_names record
    have placed := (closeWith_placed s l (s.lane l).closed p own).1
    rw [closeStack_closes record, placed] at h
    split at h
    · exact .inl ((closed_stack _).2.1 ▸ h)
    · next full =>
      refine .inr ⟨?_, by cases h; exact own⟩
      have builds : (s.lane l).closeBuilds = true := by
        by_contra no
        have := (closedRecord_none (x := s.lane l) (l := l) (w := w)).mpr (by
          simpa [LaneState.closeBuilds, Option.isSome_iff_ne_none, imp_iff_not_or] using no)
        rw [record] at this; cases this
      simp only [State.closeParks, builds, Bool.true_and, decide_eq_true_eq]
      exact Nat.not_lt.mp full

theorem closeStack_own {s : State} {l : Lane} {w : CloseReason} (h : (s.lane l).stackHolds l) :
    ∀ r, ((s.closeStack l w).lane l).parked = some r → r.lane = l := by
  intro r hr
  rcases closeStack_parked hr with k | ⟨_, k⟩
  · exact h.2 r k
  · exact k

theorem closeStack_aside {s : State} {l : Lane} (w : CloseReason) (h : s.aside l) : (s.closeStack l w).aside l := by
  refine aside_of_but h (closeStack_lanesBut s l w) (by rw [closeStack_engine]) (by rw [closeStack_early]; simp)
    (labelWork_locked (closeStack_labelWork s l w))

theorem announceFault_controlKept (s : State) (l : Lane) (c : FaultCause) : s.controlKept (s.announceFault l c) :=
  reportOnly_controlKept (giveRaise_reportOnly s .laneFault _)

/-- What `holdsAt` takes from a lane that a close left. -/
theorem closedFrom_holdsAt {s t : State} {l : Lane} (c : (t.lane l).closedFrom (s.lane l)) (lane : (t.lane l).sound l)
    (use : t.inUse) (fits : (s.lane l).fits s.engine.state s.regions.locked)
    (early : ∀ e ∈ s.early, e.lane = l → (s.lane l).service.serves) (engine : t.engine.state = s.engine.state)
    (same : t.early = s.early) : t.holdsAt l := by
  obtain ⟨service, gate⟩ := closedFrom_service c
  refine ⟨lane, fits_of_inUse use ?_ ?_ ?_, ?_⟩
  · rw [service, engine]; exact fits.active
  · rw [service, engine]; exact fits.draining
  · rw [service, gate]; exact fits.gate
  · rw [service, same]; exact early

theorem closedFrom_runs {s t : State} {l : Lane} (runs : s.runs) (others : s.lanesBut l t)
    (c : (t.lane l).closedFrom (s.lane l)) (engine : t.engine.state = s.engine.state) : t.runs := by
  refine runs_of_same runs engine fun m v => ?_
  by_cases e : m = l
  · subst e; rw [(closedFrom_service c).1]; exact v
  · rw [others m e]; exact v

/-- Run-out in a FAULTED lane closes its stack (06 R99). -/
theorem runOutComplete_works {s : State} {l : Lane} (h : s.aside l) (faulted : (s.lane l).service.isFaulted = true)
    (bare : (s.lane l).bare.sound l) (stack : (s.lane l).stackHolds l)
    (fits : (s.lane l).fits s.engine.state s.regions.locked) (early : ∀ e ∈ s.early, e.lane ≠ l) :
    (s.runOutComplete l).works := by
  have closed := closeFaulted_lane_self s l .laneFault
  have others : (s.closeFaulted l .laneFault).aside l := by
    exact aside_of_but h (closeFaulted_lanesBut s l _) (by rw [closeFaulted_engine]) (by rw [closeFaulted_early]; simp)
      (labelWork_locked (closeFaulted_labelWork s l .laneFault))
  have lane : ((s.closeFaulted l .laneFault).lane l).sound l := by
    refine closedFrom_sound closed bare (fun r hr => closeStack_own (w := .laneFault) stack r ?_)
      fun _ => not_serves_of_faulted faulted
    unfold State.closeFaulted at hr
    split at hr
    · rwa [announceFault_lane] at hr
    · exact hr
  have own : (s.closeFaulted l .laneFault).holdsAt l :=
    closedFrom_holdsAt closed lane others.1 fits (fun e m k => absurd k (early e m)) (by rw [closeFaulted_engine])
      (closeFaulted_early s l _)
  exact testStopped_works (works_of_aside others own)

theorem faultedAt_aside {s : State} {l : Lane} (c : FaultCause) (h : s.aside l) : (s.faultedAt l c).aside l := by
  have work : s.labelWorkOnly (s.faultedAt l c) :=
    labelWorkOnly_trans (labelWorkOnly_trans (labelWorkOnly_trans (setLane_labelWork s _ _)
      (announceFault_labelWork _ _ _)) (rewind_labelWork _ _)) (discardEarly_labelWork _ _)
  refine aside_of_but h (fun m n => ?_) ?_ ?_ (labelWork_locked work)
  · rw [State.faultedAt, discardEarly_lane, rewind_lanesBut _ l m n, announceFault_lane, lane_setLane_other _ _ n]
  · rw [State.faultedAt, discardEarly_engine, rewind_engine, announceFault_engine]; rfl
  · rw [faultedAt_early]; exact List.filter_subset_self _

/-- A fault of a lane in any state short of FAULTED and BYPASSED: whatever the lane was in the middle of, FAULTED it is
sound, and the engine's tests settle the rest (07 R120). -/
theorem laneFault_goesOn {s : State} {l : Lane} (c : FaultCause) (h : s.aside l) (takes : (s.lane l).service.takesFault)
    (orderless : ∀ r ∈ (s.lane l).queue, r.slot = none → r.flags.orderless = true ∨ r.flags.drain = true)
    (synthetic : (s.lane l).tracker.synthetic ≤ 3) (stack : (s.lane l).stackHolds l) :
    (s.laneFault l c).goesOn := by
  have aside := faultedAt_aside c h
  have lane := faultedAt_lane_self s l c
  have bare : ((s.faultedAt l c).lane l).bare.sound l := lane ▸ faultedBy_bare c orderless synthetic
  have stands : ((s.faultedAt l c).lane l).stackHolds l := lane ▸ stack
  have faulted : ((s.faultedAt l c).lane l).service.isFaulted = true := by rw [lane]; rfl
  have gate : ((s.faultedAt l c).lane l).gate = .reject := by rw [lane]; rfl
  have early : ∀ e ∈ (s.faultedAt l c).early, e.lane ≠ l := fun e m => by
    rw [faultedAt_early] at m
    simpa using (List.mem_filter.mp m).2
  have fits := fits_of_inUse (x := (s.faultedAt l c).lane l) aside.1
    (fun v => absurd (Or.inl v) (not_serves_of_faulted faulted))
    (fun v => absurd (Or.inr v) (not_serves_of_faulted faulted)) fun _ => gate
  rw [laneFault_taken c takes]
  split
  · exact settleEngine_goesOn (runOutComplete_works aside faulted bare stands fits early)
  · next queued =>
    refine settleEngine_goesOn (works_of_aside aside ⟨sound_of_standing ⟨⟨bare, stands,
      fun _ => not_serves_of_faulted faulted⟩, fun v => ?_⟩ fun _ q => ?_, fits, fun e k own => absurd own (early e k)⟩)
    · rcases v with v | v <;> rw [v] at faulted <;> cases faulted
    · rw [lane] at q
      exact absurd (List.map_eq_nil_iff.mp q) queued

theorem runOutComplete_goesOn {s : State} {l : Lane} (h : s.aside l) (faulted : (s.lane l).service.isFaulted = true)
    (bare : (s.lane l).bare.sound l) (stack : (s.lane l).stackHolds l)
    (fits : (s.lane l).fits s.engine.state s.regions.locked) (early : ∀ e ∈ s.early, e.lane ≠ l) (runs : s.runs) :
    (s.runOutComplete l).goesOn :=
  goesOn_of_works (runOutComplete_works h faulted bare stack fits early) (testStopped_runs (closedFrom_runs runs
    (closeFaulted_lanesBut s l _) (closeFaulted_lane_self s l _) (by rw [closeFaulted_engine])))

/-- A close, with the fault that a parking raises (06 R98, R102). -/
theorem closeAndFault_works {s : State} {l : Lane} (w : CloseReason) (h : s.aside l) (lane : (s.lane l).closing l)
    (fits : (s.lane l).fits s.engine.state s.regions.locked)
    (early : ∀ e ∈ s.early, e.lane = l → (s.lane l).service.serves) :
    (s.closeAndFault l w).works ∧ (s.runs → (s.closeAndFault l w).runs) := by
  have closed := closeStack_lane_self s l w
  have others := closeStack_aside w h
  have engine : (s.closeStack l w).engine.state = s.engine.state := by rw [closeStack_engine]
  have own := closeStack_own (w := w) lane.stack
  have done (parked : ((s.closeStack l w).lane l).parked ≠ none → ¬ (s.lane l).service.serves) :
      (s.closeStack l w).works ∧ (s.runs → (s.closeStack l w).runs) :=
    ⟨works_of_aside others (closedFrom_holdsAt closed (closedFrom_sound closed lane.bare own parked) others.1 fits
      early engine (closeStack_early s l w)),
      fun runs => closedFrom_runs runs (closeStack_lanesBut s l w) closed engine⟩
  unfold State.closeAndFault
  split
  · have service := (closedFrom_service closed).1
    by_cases takes : (s.lane l).service.takesFault
    · have bare := closedFrom_bare closed lane.bare
      have stack : ((s.closeStack l w).lane l).stackHolds l := by
        refine ⟨fun k hk => ?_, own⟩
        rw [closed] at hk; cases hk
      have goes := laneFault_goesOn .backlog others (service ▸ takes) bare.orderless bare.synthetic.1 stack
      exact ⟨works_of_goesOn goes, fun _ => goes.2.running⟩
    · have goes := done fun _ v => takes (takesFault_of_serves v)
      rcases laneFault_notTaken (s := s.closeStack l w) (l := l) .backlog (service ▸ takes) with e | e <;> rw [e]
      · exact goes
      · exact ⟨works_of_controlKept (announceFault_controlKept _ l .backlog) goes.1,
          fun runs => runs_of_controlKept (announceFault_controlKept _ l .backlog) (goes.2 runs)⟩
  · next room =>
    refine done fun hp => lane.parked ?_
    obtain ⟨r, hr⟩ := Option.ne_none_iff_exists'.mp hp
    rcases closeStack_parked hr with k | ⟨k, _⟩
    · rw [k]; simp
    · exact absurd k room

/-- A lane whose drain completes is OFF with its window empty; what of its records is left holds no order (07 R116). -/
theorem drained_bare {x : LaneState} {l : Lane} (h : x.bare.sound l) (ordered : x.orderedCount = 0) :
    ({ x with service := .off } : LaneState).rewound.bare.sound l := by
  have slots : ∀ r ∈ x.queue, r.slot = none := fun r m => by
    have := List.countP_eq_zero.mp ordered r m
    simpa [LabelRecord.holdsOrder] using this
  exact
    { orderless := h.orderless
      flagged := fun _ r m => by
        rw [anyFault_iff]
        rcases h.orderless r m (slots r m) with k | k <;> simp [k]
      faulted := nofun
      noOrder := fun _ => slots
      noWindow := fun _ => ⟨rfl, rfl⟩
      filling := nofun
      closed := fun _ => rfl
      ranOut := nofun
      parked := nofun
      synthetic := ⟨h.synthetic.1, fun v => absurd v (not_serves_of_idle (.inl rfl))⟩ }

/-- A drain completion (07 R116). -/
theorem drainComplete_works {s : State} {l : Lane} (h : s.aside l) (lane : (s.lane l).standing l)
    (draining : (s.lane l).service = .draining) (ordered : (s.lane l).orderedCount = 0) :
    (s.drainComplete l).works ∧ (s.runs → (s.drainComplete l).runs) := by
  have self := drained_lane_self s l
  have service : ((s.drained l).lane l).service = .off := by rw [self]; rfl
  have engine : (s.drained l).engine.state = s.engine.state := by rw [drained_engine]
  have others : s.lanesBut l (s.drained l) := fun m n => drained_lane_other s n
  have early : (s.drained l).early = s.early.filter (fun e => e.lane != l) := by
    rw [State.drained, rewind_early, discardEarly_early]; rfl
  have aside : (s.drained l).aside l := by
    refine aside_of_but h others engine (by rw [early]; exact List.filter_subset_self _) (labelWork_locked ?_)
    exact labelWorkOnly_trans (labelWorkOnly_trans (setService_labelWork s l .off) (discardEarly_labelWork _ l))
      (rewind_labelWork _ l)
  have idle : ¬ ((s.drained l).lane l).service.serves := not_serves_of_idle (.inl service)
  have fits := fits_of_inUse (x := (s.drained l).lane l) aside.1 (fun v => absurd (.inl v) idle)
    (fun v => absurd (.inr v) idle) fun v => by rw [service] at v; rcases v with v | v <;> cases v
  have closing : ((s.drained l).lane l).closing l :=
    ⟨by rw [self]; exact drained_bare lane.bare ordered, by rw [self]; exact lane.stack, fun _ => idle⟩
  obtain ⟨works, runs⟩ := closeAndFault_works .drain aside closing fits fun e m k => by
    rw [early] at m
    exact absurd k (by simpa using (List.mem_filter.mp m).2)
  refine ⟨testStopped_works works, fun before => testStopped_runs (runs (runs_of_same before engine fun m v => ?_))⟩
  by_cases e : m = l
  · rw [e, draining] at v; cases v
  · rw [others m e]; exact v

end Sys2Proof.Machine
end

section
/-! The rows of the label and lane blocks keep the engine sound: targets, knives, splices, label starts and stacker
lines. -/

namespace Sys2Proof.Machine

/-! ## Soundness kept -/

/-- `t` is sound if `s` is. -/
def State.keepsSound (s t : State) : Prop := s.sound → t.sound

theorem keepsSound_refl (s : State) : s.keepsSound s := id

theorem keepsSound_trans {s t u : State} (h : s.keepsSound t) (k : t.keepsSound u) : s.keepsSound u := fun g => k (h g)

theorem keepsSound_ite {s t u : State} {c : Prop} [Decidable c] (h : c → s.keepsSound t) (k : ¬ c → s.keepsSound u) :
    s.keepsSound (if c then t else u) := by
  split
  · next c => exact h c
  · next c => exact k c

theorem keepsSound_foldl {α : Type} {f : State → α → State} (h : ∀ (s : State) x, s.keepsSound (f s x)) (xs : List α)
    (s : State) : s.keepsSound (xs.foldl f s) := by
  induction xs generalizing s with
  | nil => exact keepsSound_refl s
  | cons x xs ih => exact keepsSound_trans (h s x) (ih _)

theorem keepsSound_forLanes {f : State → Lane → State} (h : ∀ (s : State) l, s.keepsSound (f s l)) (s : State) :
    s.keepsSound (s.forLanes f) :=
  keepsSound_foldl h _ s

theorem keepsSound_of_controlKept {s t : State} (h : s.controlKept t) : s.keepsSound t := sound_of_controlKept h

theorem giveAt_keepsSound (s : State) (p : WebPos) (b : EventBody) : s.keepsSound (s.giveAt p b) :=
  keepsSound_of_controlKept (reportOnly_controlKept (giveAt_reportOnly s p b))

theorem give_keepsSound (s : State) (b : EventBody) : s.keepsSound (s.give b) := giveAt_keepsSound s _ b

theorem giveRaise_keepsSound (s : State) (c : SummaryClass) (b : EventBody) : s.keepsSound (s.giveRaise c b) :=
  keepsSound_of_controlKept (reportOnly_controlKept (giveRaise_reportOnly s c b))

/-! ## Queues, trackers and lines -/

/-- A lane's records changed with their flags kept, and the parts of the lane that soundness does not read. -/
theorem requeue_keepsSound {s : State} {l : Lane} {y : LaneState} (kept : flagsKeptIn (s.lane l).queue y.queue)
    (ranOut : y.queue = [] → (s.lane l).queue = []) (synthetic : y.tracker.synthetic = (s.lane l).tracker.synthetic)
    (same : y = { s.lane l with
      queue := y.queue, tracker := y.tracker, misses := y.misses, knifePulse := y.knifePulse }) :
    s.keepsSound (s.setLane l y) := fun h => by
  have lane := sound_setQueue (h.lanes l) kept fun q => .inl (ranOut q)
  have empty : (s.lane l).queue = [] → y.queue = [] := fun q => flagsKeptIn_nil (q ▸ kept)
  refine sound_setLane h ?_ ⟨by rw [same], by rw [same], empty, fun ⟨idle, queue, rest⟩ => ?_⟩
  · rw [same]
    exact { lane with synthetic := by rw [synthetic]; exact lane.synthetic }
  · rw [same]
    exact ⟨idle, empty queue, rest⟩

/-- What soundness does not read of a lane changed. -/
theorem retune_keepsSound {s : State} {l : Lane} {y : LaneState}
    (synthetic : y.tracker.synthetic = (s.lane l).tracker.synthetic)
    (same : y = { s.lane l with
      tracker := y.tracker, misses := y.misses, knifePulse := y.knifePulse, trayPulse := y.trayPulse, put := y.put
      fetch := y.fetch, release := y.release, previousSerial := y.previousSerial, written := y.written }) :
    s.keepsSound (s.setLane l y) := fun h =>
  sound_setLane h (by rw [same]; exact { h.lanes l with synthetic := by rw [synthetic]; exact (h.lanes l).synthetic })
    (by rw [same]; exact ⟨rfl, rfl, id, id⟩)

/-- The window of a lane in service changed. -/
theorem rewindow_keepsSound {s : State} {l : Lane} {y : LaneState} (serves : (s.lane l).service.serves)
    (same : y = { s.lane l with
      window := y.window, reservation := y.reservation, fetch := y.fetch, previousSerial := y.previousSerial }) :
    s.keepsSound (s.setLane l y) := fun h => by
  refine sound_setLane h (by rw [same]; exact { h.lanes l with noWindow := fun v => absurd serves v }) ?_
  rw [same]
  exact ⟨rfl, rfl, id, fun ⟨idle, _⟩ => absurd serves (not_serves_of_idle idle)⟩

theorem reachLane_keepsSound (s : State) (l : Lane) : s.keepsSound (s.reachLane l) :=
  requeue_keepsSound (flagsKeptIn_map (f := (·.reach s.web.position)) (fun _ => flagsKept_of_flags rfl rfl) _)
    List.map_eq_nil_iff.mp rfl rfl

theorem setWeb_keepsSound (s : State) (w : Web) : s.keepsSound { s with web := w } :=
  keepsSound_of_controlKept ⟨rfl, rfl, rfl, rfl⟩

theorem forwardTick_keepsSound (s : State) : s.keepsSound s.forwardTick :=
  keepsSound_ite (fun _ => keepsSound_trans (setWeb_keepsSound s _) (keepsSound_forLanes reachLane_keepsSound _))
    fun _ => setWeb_keepsSound s _

theorem announceSplice_keepsSound (s : State) (l : Lane) : s.keepsSound (s.announceSplice l) :=
  requeue_keepsSound (flagsKeptIn_map (fun r => splicedAt_flagsKept r _) _) List.map_eq_nil_iff.mp rfl rfl

theorem spliceRise_keepsSound (s : State) : s.keepsSound s.spliceRise :=
  keepsSound_ite (fun _ => keepsSound_refl s) fun _ =>
    keepsSound_trans (keepsSound_trans (setWeb_keepsSound s _) (keepsSound_forLanes announceSplice_keepsSound _))
      (give_keepsSound _ _)

theorem takeDeadline_keepsSound (s : State) (l : Lane) : s.keepsSound (s.takeDeadline l) := by
  unfold State.takeDeadline
  split
  · exact keepsSound_refl s
  · have taken : s.keepsSound (s.setQueue l (updateFirst (·.due.deadline) (·.close s.settings.undecidedPolicy)
        (s.lane l).queue)) :=
      requeue_keepsSound (flagsKeptIn_updateFirst (fun r => close_flagsKept r _) _) updateFirst_eq_nil rfl rfl
    exact keepsSound_ite (fun _ => keepsSound_trans taken (give_keepsSound _ _)) fun _ => taken

theorem takeCut_keepsSound (s : State) (l : Lane) : s.keepsSound (s.takeCut l) := by
  unfold State.takeCut
  split
  · exact keepsSound_refl s
  · exact requeue_keepsSound (flagsKeptIn_updateFirst (fun r => atCut_flagsKept r _ _) _) updateFirst_eq_nil rfl rfl

theorem kdonePulse_keepsSound (s : State) (l : Lane) : s.keepsSound (s.kdonePulse l) :=
  keepsSound_ite (fun _ => give_keepsSound s _) fun _ =>
    requeue_keepsSound (flagsKeptIn_updateFirst (f := fun r => { r with cutState := .confirmed })
      (fun _ => flagsKept_of_flags rfl rfl) _) updateFirst_eq_nil rfl rfl

theorem endKnifePulse_keepsSound (s : State) (l : Lane) : s.keepsSound (s.endKnifePulse l) := retune_keepsSound rfl rfl

theorem dropExpiry_keepsSound (s : State) (l : Lane) : s.keepsSound (s.dropExpiry l) := retune_keepsSound rfl rfl

/-- A stacker with a stack open is FILLING, so a pulse that it takes finds none (06 R89, R91). -/
theorem setStacker_keepsSound {s : State} {l : Lane} (k : Stacker) (idle : ∀ t, (s.lane l).stacker ≠ .filling t) :
    s.keepsSound (s.setLane l { s.lane l with stacker := k }) := fun h =>
  sound_setLane h { h.lanes l with filling := fun o ho => absurd ((h.lanes l).filling o ho).1 (idle _) }
    ⟨rfl, rfl, id, id⟩

theorem trayReadyPulse_keepsSound (s : State) (l : Lane) : s.keepsSound (s.trayReadyPulse l) := by
  unfold State.trayReadyPulse
  split
  · next k => exact setStacker_keepsSound _ (by simp [k])
  · next k => exact setStacker_keepsSound _ (by simp [k])
  · exact give_keepsSound s _

theorem endTrayPulse_keepsSound (s : State) (l : Lane) : s.keepsSound (s.endTrayPulse l) := retune_keepsSound rfl rfl

/-- A fetch starts in an ACTIVE lane only (03 R46). -/
theorem startFetch_keepsSound (s : State) (l : Lane) : s.keepsSound (s.startFetch l) := by
  by_cases can : (s.lane l).canFetch = true
  · rw [startFetch_begins can]
    exact rewindow_keepsSound (.inl ((canFetch_iff _).mp can).1) rfl
  · rw [startFetch_waits can]; exact keepsSound_refl s

/-! ## Confirm limits (05 R79, R80) -/

theorem inUse_of_queued {s : State} {l : Lane} (h : s.sound) (queued : (s.lane l).queue ≠ []) : s.inUse :=
  inUse_of_touched h (l := l) (fun ⟨_, empty, _⟩ => queued empty) fun e => queued (h.halted e l).1

theorem inUse_of_serving {s : State} {l : Lane} (h : s.sound) (serves : (s.lane l).service.serves) : s.inUse :=
  inUse_of_touched h (l := l) (fun ⟨idle, _⟩ => not_serves_of_idle idle serves) fun e => h.stopped (.inr e) l serves

/-- A lane fault keeps a sound engine in use sound, taken or not. -/
theorem laneFault_keepsGoing {s : State} (l : Lane) (c : FaultCause) (h : s.goesOn) : (s.laneFault l c).goesOn := by
  by_cases takes : (s.lane l).service.takesFault
  · have lane := h.2.lanes l
    exact laneFault_goesOn c (aside_of_goesOn h l) takes lane.orderless lane.synthetic.1 (standing_of_sound lane).stack
  · rcases laneFault_notTaken (s := s) (l := l) c takes with e | e <;> rw [e]
    · exact h
    · exact goesOn_of_controlKept (announceFault_controlKept s l c) h

theorem takeConfirmLimit_keepsSound (s : State) (l : Lane) : s.keepsSound (s.takeConfirmLimit l) := by
  unfold State.takeConfirmLimit
  split
  · exact keepsSound_refl s
  · next r found =>
    have queued : (s.lane l).queue ≠ [] := fun e => by rw [e] at found; cases found
    have limited : s.keepsSound (s.setQueue l (confirmQueue (s.lane l).queue)) :=
      requeue_keepsSound (flagsKeptIn_confirmQueue _) confirmQueue_eq_nil rfl rfl
    have missed := fun n => keepsSound_trans limited (retune_keepsSound (l := l)
      (y := { (s.setQueue l (confirmQueue (s.lane l).queue)).lane l with misses := n }) rfl rfl)
    refine keepsSound_ite (fun _ => keepsSound_trans (keepsSound_ite (fun _ h => ?_) fun _ => missed _)
      (give_keepsSound _ _)) fun _ => limited
    have use := inUse_of_queued h queued
    refine (laneFault_keepsGoing l .knife ?_).2
    exact ⟨inUse_of_same use rfl rfl, missed _ h⟩

/-! ## Label starts (02 R20) -/

/-- A record without an order is ORDERLESS or DRAIN (02 R23, R24). -/
theorem createRecord_orderless {s : State} {l : Lane} {t : LabelStart} (h : (s.createRecord l t).2.slot = none) :
    (s.createRecord l t).2.flags.orderless = true ∨ (s.createRecord l t).2.flags.drain = true := by
  rw [createRecord_held] at h ⊢
  change (s.lane l).binding.entry.map (·.index) = none at h
  change ((s.lane l).binding.flags _).orderless = true ∨ ((s.lane l).binding.flags _).drain = true
  cases b : (s.lane l).binding with
  | valid e => rw [b] at h; cases h
  | faulty e w => rw [b] at h; cases h
  | starved => exact .inl rfl
  | drain => exact .inr rfl

theorem createRecord_earlySubset (s : State) (l : Lane) (t : LabelStart) : (s.createRecord l t).1.early ⊆ s.early := by
  obtain ⟨-, -, -, -, -, early⟩ := createRecord_spec s l t
  rw [early]
  split
  · exact List.Subset.refl _
  · exact List.Subset.trans (List.filter_subset_self _) (List.filter_subset_self _)

theorem startLabel_lane (s : State) (l : Lane) (t : LabelStart) (n : Nat) : ∃ window lastBound tracked,
    (s.startLabel l t n).lane l = { s.lane l with
      queue := (s.lane l).queue ++ [(s.createRecord l t).2]
      lastBound := lastBound
      window := window
      tracker := { tracked := tracked, synthetic := n, expiryDue := false } } := by
  obtain ⟨-, lane, -⟩ := createRecord_spec s l t
  exact ⟨_, _, _, by rw [State.startLabel, State.answerTracker, lane_setLane_self, lane]⟩

theorem startLabel_orderless {s : State} {l : Lane} (t : LabelStart) (n : Nat) (h : (s.lane l).sound l) :
    ∀ r ∈ ((s.startLabel l t n).lane l).queue, r.slot = none → r.flags.orderless = true ∨ r.flags.drain = true := by
  obtain ⟨_, _, _, lane⟩ := startLabel_lane s l t n
  intro r m
  rw [lane] at m
  rcases List.mem_append.mp m with m | m
  · exact h.orderless r m
  · rw [List.mem_singleton.mp m]; exact createRecord_orderless

theorem startLabel_aside {s : State} {l : Lane} (t : LabelStart) (n : Nat) (h : s.aside l) :
    (s.startLabel l t n).aside l := by
  obtain ⟨-, -, others, engine, -⟩ := createRecord_spec s l t
  have kept := aside_of_but h (t := (s.createRecord l t).1) others (by rw [engine]) (createRecord_earlySubset s l t)
    (labelWork_locked (createRecord_labelWork s l t))
  exact aside_of_but kept (setLane_lanesBut _ l _) rfl (List.Subset.refl _) rfl

/-- A label start in a lane in service, short of a third synthetic label in a row. -/
theorem startLabel_keepsSound {s : State} {l : Lane} (t : LabelStart) {n : Nat} (serves : (s.lane l).service.serves)
    (few : n ≤ 2) : s.keepsSound (s.startLabel l t n) := fun h => by
  obtain ⟨_, _, _, lane⟩ := startLabel_lane s l t n
  obtain ⟨-, -, -, engine, -⟩ := createRecord_spec s l t
  have engine : (s.startLabel l t n).engine.state = s.engine.state := congrArg Engine.state engine
  have own := holdsAt_of_sound h l
  have aside := startLabel_aside t n (aside_of_goesOn ⟨inUse_of_serving h serves, h⟩ l)
  refine (goesOn_of_aside aside ⟨?_, ?_, ?_⟩ ?_).2
  · have orderless := startLabel_orderless t n own.lane
    rw [lane] at orderless ⊢
    exact
      { orderless := orderless
        flagged := fun v => absurd serves v
        faulted := fun v => absurd serves (not_serves_of_faulted v)
        noOrder := fun v => absurd serves (not_serves_of_idle v)
        noWindow := fun v => absurd serves v
        filling := own.lane.filling
        closed := own.lane.closed
        ranOut := fun v => absurd serves (not_serves_of_faulted v)
        parked := own.lane.parked
        synthetic := ⟨Nat.le_succ_of_le few, fun _ => few⟩ }
  · refine fits_of_inUse aside.1 ?_ ?_ ?_ <;> rw [lane]
    · rw [engine]; exact own.fits.active
    · rw [engine]; exact own.fits.draining
    · exact own.fits.gate
  · intro e m k
    rw [lane]
    exact own.early e (createRecord_earlySubset s l t m) k
  · refine runs_of_same h.running engine fun m v => ?_
    by_cases e : m = l
    · subst e; rw [lane]; exact v
    · obtain ⟨-, -, others, -⟩ := createRecord_spec s l t
      rw [State.startLabel, State.answerTracker, lane_setLane_other _ _ e, others m e]; exact v

theorem markPulse_keepsSound (s : State) (l : Lane) : s.keepsSound (s.markPulse l) := by
  refine keepsSound_ite (fun _ => keepsSound_refl s) fun serving =>
    keepsSound_ite (fun _ => give_keepsSound s _) fun _ => ?_
  have serves : (s.lane l).service.serves := inService_service (by simpa using serving)
  have started := fun t => startLabel_keepsSound (n := 0) t serves (Nat.zero_le 2)
  unfold State.measureMark
  split
  · exact started _
  · exact keepsSound_ite (fun _ => give_keepsSound s _) fun _ =>
      keepsSound_ite (fun _ => keepsSound_trans (started _) (giveAt_keepsSound _ _ _)) fun _ => started _

/-- A third synthetic label in a row faults its lane (01 R15). -/
theorem thirdSynthetic_keepsSound {s : State} {l : Lane} (t : LabelStart) (p : WebPos) (b : EventBody)
    (serves : (s.lane l).service.serves) :
    s.keepsSound (((s.startLabel l t 3).giveAt p b).laneFault l .trackingLost) := fun h => by
  obtain ⟨_, _, _, lane⟩ := startLabel_lane s l t 3
  have same := giveAt_lane (s.startLabel l t 3) p b l
  have aside := startLabel_aside t 3 (aside_of_goesOn ⟨inUse_of_serving h serves, h⟩ l)
  have kept : (s.startLabel l t 3).controlKept _ := reportOnly_controlKept (giveAt_reportOnly _ p b)
  obtain ⟨-, early, engine, locked⟩ := kept
  have given := aside_of_but aside (giveAt_lanesBut _ l p b) engine (by rw [early]; simp) locked
  refine (laneFault_goesOn .trackingLost given ?_ ?_ ?_ ?_).2 <;> rw [same]
  · rw [lane]; exact takesFault_of_serves serves
  · exact startLabel_orderless t 3 (h.lanes l)
  · rw [lane]
  · rw [lane]; exact (standing_of_sound (h.lanes l)).stack

theorem takeExpiry_keepsSound (s : State) (l : Lane) : s.keepsSound (s.takeExpiry l) := by
  unfold State.takeExpiry
  refine keepsSound_ite (fun _ => keepsSound_refl s) fun _ => keepsSound_ite (fun _ => dropExpiry_keepsSound s l)
    fun serving => ?_
  have serves : (s.lane l).service.serves := inService_service (by simpa using serving)
  split
  · exact dropExpiry_keepsSound s l
  · next k _ =>
    refine keepsSound_ite (fun third => ?_) fun notThird h => ?_
    · rw [third]; exact thirdSynthetic_keepsSound k.syntheticStart _ _ serves
    · have few := (h.lanes l).synthetic.2 serves
      exact keepsSound_trans (startLabel_keepsSound k.syntheticStart serves (by omega)) (giveAt_keepsSound _ k.pred _) h

end Sys2Proof.Machine
end

section
/-! The gate event keeps the engine sound (02 R32): the item, the close test and the completions, each from a state in
which the gated lane may have run out with its stack still open. -/

namespace Sys2Proof.Machine

/-! ## The middle of a gate event -/

/-- Sound and in use, but that lane `l` may have run out with its stack still open. -/
structure State.gating (s : State) (l : Lane) : Prop where
  aside : s.aside l
  lane  : (s.lane l).standing l
  fits  : (s.lane l).fits s.engine.state s.regions.locked
  early : ∀ e ∈ s.early, e.lane = l → (s.lane l).service.serves
  runs  : s.runs

theorem gating_of_goesOn {s : State} (h : s.goesOn) (l : Lane) : s.gating l :=
  have own := holdsAt_of_sound h.2 l
  ⟨aside_of_goesOn h l, standing_of_sound own.lane, own.fits, own.early, h.2.running⟩

theorem gating_setLane {s : State} {l : Lane} {y : LaneState} (h : s.gating l) (lane : y.standing l)
    (service : y.service = (s.lane l).service)
    (gate : (s.lane l).service.isFaulted = true ∨ (s.lane l).service = .bypassed → y.gate = .reject) :
    (s.setLane l y).gating l where
  aside := aside_of_but h.aside (setLane_lanesBut s l y) rfl (List.Subset.refl _) rfl
  lane := by rw [lane_setLane_self]; exact lane
  fits := by
    rw [lane_setLane_self]
    refine fits_of_inUse (s := s) h.aside.1 ?_ ?_ ?_ <;> rw [service]
    · exact h.fits.active
    · exact h.fits.draining
    · exact gate
  early := by rw [lane_setLane_self, service]; exact h.early
  runs := by
    refine runs_of_same h.runs rfl fun m v => ?_
    by_cases e : m = l
    · subst e; rw [lane_setLane_self, service]; exact v
    · rw [lane_setLane_other _ _ e]; exact v

theorem gating_of_controlKept {s t : State} {l : Lane} (k : s.controlKept t) (h : s.gating l) : t.gating l := by
  obtain ⟨lanes, early, engine, locked⟩ := k
  have lane : ∀ m, t.lane m = s.lane m := fun m => by simp only [State.lane, lanes]
  refine ⟨aside_of_but h.aside (lanesBut_of_lanes lanes) engine (by rw [early]; simp) locked, ?_, ?_, ?_,
    runs_of_same h.runs engine fun m v => by rw [lane]; exact v⟩
  · rw [lane]; exact h.lane
  · rw [lane, engine, locked]; exact h.fits
  · rw [lane, early]; exact h.early

theorem closeAndFault_gating {s : State} {l : Lane} (w : CloseReason) (h : s.gating l) :
    (s.closeAndFault l w).gating l :=
  have ⟨works, runs⟩ := closeAndFault_works w h.aside h.lane.toclosing h.fits h.early
  gating_of_goesOn (goesOn_of_works works (runs h.runs)) l

/-! ## The item (06 R92 to R95) -/

theorem listMissing_standing {x : LaneState} {l : Lane} (m : MissingItem) (h : x.standing l) :
    (x.listMissing m).standing l := by
  obtain ⟨⟨bare, ⟨stack, own⟩, parked⟩, closed⟩ := h
  unfold LaneState.listMissing
  cases openStack : x.openStack with
  | none =>
    exact ⟨⟨bare_of_parts bare rfl rfl rfl rfl rfl, ⟨fun k hk => absurd hk (by simp), own⟩, parked⟩,
      fun _ => rfl⟩
  | some k =>
    refine ⟨⟨bare_of_parts bare rfl rfl rfl rfl rfl, ⟨?_, own⟩, parked⟩, fun v => ?_⟩
    · rintro _ ⟨⟩; exact stack k openStack
    · rw [closed v] at openStack; cases openStack

theorem deliver_standing {x : LaneState} {l : Lane} {tray : Tray} (batch target : Half) (n : Option Serial)
    (h : x.standing l) (serves : x.service.serves) (filling : x.stacker = .filling tray) :
    (x.deliver tray batch target n).standing l := by
  obtain ⟨⟨bare, ⟨stack, own⟩, parked⟩, closed⟩ := h
  have free : x.parked = none := by
    by_contra taken; exact parked taken serves
  unfold LaneState.deliver LaneState.withOpenStack
  cases openStack : x.openStack with
  | none =>
    refine ⟨⟨bare_of_parts bare rfl rfl rfl rfl rfl, ⟨?_, own⟩, parked⟩, fun v => absurd serves (not_serves_of_idle v)⟩
    rintro _ ⟨⟩; exact ⟨filling, rfl, free⟩
  | some k =>
    refine ⟨⟨bare_of_parts bare rfl rfl rfl rfl rfl, ⟨?_, own⟩, parked⟩, fun v => absurd serves (not_serves_of_idle v)⟩
    rintro _ ⟨⟩; exact stack k openStack

theorem listMissing_gating {s : State} {l : Lane} (m : MissingItem) (h : s.gating l) :
    (s.listMissing l m).gating l := by
  have same : ((s.lane l).listMissing m).service = (s.lane l).service ∧
      ((s.lane l).listMissing m).gate = (s.lane l).gate := by rw [listMissing_eq]; exact ⟨rfl, rfl⟩
  exact gating_setLane h (listMissing_standing m h.lane) same.1 fun v => same.2 ▸ h.fits.gate v

theorem spill_gating {s : State} {l : Lane} (m : MissingItem) (h : s.gating l) : (s.spill l m).gating l :=
  gating_of_controlKept (reportOnly_controlKept (giveAt_reportOnly _ _ _)) (listMissing_gating _ h)

theorem setGate_gating {s : State} {l : Lane} {g : Gate} (h : s.gating l)
    (allowed : g = .reject ∨ (s.lane l).service.serves) : (s.setGate l g).gating l := by
  refine gating_setLane h (standing_of_bare h.lane (bare_of_parts h.lane.bare rfl rfl rfl rfl rfl) rfl rfl
    ⟨rfl, rfl, rfl⟩) rfl fun v => ?_
  rcases allowed with reject | serves
  · exact reject
  · rcases v with v | v
    · exact absurd serves (not_serves_of_faulted v)
    · exact absurd serves (not_serves_of_idle (.inr v))

theorem takeStackLabel_gating {s : State} {l : Lane} (r : LabelRecord) (h : s.gating l)
    (serves : (s.lane l).service.serves) : (s.takeStackLabel l r).gating l := by
  have spilled {t : State} (h : t.gating l) : ((t.spill l (r.item .spill)).setGate l .reject).gating l :=
    setGate_gating (spill_gating _ h) (.inl rfl)
  unfold State.takeStackLabel
  split
  · next tray filling =>
    split
    · exact spilled (closeAndFault_gating .batchChange h)
    · have service : ((s.lane l).deliver tray (r.batch.getD 0) r.target r.serial).service = (s.lane l).service := by
        unfold LaneState.deliver LaneState.withOpenStack; split <;> rfl
      refine setGate_gating (gating_setLane h (deliver_standing _ _ _ h.lane serves filling) service fun v => ?_)
        (.inr (by rw [lane_setLane_self, service]; exact serves))
      rcases v with v | v
      · exact absurd serves (not_serves_of_faulted v)
      · exact absurd serves (not_serves_of_idle (.inr v))
  · exact spilled h
  · exact spilled h

/-- The item of a gated record: a record without a fault flag comes from a lane in service (05 R76, R83). -/
theorem takeItem_gating {s : State} {l : Lane} {r : LabelRecord} (h : s.gating l)
    (serves : r.flags.anyFault = false → (s.lane l).service.serves) : (s.takeItem l r).gating l := by
  have clean {f : Fate} (fate : r.fate = f) (other : f ≠ .reject .fault) : (s.lane l).service.serves :=
    serves (Bool.eq_false_iff.mpr fun flagged => other (fate ▸ fate_fault flagged))
  unfold State.takeItem
  split
  · next fate => exact takeStackLabel_gating r h (clean fate nofun)
  · exact setGate_gating (listMissing_gating _ h) (.inl rfl)
  · next fate =>
    refine setGate_gating (listMissing_gating _ h) (.inr ?_)
    rw [State.listMissing, lane_setLane_self, listMissing_eq]
    exact clean fate nofun

/-! ## The close test and the completions (02 R32, 06 R97) -/

theorem testClose_gating {s : State} {l : Lane} (r : LabelRecord) (h : s.gating l) : (s.testClose l r).gating l := by
  unfold State.testClose
  split
  · exact closeAndFault_gating .batchEnd h
  · split
    · exact closeAndFault_gating .count h
    · exact h

/-- The completions that end a gate event: a lane that has run out has its stack closed. -/
theorem afterGate_goesOn {s : State} {l : Lane} (h : s.gating l) : (s.afterGate l).goesOn := by
  unfold State.afterGate
  split
  · next drained =>
    obtain ⟨works, runs⟩ := drainComplete_works h.aside h.lane drained.1 drained.2
    exact goesOn_of_works works (runs h.runs)
  · split
    · next ranOut =>
      exact runOutComplete_goesOn h.aside ranOut.1 h.lane.bare h.lane.stack h.fits
        (fun e m k => not_serves_of_faulted ranOut.1 (h.early e m k)) h.runs
    · next goes =>
      refine goesOn_of_aside h.aside ⟨sound_of_standing h.lane fun faulted empty => ?_, h.fits, h.early⟩ h.runs
      exact absurd ⟨faulted, by rw [empty]; rfl⟩ goes

theorem withoutHead_gating {s : State} {l : Lane} (r : LabelRecord) (h : s.goesOn) :
    (s.setLane l ((s.lane l).withoutHead r)).gating l := by
  have lane := standing_of_sound (h.2.lanes l)
  rw [withoutHead_eq]
  refine gating_setLane (gating_of_goesOn h l) (standing_of_bare lane ?_ rfl rfl ⟨rfl, rfl, rfl⟩) rfl
    (holdsAt_of_sound h.2 l).fits.gate
  have tail : flagsKeptIn (s.lane l).queue (s.lane l).queue.tail := flagsKeptIn_of_subset (List.tail_subset _)
  have bare : ({ s.lane l with queue := (s.lane l).queue.tail } : LaneState).bare.sound l :=
    sound_setQueue lane.bare tail fun _ => .inr rfl
  exact bare_of_parts bare rfl rfl rfl rfl rfl

theorem takeGate_keepsSound (s : State) (l : Lane) : s.keepsSound (s.takeGate l) := by
  cases head : (s.lane l).queue with
  | nil => simp only [State.takeGate, head]; exact keepsSound_refl s
  | cons r rest =>
    by_cases due : r.due.gate = true
    · intro h
      have use := inUse_of_queued h (l := l) (by rw [head]; simp)
      rw [takeGate_eq s l r rest head due]
      refine (afterGate_goesOn (testClose_gating r (takeItem_gating (withoutHead_gating r ⟨use, h⟩) fun clean => ?_))).2
      rw [lane_setLane_self, withoutHead_eq]
      by_contra idle
      have flagged := (h.lanes l).flagged idle r (by rw [head]; simp)
      rw [clean] at flagged; cases flagged
    · simp only [State.takeGate, head, if_neg due]; exact keepsSound_refl s

end Sys2Proof.Machine
end

section
/-! Halts, resets and the engine commands keep the engine sound (07). -/

namespace Sys2Proof.Machine

/-! ## Halts (07 R117, R118) -/

/-- A lane at a halt hands over records of its own only, and none where it is untouched. -/
theorem haltRecord_lane {x : LaneState} {l : Lane} {r : StackRecord} (h : x.haltRecord l = some r) : r.lane = l := by
  unfold LaneState.haltRecord at h
  split at h
  · cases h; rfl
  · split at h
    · cases h
    · cases h; rfl

theorem haltRecord_untouched {x : LaneState} {l : Lane} (h : x.untouched) :
    x.shortAtHalt = x.carry ∧ x.haltRecord l = none := by
  obtain ⟨-, queue, -, -, stack, carry, -⟩ := h
  have short : x.shortAtHalt = x.carry := by rw [LaneState.shortAtHalt, queue, stack]; rfl
  refine ⟨short, ?_⟩
  unfold LaneState.haltRecord
  rw [stack, short]
  exact if_pos (.inl carry)

theorem halted_service {x y : LaneState} (h : y.service = if x.service = .bypassed then .bypassed else .off) :
    y.service = .off ∨ y.service = .bypassed := by
  rw [h]; split
  · exact .inr rfl
  · exact .inl rfl

theorem haltedFrom_sound {x y : LaneState} {l : Lane} {parks : Prop} (h : y.haltedFrom x l parks) (sound : x.sound l) :
    y.sound l := by
  obtain ⟨queue, stack, -, -, -, service, -, -, halted, bypassed, -, -, tracker, -, -, -, -, -, -, taken, kept⟩ := h
  have idle := halted_service service
  have empty : ∀ r, r ∉ y.queue := by rw [queue]; simp
  exact
    { orderless := fun r m => absurd m (empty r)
      flagged := fun _ r m => absurd m (empty r)
      faulted := fun _ r m => absurd m (empty r)
      noOrder := fun _ r m => absurd m (empty r)
      noWindow := fun _ => by
        by_cases v : x.service = .bypassed
        · obtain ⟨window, reservation, -⟩ := bypassed v
          rw [window, reservation]
          exact sound.noWindow (not_serves_of_idle (.inr v))
        · obtain ⟨window, reservation, -⟩ := halted v
          exact ⟨window, reservation⟩
      filling := fun k hk => by rw [stack] at hk; cases hk
      closed := fun _ => stack
      ranOut := fun _ _ => stack
      parked := fun r hr => by
        refine ⟨stack, not_serves_of_idle idle, ?_⟩
        by_cases full : parks
        · cases record : x.haltRecord l with
          | none => rw [kept (.inl record)] at hr; exact (sound.parked r hr).2.2
          | some p =>
            rw [taken p record full] at hr
            cases hr; exact haltRecord_lane record
        · rw [kept (.inr full)] at hr; exact (sound.parked r hr).2.2
      synthetic := ⟨by rw [tracker]; exact sound.synthetic.1, fun v => absurd v (not_serves_of_idle idle)⟩ }

theorem haltedFrom_untouched {x y : LaneState} {l : Lane} {parks : Prop} (h : y.haltedFrom x l parks)
    (untouched : x.untouched) : y.untouched := by
  obtain ⟨short, none⟩ := haltRecord_untouched (l := l) untouched
  obtain ⟨-, -, window, reservation, stack, carry, free⟩ := untouched
  obtain ⟨queue, stackAfter, -, -, -, service, -, -, halted, bypassed, -, -, -, -, -, -, -, listed, -, -, kept⟩ := h
  have windowAfter : y.window = [] ∧ y.reservation = Option.none := by
    by_cases v : x.service = .bypassed
    · obtain ⟨w, r, -⟩ := bypassed v
      exact ⟨w.trans window, r.trans reservation⟩
    · obtain ⟨w, r, -⟩ := halted v
      exact ⟨w, r⟩
  refine ⟨halted_service service, queue, windowAfter.1, windowAfter.2, stackAfter, ?_, (kept (.inl none)).trans free⟩
  rw [(listed stack none).1, short]
  exact carry

theorem enterHalted_keepsSound (s : State) (c : HaltCause) : s.keepsSound (s.enterHalted c) := fun h => by
  obtain ⟨⟨state, -, -, lanes, -, early, -⟩, -⟩ := enterHalted_spec s c
  have locked := labelWork_locked (enterHalted_labelWork s c)
  refine sound_of_holdsAt (fun l => ?_) fun e => by rw [state] at e; cases e
  have idle : ((s.enterHalted c).lane l).service = .off ∨ ((s.enterHalted c).lane l).service = .bypassed := by
    obtain ⟨-, -, -, -, -, service, -⟩ := lanes l
    exact halted_service service
  have empty := (lanes l).1
  have gate : ((s.enterHalted c).lane l).gate = .reject := by
    obtain ⟨-, -, -, gate, -⟩ := lanes l
    exact gate
  refine ⟨haltedFrom_sound (lanes l) (h.lanes l), ⟨fun v => ?_, fun v => ?_, fun _ => ⟨empty, ?_, gate⟩, fun _ => gate,
    fun k => haltedFrom_untouched (lanes l) (h.unlocked (locked ▸ k) l)⟩, fun e m => ?_⟩
  · exact absurd (.inl v) (not_serves_of_idle idle)
  · exact absurd (.inr v) (not_serves_of_idle idle)
  · rcases idle with v | v <;> rw [v] <;> rfl
  · rw [early] at m
    obtain ⟨m, bypassed⟩ := List.mem_filter.mp m
    exact absurd (h.early e m) (not_serves_of_idle (.inr (by simpa using bypassed)))

theorem takeHalt_keepsSound (s : State) (c : HaltCause) : s.keepsSound (s.takeHalt c) :=
  keepsSound_ite (fun _ => keepsSound_refl s) fun _ => enterHalted_keepsSound s c

theorem safeRise_keepsSound (s : State) : s.keepsSound s.safeRise := by
  have raised : s.keepsSound { s with engine := { s.engine with safe := true } } :=
    keepsSound_of_controlKept ⟨rfl, rfl, rfl, rfl⟩
  exact keepsSound_ite (fun _ => keepsSound_refl s) fun _ => keepsSound_trans raised (takeHalt_keepsSound _ _)

theorem reverseTick_keepsSound (s : State) : s.keepsSound s.reverseTick := by
  have owed := setWeb_keepsSound s { s.web with backlog := raiseHolding Config.backlogHold s.web.backlog }
  exact keepsSound_ite (fun _ => keepsSound_trans owed (keepsSound_ite (fun _ => enterHalted_keepsSound _ _)
    fun _ => keepsSound_refl _)) fun _ => owed

theorem encoderTransition_keepsSound (s : State) (a b : Bool) : s.keepsSound (s.encoderTransition a b) := by
  have referred := setWeb_keepsSound s { s.web with refA := a, refB := b }
  exact keepsSound_ite (fun _ => keepsSound_refl s) fun _ =>
    keepsSound_ite (fun _ => keepsSound_trans referred (forwardTick_keepsSound _)) fun _ =>
      keepsSound_ite (fun _ => keepsSound_trans referred (reverseTick_keepsSound _)) fun _ =>
        keepsSound_trans referred (give_keepsSound _ _)

/-! ## Resets (11 R177, 08 R142) -/

theorem sampleSafe_keepsSound (s : State) (i : InputLines) : s.keepsSound (s.sampleSafe i) :=
  keepsSound_ite (fun _ => safeRise_keepsSound s) fun _ => keepsSound_refl s

theorem commitExcept_keepsSound (pre post : State) (os : List Nat) : post.keepsSound (State.commitExcept pre post os) :=
  keepsSound_of_controlKept ⟨rfl, rfl, rfl, rfl⟩

theorem endHost_keepsSound (s : State) (ok : Bool) (data : Option Word) : s.keepsSound (s.endHost ok data) :=
  keepsSound_of_controlKept ⟨rfl, rfl, rfl, rfl⟩

theorem execPowerOn_sound (s : State) (i : InputLines) :
    (State.commit (s.poweredOn i) ((s.poweredOn i).sampleSafe i)).sound :=
  commitExcept_keepsSound _ _ [] (sampleSafe_keepsSound _ i
    (sound_of_controlKept (s := State.reset) ⟨rfl, rfl, rfl, rfl⟩ reset_sound))

theorem lineReset_lane (s : State) (i : InputLines) (l : Lane) : (s.lineReset i).lane l = (s.lane l).lineReset := by
  cases l <;> rfl

theorem lineReset_idle (x : LaneState) : x.lineReset.service = .off ∨ x.lineReset.service = .bypassed :=
  halted_service (x := x) rfl

theorem not_faulted_lineReset (x : LaneState) : x.lineReset.service.isFaulted = false := by
  rcases lineReset_idle x with v | v <;> rw [v] <;> rfl

theorem lineReset_laneSound (x : LaneState) (l : Lane) : x.lineReset.sound l := by
  have empty : ∀ r, r ∉ x.lineReset.queue := fun _ => List.not_mem_nil
  have blank := initialLane_sound l
  exact
    { orderless := blank.orderless
      flagged := fun _ r m => absurd m (empty r)
      faulted := fun _ r m => absurd m (empty r)
      noOrder := fun _ r m => absurd m (empty r)
      noWindow := fun _ => ⟨rfl, rfl⟩
      filling := blank.filling
      closed := fun _ => rfl
      ranOut := fun _ _ => rfl
      parked := fun r hr => nomatch (show Option.none = some r from hr)
      synthetic := ⟨Nat.zero_le 3, fun _ => Nat.zero_le 2⟩ }

theorem lineReset_untouched (x : LaneState) : x.lineReset.untouched :=
  ⟨lineReset_idle x, rfl, rfl, rfl, rfl, rfl, rfl⟩

theorem lineReset_sound (s : State) (i : InputLines) : (s.lineReset i).sound := by
  have state : (s.lineReset i).engine.state = .stopped := rfl
  have early : (s.lineReset i).early = [] := rfl
  refine sound_of_holdsAt (fun l => ?_) fun e => by rw [state] at e; cases e
  have serves := not_serves_of_idle (lineReset_idle (s.lane l))
  refine ⟨?_, ?_, fun e m => by rw [early] at m; cases m⟩ <;> rw [lineReset_lane]
  · exact lineReset_laneSound _ l
  · exact ⟨fun v => absurd (.inl v) serves, fun v => absurd (.inr v) serves,
      fun _ => ⟨rfl, not_faulted_lineReset _, rfl⟩, fun _ => rfl, fun _ => lineReset_untouched _⟩

theorem takeLineReset_sound (s : State) (i : InputLines) (mergeCut : Bool) : (s.takeLineReset i mergeCut).sound := by
  have sampled : (State.commit (s.lineReset i) ((s.lineReset i).sampleSafe i)).sound :=
    commitExcept_keepsSound _ _ [] (sampleSafe_keepsSound _ i (lineReset_sound s i))
  unfold State.takeLineReset
  dsimp only
  split
  · exact endHost_keepsSound _ _ _ sampled
  · exact sampled

end Sys2Proof.Machine
end

section
/-! The engine commands keep the engine sound (07 sections 7.2 to 7.7). -/

namespace Sys2Proof.Machine

/-! ## Lanes that enter and leave service -/

/-- A lane changed, with its service state, so that it suits the engine as it stands. -/
theorem sound_of_own {s t : State} {l : Lane} (h : s.sound) (others : s.lanesBut l t)
    (engine : t.engine.state = s.engine.state) (early : t.early ⊆ s.early)
    (locked : t.regions.locked = s.regions.locked) (own : t.holdsAt l)
    (active : (s.lane l).service = .active → (t.lane l).service = .active) : t.sound := by
  refine sound_of_holdsAt (fun m => ?_) (runs_of_same h.running engine fun m v => ?_) <;> by_cases e : m = l
  · exact e ▸ own
  · exact holdsAt_of_same (holdsAt_of_sound h m) (others m e) engine early locked
  · subst e; exact active v
  · rw [others m e]; exact v

/-- A lane without a parked record, entered into ACTIVE (07 R114). -/
theorem activated_sound {x : LaneState} {l : Lane} (h : x.sound l) (free : x.parked = none) : x.activated.sound l :=
  have serves : x.activated.service.serves := .inl rfl
  { orderless := h.orderless
    flagged := fun v => absurd serves v
    faulted := nofun
    noOrder := fun v => absurd serves (not_serves_of_idle v)
    noWindow := fun v => absurd serves v
    filling := h.filling
    closed := fun v => absurd serves (not_serves_of_idle v)
    ranOut := nofun
    parked := fun _ hr => absurd (free.symm.trans hr) nofun
    synthetic := ⟨Nat.zero_le 3, fun _ => Nat.zero_le 2⟩ }

theorem activated_fits {s : State} {x : LaneState} (use : s.inUse) (running : s.engine.state = .running) :
    x.activated.fits s.engine.state s.regions.locked :=
  fits_of_inUse use (fun _ => running) (fun _ => .inl running) fun v => by rcases v with v | v <;> cases v

/-- A lane OFF or BYPASSED that becomes the other, with its GATE at REJECT (07 R122). -/
theorem idle_keepsSound {s : State} {l : Lane} {y : LaneState}
    (idle : (s.lane l).service = .off ∨ (s.lane l).service = .bypassed)
    (idle' : y.service = .off ∨ y.service = .bypassed)
    (gate : y.gate = .reject) (same : y = { s.lane l with service := y.service, gate := y.gate }) :
    s.keepsSound (s.setLane l y) := fun h => by
  have own := holdsAt_of_sound h l
  have serves := not_serves_of_idle idle
  have serves' := not_serves_of_idle idle'
  have lane : y.sound l := by
    rw [same]
    exact { own.lane with
      flagged := fun _ => own.lane.flagged serves
      faulted := fun v => by rcases idle' with k | k <;> rw [k] at v <;> cases v
      noOrder := fun _ => own.lane.noOrder idle
      noWindow := fun _ => own.lane.noWindow serves
      closed := fun _ => own.lane.closed idle
      ranOut := fun _ _ => own.lane.closed idle
      parked := fun r hr => ⟨own.lane.closed idle, serves', (own.lane.parked r hr).2.2⟩
      synthetic := ⟨own.lane.synthetic.1, fun v => absurd v serves'⟩ }
  refine sound_of_own h (setLane_lanesBut s l y) rfl (List.Subset.refl _) rfl ?_ fun v => absurd (.inl v) serves
  refine ⟨?_, ?_, fun e m k => absurd (own.early e m k) serves⟩ <;> rw [lane_setLane_self]
  · exact lane
  · refine ⟨fun v => absurd (.inl v) serves', fun v => absurd (.inr v) serves', fun e => ⟨?_, ?_, gate⟩, fun _ => gate,
      fun k => ?_⟩
    · rw [same]; exact (own.fits.halted e).1
    · rcases idle' with k | k <;> rw [k] <;> rfl
    · obtain ⟨-, rest⟩ := own.fits.unlocked k
      rw [same]
      exact ⟨idle', rest⟩

/-! ## RUN (07 R112 to R114) -/

theorem runFailure_locked {s : State} {ls : List Lane} (h : s.runFailure ls = none) : s.regions.locked = true := by
  unfold State.runFailure at h
  split at h
  · cases h
  · next k => simpa using k

/-- A state whose engine is set RUNNING, short of the test that some lane is ACTIVE. -/
theorem setRunning_holdsAt {s : State} {l : Lane} (h : s.holdsAt l) (locked : s.regions.locked = true) :
    (s.setEngine .running).holdsAt l where
  lane := h.lane
  fits := fits_of_inUse (s := s.setEngine .running) ⟨locked, nofun⟩ (fun _ => rfl) (fun _ => .inl rfl) h.fits.gate
  early := h.early

/-- The eligible lanes, OFF without a record queued or parked, enter ACTIVE under an engine set RUNNING. -/
theorem activateAll_sound {s : State} {mask : Byte} (h : s.sound) (locked : s.regions.locked = true)
    (named : s.eligibleLanes mask ≠ []) :
    ((s.eligibleLanes mask).foldl State.activate (s.setEngine .running)).sound := by
  have nodup : (s.eligibleLanes mask).Nodup := (maskLanes_nodup mask).filter _
  have started := fun l m => activateAll_in (s.eligibleLanes mask) nodup l m (s.setEngine .running)
  have others := fun l m => activateAll_other (s.eligibleLanes mask) l m (s.setEngine .running)
  have frame := activateAll_lanes (s.eligibleLanes mask) (s.setEngine .running)
  generalize (s.eligibleLanes mask).foldl State.activate (s.setEngine .running) = t at *
  have engine : t.engine.state = .running := by rw [frame]; rfl
  have early : t.early = s.early := by rw [frame]; rfl
  have regions : t.regions = s.regions := by rw [frame]; rfl
  have use : t.inUse := ⟨by rw [regions]; exact locked, by rw [engine]; nofun⟩
  refine sound_of_holdsAt (fun l => ?_) fun _ => ?_
  · by_cases m : l ∈ s.eligibleLanes mask
    · obtain ⟨-, -, -, free⟩ := (mem_eligibleLanes s mask l).mp m
      have lane : t.lane l = (s.lane l).activated := started l m
      refine ⟨?_, ?_, fun e _ _ => ?_⟩ <;> rw [lane]
      · exact activated_sound (h.lanes l) free
      · exact activated_fits use engine
      · exact .inl rfl
    · exact holdsAt_of_same (setRunning_holdsAt (holdsAt_of_sound h l) locked) (others l m) engine
        (by rw [early]; exact List.Subset.refl _) (by rw [regions]; rfl)
  · obtain ⟨l, m⟩ := List.exists_mem_of_ne_nil _ named
    exact ⟨l, by rw [started l m]; rfl⟩

theorem commandRun_keepsSound (s : State) (mask : Byte) : s.keepsSound (s.commandRun mask).1 := by
  simp only [State.commandRun]
  split
  · exact keepsSound_refl s
  · split
    · exact keepsSound_refl s
    · next named =>
      split
      · exact keepsSound_refl s
      · next passed => exact fun h => activateAll_sound h (runFailure_locked passed) (by simpa using named)

/-! ## DRAIN (07 R115, R116) -/

theorem drainLane_lanesBut (s : State) (l : Lane) : s.lanesBut l (s.drainLane l) :=
  lanesBut_ite (lanesBut_trans (setLane_lanesBut s l _) (drainComplete_lanesBut _ l)) (setLane_lanesBut s l _)

/-- An ACTIVE lane set DRAINING is sound as it stands. -/
theorem drainLane_works {s : State} {l : Lane} (h : s.works) (active : (s.lane l).service = .active) :
    (s.drainLane l).works := by
  obtain ⟨use, holds⟩ := h
  have own := holds l
  have serves : (s.lane l).service.serves := .inl active
  have lane : ({ s.lane l with service := .draining } : LaneState).sound l :=
    { own.lane with
      flagged := fun v => absurd (.inr rfl) v
      faulted := nofun
      noOrder := fun v => absurd (.inr rfl) (not_serves_of_idle v)
      noWindow := fun v => absurd (.inr rfl) v
      closed := fun v => absurd (.inr rfl) (not_serves_of_idle v)
      ranOut := nofun
      parked := fun r hr => absurd serves (own.lane.parked r hr).2.1
      synthetic := ⟨own.lane.synthetic.1, fun _ => own.lane.synthetic.2 serves⟩ }
  have self : (s.setService l .draining).lane l = { s.lane l with service := .draining } := lane_setLane_self _ _ _
  have aside : (s.setService l .draining).aside l :=
    aside_of_but ⟨use, fun m _ => holds m⟩ (setLane_lanesBut s l _) rfl (List.Subset.refl _) rfl
  unfold State.drainLane
  dsimp only
  split
  · next ordered =>
    exact (drainComplete_works aside (by rw [self]; exact standing_of_sound lane) (by rw [self]) ordered).1
  · refine works_of_aside aside ⟨?_, ?_, fun _ _ _ => ?_⟩ <;> rw [self]
    · exact lane
    · exact fits_of_inUse aside.1 nofun (fun _ => .inl (own.fits.active active)) fun v => by
        rcases v with v | v <;> cases v
    · exact .inr rfl

theorem drainLanes_works {ls : List Lane} {s : State} (h : s.works) (nodup : ls.Nodup)
    (active : ∀ l ∈ ls, (s.lane l).service = .active) : (ls.foldl State.drainLane s).works := by
  induction ls generalizing s with
  | nil => exact h
  | cons l ls ih =>
    obtain ⟨notIn, nodup⟩ := List.nodup_cons.mp nodup
    refine ih (drainLane_works h (active l List.mem_cons_self)) nodup fun m k => ?_
    rw [drainLane_lanesBut s l m fun e => notIn (e ▸ k)]
    exact active m (List.mem_cons_of_mem l k)

theorem commandDrain_keepsSound (s : State) (mask : Byte) : s.keepsSound (s.commandDrain mask).1 := by
  simp only [State.commandDrain]
  split
  · exact keepsSound_refl s
  · split
    · exact keepsSound_refl s
    · next named =>
      intro h
      obtain ⟨l, m⟩ := List.exists_mem_of_ne_nil ((maskLanes mask).filter (fun l => (s.lane l).service == .active))
        fun e => named (by rw [e]; rfl)
      have active : ∀ l ∈ (maskLanes mask).filter (fun l => (s.lane l).service == .active),
          (s.lane l).service = .active := fun l m => by simpa using (List.mem_filter.mp m).2
      have works : s.works := ⟨inUse_of_serving h (.inl (active l m)), holdsAt_of_sound h⟩
      exact (settleEngine_goesOn (drainLanes_works works ((maskLanes_nodup mask).filter _) active)).2

/-! ## The other commands (07 R117 to R123) -/

theorem commandClearHalt_keepsSound (s : State) : s.keepsSound s.commandClearHalt.1 := by
  simp only [State.commandClearHalt]
  split
  · exact keepsSound_refl s
  · next halted =>
    split
    · exact keepsSound_refl s
    · exact fun h => sound_of_holdsAt (fun l => holdsAt_stopped (holdsAt_of_sound h l) rfl
        (h.stopped (.inr (not_not.mp halted)) l) rfl rfl rfl) nofun

theorem inUse_of_stack {s : State} {l : Lane} (h : s.sound) (stack : (s.lane l).openStack ≠ none) : s.inUse := by
  refine inUse_of_touched h (l := l) (fun ⟨_, _, _, _, closed, _⟩ => stack closed) fun halted => ?_
  have serves := h.stopped (.inr halted) l
  have faulted := (h.halted halted l).2
  cases service : (s.lane l).service with
  | off => exact stack ((h.lanes l).closed (.inl service))
  | bypassed => exact stack ((h.lanes l).closed (.inr service))
  | active => exact serves (.inl service)
  | draining => exact serves (.inr service)
  | faulted c => rw [service] at faulted; cases faulted

theorem commandCloseStack_keepsSound (s : State) (l : Lane) : s.keepsSound (s.commandCloseStack l).1 := by
  refine keepsSound_ite (fun stack h => ?_) fun _ => keepsSound_refl s
  have goes : s.goesOn := ⟨inUse_of_stack h (l := l) (Option.isSome_iff_ne_none.mp stack), h⟩
  have own := holdsAt_of_sound h l
  obtain ⟨works, runs⟩ := closeAndFault_works .host (aside_of_goesOn goes l) (standing_of_sound own.lane).toclosing
    own.fits own.early
  exact (goesOn_of_works works (runs h.running)).2

theorem clearLaneRefusal_none {s : State} {l : Lane} (h : s.clearLaneRefusal l = none) :
    (s.lane l).service.isFaulted = true ∧ (s.lane l).queue = [] ∧ (s.lane l).parked = none := by
  unfold State.clearLaneRefusal at h
  split at h
  · cases h
  · next faulted =>
    split at h
    · cases h
    · next queue =>
      split at h
      · cases h
      · next parked => exact ⟨by simpa using faulted, by simpa using queue, by simpa using parked⟩

/-- A FAULTED lane that has run out goes OFF. -/
theorem cleared_sound {x : LaneState} {l : Lane} (h : x.sound l) (faulted : x.service.isFaulted = true)
    (queue : x.queue = []) : ({ x with service := .off } : LaneState).sound l :=
  have serves : ¬ Service.off.serves := not_serves_of_idle (.inl rfl)
  have stack := h.ranOut faulted queue
  have empty : ∀ r, r ∉ x.queue := by rw [queue]; simp
  { h with
    flagged := fun _ r m => absurd m (empty r)
    faulted := nofun
    noOrder := fun _ r m => absurd m (empty r)
    noWindow := fun _ => h.noWindow (not_serves_of_faulted faulted)
    closed := fun _ => stack
    ranOut := nofun
    parked := fun r hr => ⟨stack, serves, (h.parked r hr).2.2⟩
    synthetic := ⟨h.synthetic.1, fun v => absurd v serves⟩ }

theorem commandClearLane_keepsSound (s : State) (l : Lane) : s.keepsSound (s.commandClearLane l).1 := by
  simp only [State.commandClearLane]
  split
  · exact keepsSound_refl s
  · next cleared =>
    intro h
    obtain ⟨faulted, queue, free⟩ := clearLaneRefusal_none cleared
    have own := holdsAt_of_sound h l
    have serves := not_serves_of_faulted faulted
    have use : s.inUse := inUse_of_touched h (l := l)
      (fun ⟨idle, _⟩ => by rcases idle with v | v <;> rw [v] at faulted <;> cases faulted)
      fun e => by rw [(h.halted e l).2] at faulted; cases faulted
    have others := fun y => aside_of_but (aside_of_goesOn ⟨use, h⟩ l) (setLane_lanesBut s l y) rfl
      (List.Subset.refl _) rfl
    split
    · next running =>
      refine (goesOn_of_aside (others _) ⟨?_, ?_, fun e m k => absurd (own.early e m k) serves⟩ fun _ => ⟨l, ?_⟩).2 <;>
        rw [lane_setLane_self]
      · exact activated_sound own.lane free
      · exact activated_fits use running
      · rfl
    · next running =>
      have idle := not_serves_of_idle (v := .off) (.inl rfl)
      refine (testStopped_goesOn (goesOn_of_aside (s := s.setService l .off) (others _)
        ⟨?_, ?_, fun e m k => absurd (own.early e m k) serves⟩ fun e => absurd e running)).2 <;>
        rw [State.setService, lane_setLane_self]
      · exact cleared_sound own.lane faulted queue
      · exact fits_of_inUse use nofun nofun fun v => by rcases v with v | v <;> cases v

theorem commandBypass_keepsSound (s : State) (l : Lane) : s.keepsSound (s.commandBypass l).1 := by
  simp only [State.commandBypass]
  split
  · next off =>
    simp only [State.setGate, State.setService, lane_setLane_self, setLane_setLane]
    exact idle_keepsSound (.inl off) (.inr rfl) rfl rfl
  · exact keepsSound_refl s

theorem commandUnbypass_keepsSound (s : State) (l : Lane) : s.keepsSound (s.commandUnbypass l).1 := by
  simp only [State.commandUnbypass]
  split
  · next bypassed => exact fun h => idle_keepsSound (.inr bypassed) (.inl rfl) (h.gates l (.inr (.inr bypassed))) rfl h
  · exact keepsSound_refl s

theorem keepsSound_ite_fst {s : State} {c : Prop} [Decidable c] {p q : State × Reply} (h : s.keepsSound p.1)
    (k : s.keepsSound q.1) : s.keepsSound (if c then p else q).1 := by
  split
  · exact h
  · exact k

theorem engineAction_keepsSound (s : State) (code operand : Byte) : s.keepsSound (s.engineAction code operand).1 := by
  simp only [State.engineAction]
  split
  · exact keepsSound_ite_fst (commandRun_keepsSound s _) (keepsSound_refl s)
  · exact keepsSound_ite_fst (commandDrain_keepsSound s _) (keepsSound_refl s)
  · exact takeHalt_keepsSound s .command
  · exact commandClearHalt_keepsSound s
  · exact keepsSound_ite_fst (commandCloseStack_keepsSound s _) (keepsSound_refl s)
  · exact keepsSound_ite_fst (commandClearLane_keepsSound s _) (keepsSound_refl s)
  · exact keepsSound_ite_fst (commandBypass_keepsSound s _) (keepsSound_refl s)
  · exact keepsSound_ite_fst (commandUnbypass_keepsSound s _) (keepsSound_refl s)
  · exact keepsSound_refl s

theorem recordReply_keepsSound (s : State) (code : Byte) (r : Reply) : s.keepsSound (s.recordReply code r) :=
  keepsSound_of_controlKept ⟨rfl, rfl, rfl, rfl⟩

theorem announceReply_keepsSound (s : State) (code : Byte) (r : Reply) : s.keepsSound (s.announceReply code r) :=
  keepsSound_ite (fun _ => keepsSound_refl s) fun _ => give_keepsSound s _

theorem engineCommand_keepsSound (s : State) (d : Word) : s.keepsSound (s.engineCommand d) :=
  keepsSound_ite (fun _ => keepsSound_trans (keepsSound_trans (engineAction_keepsSound s _ _)
    (announceReply_keepsSound _ _ _)) (recordReply_keepsSound _ _ _))
    fun _ => keepsSound_trans (give_keepsSound s _) (recordReply_keepsSound _ _ _)

end Sys2Proof.Machine
end

section
/-! Control words, host cycles and grants keep the engine sound, and so does every step: the obligation on what each
step keeps of engine, lanes, queues, stacks and gates. -/

namespace Sys2Proof.Machine

/-! ## Control words (03, 08, 09, 11) -/

theorem controlKept_trans {s t u : State} (h : s.controlKept t) (k : t.controlKept u) : s.controlKept u := by
  obtain ⟨lanes, early, engine, locked⟩ := h
  obtain ⟨lanes', early', engine', locked'⟩ := k
  exact ⟨lanes'.trans lanes, early'.trans early, engine'.trans engine, locked'.trans locked⟩

theorem storeControl_keepsSound {s t : State} (h : s.keepsSound t) (off : Nat) (d : Word) :
    s.keepsSound (t.storeControl off d) :=
  keepsSound_trans h (keepsSound_of_controlKept ⟨rfl, rfl, rfl, rfl⟩)

theorem refuseSetting_keepsSound (s : State) (off : Nat) (d : Word) : s.keepsSound (s.refuseSetting off d) :=
  giveRaise_keepsSound s _ _

theorem refuseProtected_keepsSound (s : State) (b : EventBody) : s.keepsSound (s.refuseProtected b) :=
  keepsSound_trans (giveRaise_keepsSound s _ b) (endHost_keepsSound _ _ _)

theorem writeSetting_keepsSound (s : State) (x : Setting) (d : Word) : s.keepsSound (s.writeSetting x d) := by
  have refused := keepsSound_trans (refuseSetting_keepsSound s (settingOffset x) d) (endHost_keepsSound _ true none)
  unfold State.writeSetting
  refine keepsSound_ite (fun _ => refused) fun _ => ?_
  split
  · exact refused
  · next c w _ =>
    have settled : s.keepsSound (State.settleScrub { s with settings := c } x) :=
      keepsSound_ite (fun _ => keepsSound_of_controlKept ⟨rfl, rfl, rfl, rfl⟩)
        fun _ => keepsSound_of_controlKept ⟨rfl, rfl, rfl, rfl⟩
    exact storeControl_keepsSound settled _ _

theorem setExemptWindow_keepsSound (s : State) (n : WindowName) (w : ExemptWindow) :
    s.keepsSound (s.setExemptWindow n w) := by
  cases n <;> exact keepsSound_of_controlKept ⟨rfl, rfl, rfl, rfl⟩

theorem recheckWindow_keepsSound (s : State) (n : WindowName) : s.keepsSound (s.recheckWindow n) :=
  keepsSound_ite (fun _ => keepsSound_trans (setExemptWindow_keepsSound s n _) (give_keepsSound _ _))
    fun _ => keepsSound_refl s

theorem writeMap_keepsSound (s : State) (e : MapEntryName) (d : Word) : s.keepsSound (s.writeMap e d) := by
  unfold State.writeMap
  split
  · exact keepsSound_trans (refuseSetting_keepsSound s _ d) (endHost_keepsSound _ _ _)
  · have entered : s.keepsSound { s with regions := s.regions.withEntry e (takenEntry e d) } := by
      cases e <;> exact keepsSound_of_controlKept ⟨rfl, rfl, rfl, rfl⟩
    have mapped :
        s.keepsSound (({ s with regions := s.regions.withEntry e (takenEntry e d) } : State).resetRing e) := by
      refine keepsSound_trans entered ?_
      cases e with
      | orderRing l => refine retune_keepsSound ?_ ?_ <;> rfl
      | stackRing => exact keepsSound_of_controlKept ⟨rfl, rfl, rfl, rfl⟩
      | eventRing => exact keepsSound_of_controlKept ⟨rfl, rfl, rfl, rfl⟩
      | verdictCells => exact keepsSound_refl _
    exact storeControl_keepsSound (keepsSound_trans (keepsSound_trans mapped (recheckWindow_keepsSound _ _))
      (recheckWindow_keepsSound _ _)) _ _

/-- Locking the map lifts what an unlocked map asks. -/
theorem lockMap_keepsSound (s : State) : s.keepsSound { s with regions := { s.regions with locked := true } } :=
  fun h => { h with unlocked := nofun }

theorem writeLock_keepsSound (s : State) (d : Word) : s.keepsSound (s.writeLock d) := by
  have refused := refuseSetting_keepsSound s 0x067 d
  exact storeControl_keepsSound (keepsSound_ite (fun _ => keepsSound_ite (fun _ => keepsSound_refl s)
    fun _ => keepsSound_ite (fun _ => lockMap_keepsSound s) fun _ => refused)
    fun _ => keepsSound_ite (fun _ => keepsSound_refl s) fun _ => refused) _ _

theorem writePut_keepsSound (s : State) (l : Lane) (d : Word) : s.keepsSound (s.writePut l d) := by
  by_cases taken : s.putTaken l (indexField d) = true
  · rw [writePut_taken taken]
    refine storeControl_keepsSound (retune_keepsSound ?_ ?_) _ _ <;> rfl
  · rw [writePut_refused taken]; exact refuseProtected_keepsSound s _

theorem writeStackRead_keepsSound (s : State) (d : Word) : s.keepsSound (s.writeStackRead d) :=
  keepsSound_ite (fun _ => keepsSound_of_controlKept ⟨rfl, rfl, rfl, rfl⟩) fun _ => refuseProtected_keepsSound s _

theorem writeEventRead_keepsSound (s : State) (d : Word) : s.keepsSound (s.writeEventRead d) :=
  keepsSound_ite (fun _ => keepsSound_of_controlKept ⟨rfl, rfl, rfl, rfl⟩) fun _ => refuseProtected_keepsSound s _

theorem writeWindow_keepsSound (s : State) (n : WindowName) (k : WindowWord) (d : Word) :
    s.keepsSound (s.writeWindow n k d) :=
  storeControl_keepsSound (keepsSound_ite (fun _ => keepsSound_trans (setExemptWindow_keepsSound s n _)
    (refuseSetting_keepsSound _ _ d)) fun _ => setExemptWindow_keepsSound s n _) _ _

theorem writeControl_keepsSound (s : State) (off : Nat) (d : Word) : s.keepsSound (s.writeControl off d) := by
  have kept {t : State} (k : s.controlKept t) := keepsSound_of_controlKept k
  unfold State.writeControl
  cases controlWord off with
  | partOwned => exact refuseProtected_keepsSound s _
  | reserved => exact storeControl_keepsSound (keepsSound_refl s) _ _
  | engineCell => exact storeControl_keepsSound (engineCommand_keepsSound s d) _ _
  | memoryCell => exact kept ⟨rfl, rfl, rfl, rfl⟩
  | operandStart => exact kept ⟨rfl, rfl, rfl, rfl⟩
  | operandCount => exact kept ⟨rfl, rfl, rfl, rfl⟩
  | operandFill => exact kept ⟨rfl, rfl, rfl, rfl⟩
  | setting x => exact writeSetting_keepsSound s x d
  | mapEntry e => exact writeMap_keepsSound s e d
  | mapLock => exact writeLock_keepsSound s d
  | put l => exact writePut_keepsSound s l d
  | stackRead => exact writeStackRead_keepsSound s d
  | eventRead => exact writeEventRead_keepsSound s d
  | acknowledge => exact kept ⟨rfl, rfl, rfl, rfl⟩
  | window n k => exact writeWindow_keepsSound s n k d

/-! ## Verdicts (04) -/

theorem verdictOutcome_serves {s : State} {d : Word} (h : s.verdictOutcome d ≠ .refused) :
    (s.lane (verdictLane d)).service.serves := by
  refine inService_service ?_
  by_contra out
  exact h (if_pos (.inr (by simpa using out)))

theorem updateFirst_mem {α : Type} {p : α → Bool} {f : α → α} {q : List α} {x : α} (h : x ∈ updateFirst p f q) :
    x ∈ q ∨ ∃ y ∈ q, x = f y := by
  induction q with
  | nil => cases h
  | cons y q ih =>
    unfold updateFirst at h
    split at h
    · rcases List.mem_cons.mp h with rfl | m
      · exact .inr ⟨y, List.mem_cons_self, rfl⟩
      · exact .inl (List.mem_cons_of_mem y m)
    · rcases List.mem_cons.mp h with rfl | m
      · exact .inl List.mem_cons_self
      · rcases ih m with old | ⟨z, old, rfl⟩
        · exact .inl (List.mem_cons_of_mem y old)
        · exact .inr ⟨z, List.mem_cons_of_mem y old, rfl⟩

/-- An entry of the table after a verdict is held is of a lane that had one, or of the verdict's lane. -/
theorem holdEarly_lane {q : List EarlyEntry} {d : Word} {e : EarlyEntry} (h : e ∈ holdEarly q d) :
    (∃ e' ∈ q, e.lane = e'.lane) ∨ e.lane = verdictLane d := by
  unfold holdEarly at h
  split at h
  · rcases updateFirst_mem h with m | ⟨e', m, rfl⟩
    · exact .inl ⟨e, m, rfl⟩
    · exact .inl ⟨e', m, rfl⟩
  · rcases List.mem_append.mp h with m | m
    · exact .inl ⟨e, m, rfl⟩
    · rw [List.mem_singleton.mp m]; exact .inr rfl

theorem takeVerdict_keepsSound (s : State) (a : Nat) (d : Word) : s.keepsSound (s.takeVerdict a d) := by
  have applied : s.keepsSound (s.applyVerdict d (s.verdictOutcome d)) := by
    cases outcome : s.verdictOutcome d with
    | taken =>
      exact requeue_keepsSound (flagsKeptIn_updateFirst (f := (·.merge (verdictCode d) (verdictDefect d)))
        (fun _ => flagsKept_of_flags rfl rfl) _) updateFirst_eq_nil rfl rfl
    | held =>
      intro h
      have serves := verdictOutcome_serves (s := s) (d := d) (by rw [outcome]; nofun)
      refine { h with early := fun e m => ?_ }
      show (s.lane e.lane).service.serves
      rcases holdEarly_lane m with ⟨e', m, lane⟩ | lane <;> rw [lane]
      · exact h.early e' m
      · exact serves
    | late => exact giveRaise_keepsSound s _ _
    | full => exact give_keepsSound s _
    | refused => exact give_keepsSound s _
  exact keepsSound_trans applied (keepsSound_of_controlKept ⟨rfl, rfl, rfl, rfl⟩)

/-! ## Host cycles (08) -/

theorem hostRead_keepsSound (s : State) (a : Nat) : s.keepsSound (s.hostRead a) := by
  have reported {t : State} (r : s.reportOnly t) := keepsSound_of_controlKept (reportOnly_controlKept r)
  refine keepsSound_trans ?_ (endHost_keepsSound _ _ _)
  cases s.readOutcome a with
  | clean => exact keepsSound_refl s
  | blank => exact keepsSound_refl s
  | corrected b => exact reported (reportOnly_trans (detectCorrectable_reportOnly s _ a b) (offerScrub_reportOnly _ a))
  | uncorrectable d => exact reported (consumeUncorrectable_reportOnly s _ a d)

theorem hostWrite_keepsSound (s : State) (a : Nat) (d : Word) : s.keepsSound (s.hostWrite a d) := by
  have stored : s.keepsSound (s.storeWord a d).endOk := keepsSound_of_controlKept ⟨rfl, rfl, rfl, rfl⟩
  have blocked := fun l => refuseProtected_keepsSound s { code := .protectionBlock, lane := l, address := some a }
  unfold State.hostWrite
  cases s.addressClass a with
  | plain => exact stored
  | exempt => exact stored
  | orderSlot l slot => exact keepsSound_ite (fun _ => blocked _) fun _ => stored
  | verdict => exact keepsSound_trans (takeVerdict_keepsSound s a d) (endHost_keepsSound _ _ _)
  | stackRing => exact blocked _
  | eventRing => exact blocked _
  | control => exact writeControl_keepsSound s _ d

theorem checkedMerge_keepsSound (s : State) (a : Nat) (d : Word) (be : BitVec 4) :
    s.keepsSound (s.checkedMerge a d be) := by
  have merged : ∀ x, s.controlKept (s.lockPort.storeLocation a x) := fun x => ⟨rfl, rfl, rfl, rfl⟩
  have ended : ∀ {t : State} ok, s.controlKept t → s.keepsSound (t.endHost ok none) := fun _ k =>
    keepsSound_trans (keepsSound_of_controlKept k) (endHost_keepsSound _ _ _)
  unfold State.checkedMerge
  cases s.readOutcome a with
  | clean => exact ended _ (merged _)
  | blank => exact ended _ (merged _)
  | corrected b =>
    exact ended _ (controlKept_trans (merged _) (reportOnly_controlKept (detectCorrectable_reportOnly _ _ a b)))
  | uncorrectable x =>
    exact ended _ (controlKept_trans (merged _) (reportOnly_controlKept (consumeUncorrectable_reportOnly _ _ a x)))

theorem hostPartialWrite_keepsSound (s : State) (a : Nat) (d : Word) (be : BitVec 4) :
    s.keepsSound (s.hostPartialWrite a d be) := by
  have merged := checkedMerge_keepsSound s a d be
  have refused := fun b => refuseProtected_keepsSound s b
  unfold State.hostPartialWrite
  cases s.addressClass a with
  | plain => exact merged
  | orderSlot l slot => exact keepsSound_ite (fun _ => refused _) fun _ => merged
  | exempt => exact keepsSound_of_controlKept ⟨rfl, rfl, rfl, rfl⟩
  | verdict => exact refused _
  | control => exact refused _
  | stackRing => exact refused _
  | eventRing => exact refused _

theorem hostWork_keepsSound (s : State) (c : HostCycle) : s.keepsSound (s.hostWork c) := by
  cases c with
  | read a => exact hostRead_keepsSound s _
  | write a d => exact hostWrite_keepsSound s _ d
  | partialWrite a d be =>
    exact keepsSound_ite (fun _ => hostPartialWrite_keepsSound s _ d be) fun _ => hostWrite_keepsSound s _ d

/-! ## Grants to the part (03, 06, 09, 10, 11) -/

theorem completeFetch_keepsSound {s : State} {l : Lane} (serves : (s.lane l).service.serves) (q : Reservation)
    (pmin : Half) : s.keepsSound (s.setLane l ((s.lane l).completeFetch q pmin)) := by
  unfold LaneState.completeFetch
  split <;> exact rewindow_keepsSound serves rfl

/-- A fetch is pending in a lane in service only (03 R46, R58). -/
theorem fetchWork_keepsSound (s : State) : s.keepsSound s.fetchWork := by
  unfold State.fetchWork
  split
  · exact keepsSound_refl s
  · next l _ =>
    split
    · exact keepsSound_refl s
    · next r reserved =>
      intro h
      have serves : (s.lane l).service.serves := by
        by_contra idle
        rw [((h.lanes l).noWindow idle).2] at reserved; cases reserved
      have read : s.controlKept (State.reportFetch { s with arbiter := { s.arbiter with lastLane := l } } l _ _) :=
        controlKept_trans (t := { s with arbiter := { s.arbiter with lastLane := l } }) ⟨rfl, rfl, rfl, rfl⟩
          (reportOnly_controlKept (reportFetch_reportOnly _ l
            ((s.regions.orderRing.get l).slotAddress r.index r.words.length)
            (State.readOutcome { s with arbiter := { s.arbiter with lastLane := l } }
              ((s.regions.orderRing.get l).slotAddress r.index r.words.length))))
      exact completeFetch_keepsSound (by rw [controlKept_lane read]; exact serves) _ _ (sound_of_controlKept read h)

theorem serveFetch_keepsSound (s : State) : s.keepsSound s.serveFetch :=
  keepsSound_trans (keepsSound_trans (t := s.grantInternal .fetch) (keepsSound_of_controlKept ⟨rfl, rfl, rfl, rfl⟩)
    (fetchWork_keepsSound _)) (commitExcept_keepsSound s _ [])

theorem publishHead_keepsSound (s : State) (r : StackRecord) : s.keepsSound (s.publishHead r) := by
  refine keepsSound_trans (t := { s with writer := { s.writer with
    stackWords := 0, holding := s.writer.holding.tail } }) (keepsSound_of_controlKept ⟨rfl, rfl, rfl, rfl⟩)
    (retune_keepsSound ?_ ?_) <;> rfl

/-- A parked record taken into the holding list leaves its lane sound (06 R103). -/
theorem freeParked_keepsSound (s : State) (l : Lane) : s.keepsSound (s.setLane l { s.lane l with parked := none }) :=
  fun h => sound_setLane h { h.lanes l with parked := nofun }
    ⟨rfl, rfl, id, fun ⟨idle, queue, window, reservation, stack, carry, _⟩ =>
      ⟨idle, queue, window, reservation, stack, carry, rfl⟩⟩

theorem unpark_keepsSound (s : State) : s.keepsSound s.unpark := by
  unfold State.unpark
  split
  · exact keepsSound_refl s
  · next l _ =>
    split
    · exact keepsSound_refl s
    · exact keepsSound_trans (freeParked_keepsSound s l) (keepsSound_of_controlKept ⟨rfl, rfl, rfl, rfl⟩)

theorem recordWork_keepsSound (s : State) (k : RecordKind) : s.keepsSound (s.recordWork k) := by
  have kept {s t : State} (k : s.controlKept t) := keepsSound_of_controlKept k
  have served : ∀ j, s.keepsSound (s.servedRecord j) := fun j => kept ⟨rfl, rfl, rfl, rfl⟩
  cases k with
  | stack =>
    refine keepsSound_trans (served .stack) (show State.keepsSound _ (State.stackWork _) from ?_)
    unfold State.stackWork
    split
    · exact keepsSound_refl _
    · next r _ _ =>
      refine keepsSound_ite (fun _ => kept ⟨rfl, rfl, rfl, rfl⟩) fun _ => ?_
      have stored : ∀ (u : State) a d, u.keepsSound (u.storeWord a d) := fun u a d => kept ⟨rfl, rfl, rfl, rfl⟩
      exact keepsSound_trans (keepsSound_trans (stored _ _ _) (publishHead_keepsSound _ r)) (unpark_keepsSound _)
  | event =>
    refine keepsSound_trans (served .event) (show State.keepsSound _ (State.eventWork _) from ?_)
    unfold State.eventWork
    split
    · exact keepsSound_refl _
    · exact keepsSound_ite (fun _ => kept ⟨rfl, rfl, rfl, rfl⟩) fun _ => kept ⟨rfl, rfl, rfl, rfl⟩
  | status =>
    refine keepsSound_trans (served .status) (show State.keepsSound _ (State.storeStatusWord _) from ?_)
    unfold State.storeStatusWord
    split
    · exact keepsSound_refl _
    · exact kept ⟨rfl, rfl, rfl, rfl⟩

theorem serveRecord_keepsSound (s : State) (k : RecordKind) : s.keepsSound (s.serveRecord k) :=
  keepsSound_trans (keepsSound_trans (t := s.grantInternal .record) (keepsSound_of_controlKept ⟨rfl, rfl, rfl, rfl⟩)
    (recordWork_keepsSound _ k)) (commitExcept_keepsSound s _ indexOffsets)

theorem scrubAddress_controlKept (s : State) (a : Nat) : s.controlKept (s.scrubAddress a) := by
  unfold State.scrubAddress
  dsimp only
  split
  · exact ⟨rfl, rfl, rfl, rfl⟩
  · exact ⟨rfl, rfl, rfl, rfl⟩
  · exact controlKept_trans (t := s.storeWord a _) ⟨rfl, rfl, rfl, rfl⟩
      (reportOnly_controlKept (detectCorrectable_reportOnly _ _ a _))
  · exact reportOnly_controlKept (consumeUncorrectable_reportOnly s _ a _)

theorem scrubWork_controlKept (s : State) : s.controlKept s.scrubWork := by
  unfold State.scrubWork
  split
  · exact ⟨rfl, rfl, rfl, rfl⟩
  · next a rest _ =>
    dsimp only
    split
    · exact ⟨rfl, rfl, rfl, rfl⟩
    · exact controlKept_trans (t := ({ s with scrubQueue := rest } : State).lockPort) ⟨rfl, rfl, rfl, rfl⟩
        (scrubAddress_controlKept _ a)

theorem verifyAt_controlKept (s : State) (a : Nat) : s.controlKept (s.verifyAt a) := by
  have placed : ∀ {u : State}, s.controlKept u → ∀ m, s.controlKept (u.setMem m) := fun h _ =>
    controlKept_trans h ⟨rfl, rfl, rfl, rfl⟩
  unfold State.verifyAt
  dsimp only
  split
  · exact ⟨rfl, rfl, rfl, rfl⟩
  · split
    · exact ⟨rfl, rfl, rfl, rfl⟩
    · exact ⟨rfl, rfl, rfl, rfl⟩
    · exact placed (controlKept_trans (t := s.lockPort.storeWord a _) ⟨rfl, rfl, rfl, rfl⟩
        (reportOnly_controlKept (detectCorrectable_reportOnly _ _ a _))) _
    · exact placed (controlKept_trans (t := s.lockPort) ⟨rfl, rfl, rfl, rfl⟩
        (reportOnly_controlKept (consumeUncorrectable_reportOnly _ _ a _))) _

theorem walkWork_controlKept (s : State) : s.controlKept s.walkWork := by
  unfold State.walkWork
  split
  · exact verifyAt_controlKept s _
  · split
    · unfold State.clearAt
      split <;> exact ⟨rfl, rfl, rfl, rfl⟩
    · exact ⟨rfl, rfl, rfl, rfl⟩

theorem memWork_controlKept (s : State) (k : MemKind) : s.controlKept (s.memWork k) := by
  cases k with
  | scrub => exact controlKept_trans (t := s.servedMem .scrub) ⟨rfl, rfl, rfl, rfl⟩ (scrubWork_controlKept _)
  | walk => exact controlKept_trans (t := s.servedMem .walk) ⟨rfl, rfl, rfl, rfl⟩ (walkWork_controlKept _)

theorem serveMem_keepsSound (s : State) (k : MemKind) : s.keepsSound (s.serveMem k) := by
  obtain ⟨publication, last⟩ := statusLast_eq s (State.commit s ((s.grantInternal .memcmd).memWork k))
  have worked := controlKept_trans (s := s) (t := s.grantInternal .memcmd) ⟨rfl, rfl, rfl, rfl⟩
    (memWork_controlKept _ k)
  unfold State.serveMem
  rw [last]
  exact keepsSound_trans (keepsSound_trans (keepsSound_of_controlKept worked) (commitExcept_keepsSound s _ []))
    (keepsSound_of_controlKept ⟨rfl, rfl, rfl, rfl⟩)

theorem serve_keepsSound (s : State) (r : Internal) : s.keepsSound (s.serve r) := by
  cases r with
  | fetch => exact serveFetch_keepsSound s
  | record =>
    unfold State.serve
    cases s.nextRecord with
    | none => exact keepsSound_refl s
    | some k => exact serveRecord_keepsSound s k
  | memcmd =>
    unfold State.serve
    cases s.nextMem with
    | none => exact keepsSound_refl s
    | some k => exact serveMem_keepsSound s k

theorem serveOwed_keepsSound (n : Nat) (s : State) : s.keepsSound (State.serveOwed n s) := by
  induction n generalizing s with
  | zero => exact keepsSound_refl s
  | succ n ih =>
    unfold State.serveOwed
    split
    · exact keepsSound_refl s
    · exact keepsSound_trans (serve_keepsSound s _) (ih _)

/-! ## The rows -/

theorem hostCycle_keepsSound (s : State) (c : HostCycle) : s.keepsSound (s.hostCycle c) := by
  have granted : ∀ u : State, u.keepsSound u.grantHost := fun u => keepsSound_of_controlKept ⟨rfl, rfl, rfl, rfl⟩
  unfold State.hostCycle
  split
  · exact keepsSound_trans (keepsSound_trans (keepsSound_trans (serveOwed_keepsSound 3 s) (granted _))
      (hostWork_keepsSound _ c)) (commitExcept_keepsSound _ _ [])
  · exact keepsSound_ite (fun _ => keepsSound_refl s) fun _ => keepsSound_of_controlKept ⟨rfl, rfl, rfl, rfl⟩

theorem blockRow_keepsSound (c : Instr) (s : State) (notHost : hostCycleRow c = false) (notGrant : grantRow c = false)
    (notReset : resetRow c = false) : ∃ f : State → State, exec c s = .next (s.act f) ∧ s.keepsSound (f s) := by
  cases c with
  | encoderTransition a b => exact ⟨_, rfl, encoderTransition_keepsSound s a b⟩
  | spliceStart => exact ⟨_, rfl, spliceRise_keepsSound s⟩
  | spliceFall => exact ⟨_, rfl, keepsSound_of_controlKept ⟨rfl, rfl, rfl, rfl⟩⟩
  | markEvent l => exact ⟨_, rfl, markPulse_keepsSound s l⟩
  | markWindowExpiry l => exact ⟨_, rfl, takeExpiry_keepsSound s l⟩
  | deadlineEvent l => exact ⟨_, rfl, takeDeadline_keepsSound s l⟩
  | cutEvent l => exact ⟨_, rfl, takeCut_keepsSound s l⟩
  | confirmLimitEvent l => exact ⟨_, rfl, takeConfirmLimit_keepsSound s l⟩
  | knifePulseEnd l => exact ⟨_, rfl, endKnifePulse_keepsSound s l⟩
  | kdone l => exact ⟨_, rfl, kdonePulse_keepsSound s l⟩
  | gateEvent l => exact ⟨_, rfl, takeGate_keepsSound s l⟩
  | trayReady l => exact ⟨_, rfl, trayReadyPulse_keepsSound s l⟩
  | trayPulseEnd l => exact ⟨_, rfl, endTrayPulse_keepsSound s l⟩
  | safeRise => exact ⟨_, rfl, safeRise_keepsSound s⟩
  | safeFall => exact ⟨_, rfl, keepsSound_of_controlKept ⟨rfl, rfl, rfl, rfl⟩⟩
  | fetchStart l => exact ⟨_, rfl, startFetch_keepsSound s l⟩
  | powerOn _ => cases notReset
  | startUpImageComplete _ => cases notReset
  | lineReset _ _ => cases notReset
  | verifyWord => cases notGrant
  | clearWord => cases notGrant
  | scrub => cases notGrant
  | fetchRead => cases notGrant
  | stackRecordWord => cases notGrant
  | stackPublicationComplete => cases notGrant
  | eventRecordWord => cases notGrant
  | eventPublicationComplete => cases notGrant
  | statusPublication => cases notGrant
  | _ => cases notHost

theorem grantRow_keepsSound {c : Instr} {s t : State} (row : grantRow c = true) (he : exec c s = .next t) :
    s.keepsSound t := by
  have granted {p : Prop} [Decidable p] {u : State} (k : s.keepsSound u) : s.keepsSound (if p then u else s) :=
    keepsSound_ite (fun _ => k) fun _ => keepsSound_refl s
  cases c with
  | fetchRead => cases he; exact granted (serveFetch_keepsSound s)
  | verifyWord => cases he; exact granted (serveMem_keepsSound s _)
  | clearWord => cases he; exact granted (serveMem_keepsSound s _)
  | scrub => cases he; exact granted (serveMem_keepsSound s _)
  | stackRecordWord => cases he; exact granted (serveRecord_keepsSound s _)
  | stackPublicationComplete => cases he; exact granted (serveRecord_keepsSound s _)
  | eventRecordWord => cases he; exact granted (serveRecord_keepsSound s _)
  | eventPublicationComplete => cases he; exact granted (serveRecord_keepsSound s _)
  | statusPublication => cases he; exact granted (serveRecord_keepsSound s _)
  | _ => cases row

theorem imageDone_keepsSound (s : State) : s.keepsSound s.imageDone := by
  refine keepsSound_of_controlKept ?_
  unfold State.imageDone State.publishSplice
  split <;> exact ⟨rfl, rfl, rfl, rfl⟩

theorem takeWaitingReset_keepsSound (s : State) (waiting : Bool) (reset : Option InputLines) :
    s.keepsSound (s.takeWaitingReset waiting reset) := by
  unfold State.takeWaitingReset
  split
  · exact keepsSound_ite (fun _ _ => takeLineReset_sound s _ _) fun _ => keepsSound_refl s
  · exact keepsSound_refl s

theorem takeHeldCycle_keepsSound (s : State) : s.keepsSound s.takeHeldCycle := by
  unfold State.takeHeldCycle
  split
  · exact keepsSound_trans (t := { s with hostPort := none }) (keepsSound_of_controlKept ⟨rfl, rfl, rfl, rfl⟩)
      (hostCycle_keepsSound _ _)
  · exact keepsSound_refl s

theorem resetRow_keepsSound {c : Instr} {s t : State} (row : resetRow c = true) (he : exec c s = .next t) :
    s.keepsSound t := by
  cases c with
  | powerOn i => cases he; exact fun _ => execPowerOn_sound s i
  | lineReset i mergeCut =>
    cases he
    exact keepsSound_ite (fun _ => keepsSound_of_controlKept ⟨rfl, rfl, rfl, rfl⟩)
      fun _ _ => takeLineReset_sound s i mergeCut
  | startUpImageComplete reset =>
    cases he
    exact keepsSound_ite (fun _ => keepsSound_trans (keepsSound_trans (imageDone_keepsSound s)
      (takeWaitingReset_keepsSound _ _ reset)) (takeHeldCycle_keepsSound _)) fun _ => keepsSound_refl s
  | _ => cases row

theorem exec_keepsSound {c : Instr} {s t : State} (he : exec c s = .next t) : s.keepsSound t := by
  cases host : hostCycleRow c with
  | true =>
    obtain ⟨cycle, taken⟩ := hostCycleRow_exec c s host
    cases taken.symm.trans he
    exact hostCycle_keepsSound s cycle
  | false =>
    cases grant : grantRow c with
    | true => exact grantRow_keepsSound grant he
    | false =>
      cases reset : resetRow c with
      | true => exact resetRow_keepsSound reset he
      | false =>
        obtain ⟨f, acts, kept⟩ := blockRow_keepsSound c s host grant reset
        cases acts.symm.trans he
        exact keepsSound_trans kept (commitExcept_keepsSound s _ [])

end Sys2Proof.Machine

namespace Sys2Proof.Proofs
open Sys2Proof.Machine

/-- Settles O58: soundness lane by lane (`State.holdsAt`) stands through every operation; where a lane fault, a close or
a completion is under way, the lane it concerns is taken apart from the others until it is sound again. -/
theorem stepKeepsTheEngineSound : Obligations.StepKeepsTheEngineSound := by
  unfold Obligations.StepKeepsTheEngineSound
  intro s t taken sound
  unfold step at taken
  split at taken
  · cases taken; exact sound
  · next c rest _ =>
    exact exec_keepsSound taken (sound_of_controlKept (s := s) ⟨rfl, rfl, rfl, rfl⟩ sound)

end Sys2Proof.Proofs
end

section
/-! Engine commands by code and operand (07 R110): which command a cell's word carries out, and what each command
answers where it is refused. -/

namespace Sys2Proof.Machine

/-! ## The command that code and operand name -/

theorem engineAction_badCode {s : State} {code : Byte} (operand : Byte) (h : code = 0 ∨ 8 < code.toNat) :
    s.engineAction code operand = (s, .plain .refusedCode) := by
  have outside : code.toNat = 0 ∨ 8 < code.toNat := h.imp_left fun e => by rw [e]; rfl
  unfold State.engineAction
  dsimp only
  split
  case h_9 => rfl
  all_goals omega

theorem engineAction_badMask {s : State} {code operand : Byte} (h : code = 1 ∨ code = 2)
    (invalid : ¬ (operand ≠ 0 ∧ operand.toNat < 16)) : s.engineAction code operand = (s, .plain .refusedOperand) := by
  rw [← maskValid_iff] at invalid
  rcases h with rfl | rfl <;> exact if_neg invalid

theorem engineAction_badLane {s : State} {code operand : Byte} (low : 5 ≤ code.toNat) (high : code.toNat ≤ 8)
    (h : 4 ≤ operand.toNat) : s.engineAction code operand = (s, .plain .refusedOperand) := by
  have invalid : ¬ operand.toNat < 4 := Nat.not_lt.mpr h
  have lane : code.toNat = 5 ∨ code.toNat = 6 ∨ code.toNat = 7 ∨ code.toNat = 8 := by omega
  rcases lane with e | e | e | e <;> simp only [State.engineAction, e] <;> exact if_neg invalid

section
variable {s : State} {operand : Byte}

theorem engineAction_run (h : operand ≠ 0 ∧ operand.toNat < 16) : s.engineAction 0x01 operand = s.commandRun operand :=
  if_pos ((maskValid_iff operand).mpr h)

theorem engineAction_drain (h : operand ≠ 0 ∧ operand.toNat < 16) :
    s.engineAction 0x02 operand = s.commandDrain operand :=
  if_pos ((maskValid_iff operand).mpr h)

theorem engineAction_halt : s.engineAction 0x03 operand = s.commandHalt := rfl

theorem engineAction_clearHalt : s.engineAction 0x04 operand = s.commandClearHalt := rfl

variable {l : Lane} (h : operand.toNat = l.number)
include h

theorem engineAction_closeStack : s.engineAction 0x05 operand = s.commandCloseStack l := by
  obtain ⟨number, valid⟩ := ofNumber_number operand l h
  exact (if_pos valid).trans (by rw [number])

theorem engineAction_clearLane : s.engineAction 0x06 operand = s.commandClearLane l := by
  obtain ⟨number, valid⟩ := ofNumber_number operand l h
  exact (if_pos valid).trans (by rw [number])

theorem engineAction_bypass : s.engineAction 0x07 operand = s.commandBypass l := by
  obtain ⟨number, valid⟩ := ofNumber_number operand l h
  exact (if_pos valid).trans (by rw [number])

theorem engineAction_unbypass : s.engineAction 0x08 operand = s.commandUnbypass l := by
  obtain ⟨number, valid⟩ := ofNumber_number operand l h
  exact (if_pos valid).trans (by rw [number])

end

/-! ## Refusals of the commands -/

section
variable {s : State}

theorem commandRun_wrongState {mask : Byte} (h : s.engine.state = .halted ∨ s.engine.state = .draining) :
    s.commandRun mask = (s, .plain .refusedState) :=
  if_pos h

theorem eligibleLanes_nil {mask : Byte} (h : ∀ l, ¬ s.runsLane mask l) : s.eligibleLanes mask = [] :=
  List.eq_nil_iff_forall_not_mem.mpr fun l m => h l ((mem_eligibleLanes s mask l).mp m)

theorem commandRun_noLane {mask : Byte} (h : s.engine.state = .stopped ∨ s.engine.state = .running)
    (noLane : ∀ l, ¬ s.runsLane mask l) : s.commandRun mask = (s, .plain .noLane) := by
  have goes : ¬ (s.engine.state = .halted ∨ s.engine.state = .draining) := by rcases h with h | h <;> simp [h]
  simp only [State.commandRun, if_neg goes, eligibleLanes_nil noLane, List.isEmpty_nil, if_true]

/-- The ACTIVE lanes of a mask, which DRAIN takes (07 R115). -/
def State.drainedLanes (s : State) (mask : Byte) : List Lane :=
  (maskLanes mask).filter (fun l => (s.lane l).service == .active)

theorem mem_drainedLanes {mask : Byte} {l : Lane} :
    l ∈ s.drainedLanes mask ↔ mask.getLsbD l.number = true ∧ (s.lane l).service = .active := by
  rw [State.drainedLanes, List.mem_filter, mem_maskLanes, beq_iff_eq]

theorem commandDrain_wrongState {mask : Byte} (h : s.engine.state = .stopped ∨ s.engine.state = .halted) :
    s.commandDrain mask = (s, .plain .refusedState) :=
  if_pos h

theorem commandDrain_going {mask : Byte} (h : s.engine.state = .running ∨ s.engine.state = .draining) :
    s.commandDrain mask = if (s.drainedLanes mask).isEmpty then (s, .plain .noLane)
      else (((s.drainedLanes mask).foldl State.drainLane s).settleEngine, .doneLanes (s.drainedLanes mask)) := by
  have goes : ¬ (s.engine.state = .stopped ∨ s.engine.state = .halted) := by rcases h with h | h <;> simp [h]
  exact if_neg goes

theorem commandDrain_noLane {mask : Byte} (h : s.engine.state = .running ∨ s.engine.state = .draining)
    (noLane : ∀ l : Lane, mask.getLsbD l.number = true → (s.lane l).service ≠ .active) :
    s.commandDrain mask = (s, .plain .noLane) := by
  have empty : s.drainedLanes mask = [] := List.eq_nil_iff_forall_not_mem.mpr fun l m => by
    obtain ⟨named, active⟩ := mem_drainedLanes.mp m
    exact noLane l named active
  rw [commandDrain_going h, empty]; rfl

theorem commandClearHalt_wrongState (h : s.engine.state ≠ .halted) : s.commandClearHalt = (s, .plain .refusedState) :=
  if_pos h

theorem commandClearHalt_halted (h : s.engine.state = .halted) : s.commandClearHalt =
    if s.engine.safe then (s, .plain .refusedSafe) else (s.setEngine .stopped, .plain .done) :=
  if_neg (not_not.mpr h)

theorem commandClearLane_refused {l : Lane} {r : Reply} (h : s.clearLaneRefusal l = some r) :
    s.commandClearLane l = (s, r) := by
  rw [State.commandClearLane, h]

theorem clearLaneRefusal_notFaulted {l : Lane} (h : (s.lane l).service.isFaulted = false) :
    s.clearLaneRefusal l = some (.plain .refusedState) := by
  rw [State.clearLaneRefusal, h]; rfl

/-- CLEAR_LANE in a FAULTED lane: the tests left (07 R121). -/
theorem clearLaneRefusal_faulted {l : Lane} (h : (s.lane l).service.isFaulted = true) : s.clearLaneRefusal l =
    if (s.lane l).queue ≠ [] then some (.lane .refusedQueue l)
    else if (s.lane l).parked ≠ none then some (.lane .refusedParked l)
    else if s.engine.state = .running ∧ (s.regions.orderRing.get l).base = 0 then some (.check 2 (some l))
    else if s.engine.state = .running ∧ (s.settings.lanePitch.get l).toNat < s.settings.pmin.toNat then
      some (.check 10 (some l))
    else none := by
  have ring : s.ringCheck l = false ↔ (s.regions.orderRing.get l).base = 0 := by
    rw [← Bool.not_eq_true, ringCheck_iff, not_not]
  have pitch : s.pitchCheck l = false ↔ (s.settings.lanePitch.get l).toNat < s.settings.pmin.toNat := by
    rw [← Bool.not_eq_true, pitchCheck_iff, Nat.not_le]
  simp only [State.clearLaneRefusal, h, Bool.not_true, Bool.false_eq_true, if_false, ring, pitch, Bool.not_eq_true',
    List.isEmpty_eq_false_iff, Option.isSome_iff_ne_none]

theorem commandBypass_refused {l : Lane} (h : (s.lane l).service ≠ .off) :
    s.commandBypass l = (s, .plain .refusedState) :=
  if_neg h

theorem commandUnbypass_refused {l : Lane} (h : (s.lane l).service ≠ .bypassed) :
    s.commandUnbypass l = (s, .plain .refusedState) :=
  if_neg h

/-! ## A command refused -/

/-- A refused command changes the command status and gives its event (07 R110, R111). -/
theorem engineCommand_refused {code operand : Byte} {r : EngineResult} {detail : Nat} (next : s.hostNext)
    (action : s.engineAction code operand = (s, ⟨r, BitVec.ofNat 8 detail⟩)) (notDone : r ≠ .done) :
    ∃ t, exec (.refusedCode code operand (matching code operand)) s = .next t ∧
      t = ((s.give { code := .commandRefused, address := some code.toNat,
                     value := some (BitVec.ofNat 32 r.code) }).afterEngineCommand code r
        (BitVec.ofNat 8 detail)).bookkeptAs t := by
  have answered := engineCommand_answers s next code operand s _ action
  rwa [State.announceReply, if_neg notDone] at answered

/-- A command whose complement does not match (07 R110, test 1). -/
theorem engineCommand_mismatch {code operand : Byte} {complement : Half} (next : s.hostNext)
    (wrong : complement ≠ matching code operand) :
    ∃ t, exec (.refusedCode code operand complement) s = .next t ∧
      t = ((s.give { code := .commandIntegrity, value := some (complement ++ operand ++ code) }).afterEngineCommand
        code .refusedIntegrity 0).bookkeptAs t := by
  refine pageWrite_answers s next 0x010 (by decide) _ _ ?_
  obtain ⟨codeField, -, complementField⟩ := engineWord_fields code operand complement
  have mismatch : complementMatches (engineWord code operand complement) = false := by
    rw [complementField, beq_eq_false_iff_ne]; exact wrong
  show (s.engineCommand (engineWord code operand complement)).storeControl 0x010 0 = _
  rw [State.engineCommand, mismatch, codeField]
  rfl

end

end Sys2Proof.Machine

namespace Sys2Proof.Proofs
open Sys2Proof.Machine

/-- Settles O46, refusal by refusal: the command that code and operand name, and what it answers. -/
theorem engineCommandRefusals : Obligations.EngineCommandRefusals := by
  unfold Obligations.EngineCommandRefusals
  intro code operand s l next
  have refused {code : Byte} {r : EngineResult} {detail : Nat}
      (action : s.engineAction code operand = (s, ⟨r, BitVec.ofNat 8 detail⟩)) (notDone : r ≠ .done) :=
    engineCommand_refused next action notDone
  refine ⟨fun _ => engineCommand_mismatch next, fun bad => refused (engineAction_badCode _ bad) nofun,
    fun masked bad => refused (engineAction_badMask masked bad) nofun,
    fun low high bad => refused (engineAction_badLane low high bad) nofun, ?_, ?_, ?_, ?_, ?_, ?_, ?_⟩
  · rintro rfl valid state
    exact refused ((engineAction_run valid).trans (commandRun_wrongState state)) nofun
  · rintro rfl valid state noLane
    exact refused ((engineAction_run valid).trans (commandRun_noLane state noLane)) nofun
  · rintro rfl valid state
    exact refused ((engineAction_drain valid).trans (commandDrain_wrongState state)) nofun
  · rintro rfl valid state noLane
    exact refused ((engineAction_drain valid).trans (commandDrain_noLane state noLane)) nofun
  · rintro rfl state
    exact refused (engineAction_clearHalt.trans (commandClearHalt_wrongState state)) nofun
  · rintro rfl state safe
    exact refused (engineAction_clearHalt.trans ((commandClearHalt_halted state).trans (if_pos safe))) nofun
  · intro lane
    have clearLane {r : Reply} (faulted : (s.lane l).service.isFaulted = true) (refusal : _ = some r) :
        s.engineAction 0x06 operand = (s, r) :=
      (engineAction_clearLane lane).trans (commandClearLane_refused ((clearLaneRefusal_faulted faulted).trans refusal))
    refine ⟨?_, ?_, ?_, ?_, ?_, ?_, ?_⟩
    · rintro rfl idle
      exact refused ((engineAction_clearLane lane).trans
        (commandClearLane_refused (clearLaneRefusal_notFaulted idle))) nofun
    · rintro rfl faulted queued
      exact refused (clearLane faulted (if_pos queued)) nofun
    · rintro rfl faulted empty parked
      exact refused (clearLane faulted ((if_neg (not_not.mpr empty)).trans (if_pos parked))) nofun
    · rintro rfl faulted empty free running unmapped
      exact refused (clearLane faulted ((if_neg (not_not.mpr empty)).trans ((if_neg (not_not.mpr free)).trans
        (if_pos ⟨running, unmapped⟩)))) nofun
    · rintro rfl faulted empty free running mapped short
      exact refused (clearLane faulted ((if_neg (not_not.mpr empty)).trans ((if_neg (not_not.mpr free)).trans
        ((if_neg fun k => mapped k.2).trans (if_pos ⟨running, short⟩))))) nofun
    · rintro rfl service
      exact refused ((engineAction_bypass lane).trans (commandBypass_refused service)) nofun
    · rintro rfl service
      exact refused ((engineAction_unbypass lane).trans (commandUnbypass_refused service)) nofun

end Sys2Proof.Proofs
end

section
/-! The engine commands that concern one lane or the halt, as they are carried out (07 R119 to R123). -/

namespace Sys2Proof.Machine

/-- Every lane but `l` has left service, with no record queued where it is FAULTED (07 R116). -/
theorem setOff_done {s : State} {l : Lane}
    (others : ∀ m, m ≠ l → (s.lane m).service ≠ .active ∧ (s.lane m).service ≠ .draining ∧
      ((s.lane m).service.isFaulted = true → (s.lane m).queue = [])) (m : Lane) :
    ((s.setService l .off).lane m).service ≠ .active ∧ ((s.setService l .off).lane m).service ≠ .draining ∧
      (((s.setService l .off).lane m).service.isFaulted = true → ((s.setService l .off).lane m).queue = []) := by
  by_cases e : m = l
  · subst e
    rw [State.setService, lane_setLane_self]
    exact ⟨nofun, nofun, nofun⟩
  · rw [State.setService, lane_setLane_other _ _ e]
    exact others m e

section
variable {s : State} {l : Lane}

theorem commandCloseStack_none (h : (s.lane l).openStack = none) : s.commandCloseStack l = (s, .plain .done) := by
  rw [State.commandCloseStack, h]; rfl

theorem commandCloseStack_some {k : OpenStack} (h : (s.lane l).openStack = some k) :
    s.commandCloseStack l = (s.closeAndFault l .host, .plain .done) := by
  rw [State.commandCloseStack, h]; rfl

/-- CLEAR_LANE carried out: the lane is FAULTED, with neither a record queued nor one parked. -/
theorem commandClearLane_taken {c : FaultCause} (service : (s.lane l).service = .faulted c)
    (empty : (s.lane l).queue = []) (free : (s.lane l).parked = none)
    (checks : s.engine.state = .running → (s.regions.orderRing.get l).base ≠ 0 ∧
      s.settings.pmin.toNat ≤ (s.settings.lanePitch.get l).toNat) :
    s.commandClearLane l =
      (if s.engine.state = .running then s.activate l else (s.setService l .off).testStopped, .plain .done) := by
  have passed : s.clearLaneRefusal l = none := by
    rw [clearLaneRefusal_faulted (by rw [service]; rfl), if_neg (not_not.mpr empty), if_neg (not_not.mpr free),
      if_neg fun k => (checks k.1).1 k.2, if_neg fun k => Nat.not_le.mpr k.2 (checks k.1).2]
  rw [State.commandClearLane, passed]

theorem commandBypass_taken (h : (s.lane l).service = .off) : s.commandBypass l =
    (s.setLane l { s.lane l with service := .bypassed, gate := .reject }, .plain .done) := by
  rw [State.commandBypass, if_pos h, State.setGate, State.setService, lane_setLane_self, setLane_setLane]

theorem commandUnbypass_taken (h : (s.lane l).service = .bypassed) : s.commandUnbypass l =
    (s.setLane l { s.lane l with service := .off }, .plain .done) :=
  if_pos h

end

end Sys2Proof.Machine

namespace Sys2Proof.Proofs
open Sys2Proof.Machine

/-- Settles O49, command by command; CLEAR_LANE turns on the engine state and, under a DRAINING engine, on whether the
lane was the last one still to run out. -/
theorem laneCommandsAreCarriedOut : Obligations.LaneCommandsAreCarriedOut := by
  unfold Obligations.LaneCommandsAreCarriedOut
  intro operand s l next
  have done {code : Byte} {u : State} (action : s.engineAction code operand = (u, ⟨.done, 0⟩)) :=
    engineCommand_done s next code operand u 0 action
  refine ⟨fun halted low => done (engineAction_clearHalt.trans ((commandClearHalt_halted halted).trans ?_)),
    fun lane => ⟨fun closed => ?_, fun k stack => ?_, fun k stack filling room => ?_, fun c service empty free =>
      ⟨fun running mapped pitch => ?_, fun waits => ?_, fun draining others => ?_⟩, fun off => ?_, fun bypassed => ?_⟩⟩
  · rw [low]; rfl
  · exact done ((engineAction_closeStack lane).trans (commandCloseStack_none closed))
  · exact done ((engineAction_closeStack lane).trans (commandCloseStack_some stack))
  · have closed := closeAndFault_open s l .host k stack room k.tray filling
    exact done ((engineAction_closeStack lane).trans ((commandCloseStack_some stack).trans (by rw [closed]; rfl)))
  · have cleared := commandClearLane_taken service empty free fun _ => ⟨mapped, pitch⟩
    rw [if_pos running] at cleared
    exact done ((engineAction_clearLane lane).trans cleared)
  · have idle : s.engine.state ≠ .running := by rcases waits with h | ⟨h, -⟩ <;> rw [h] <;> nofun
    have cleared := commandClearLane_taken service empty free fun running => absurd running idle
    rw [if_neg idle, testStopped_waits (v := s.setService l .off) ?_] at cleared
    · exact done ((engineAction_clearLane lane).trans cleared)
    · rintro ⟨draining, all⟩
      rcases waits with stopped | ⟨-, others⟩
      · cases stopped.symm.trans draining
      · refine others fun m other => ?_
        have := all m
        rwa [State.setService, lane_setLane_other _ _ other] at this
  · have idle : s.engine.state ≠ .running := by rw [draining]; nofun
    have cleared := commandClearLane_taken service empty free fun running => absurd running idle
    rw [if_neg idle, testStopped_stops (v := s.setService l .off) draining (setOff_done others)] at cleared
    exact done ((engineAction_clearLane lane).trans cleared)
  · exact done ((engineAction_bypass lane).trans (commandBypass_taken off))
  · exact done ((engineAction_unbypass lane).trans (commandUnbypass_taken bypassed))

end Sys2Proof.Proofs
end

section
/-! RUN (07 R112 to R114): the eleven checks in their order, and the lanes it starts. -/

namespace Sys2Proof.Machine

/-! ## The checks of RUN (07 R113) -/

theorem runCheck_zero (s : State) (named : Lane → Prop) : ∀ m, m < 1 → s.runCheck named m
  | 0, _ => trivial

theorem runCheck_next {s : State} {named : Lane → Prop} {k : Nat} (before : ∀ m, m < k → s.runCheck named m)
    (passes : s.runCheck named k) : ∀ m, m < k + 1 → s.runCheck named m :=
  Nat.forall_lt_succ_right.mpr ⟨before, passes⟩

theorem runCheck_all {s : State} {named : Lane → Prop} (h : ∀ m, m < 12 → s.runCheck named m) (n : Nat) :
    s.runCheck named n := by
  rcases Nat.lt_or_ge n 12 with low | high
  · exact h n low
  · obtain ⟨k, rfl⟩ := Nat.exists_eq_add_of_le' high
    exact trivial

/-- There is one first failing check. -/
theorem firstFailing_unique {p : Nat → Prop} {k n : Nat} (before : ∀ m, m < k → p m) (fails : ¬ p k)
    (before' : ∀ m, m < n → p m) (fails' : ¬ p n) : k = n := by
  rcases Nat.lt_trichotomy k n with low | same | high
  · exact absurd (before' k low) fails
  · exact same
  · exact absurd (before n high) fails'

/-- The lane that a failing check names: the first of the lanes that fails it, for the two checks made lane by lane. -/
def State.failingLane (s : State) (ls : List Lane) (n : Nat) : Option Lane :=
  if n = 2 then ls.find? (fun l => !s.ringCheck l)
  else if n = 10 then ls.find? (fun l => !s.pitchCheck l)
  else none

/-- `o` is the first of the geometry checks that fails, after the four before them. -/
def State.geometryIs (s : State) (named : Lane → Prop) : Option Nat → Prop
  | some n => (5 ≤ n ∧ n ≤ 9) ∧ (∀ m, m < n → s.runCheck named m) ∧ ¬ s.runCheck named n
  | none => ∀ m, m < 10 → s.runCheck named m

theorem geometryFailure_is {s : State} {named : Lane → Prop} (before : ∀ m, m < 5 → s.runCheck named m) :
    s.geometryIs named s.settings.geometryFailure := by
  unfold Settings.geometryFailure
  split
  · next fails => exact ⟨by decide, before, fails⟩
  · next check5 =>
    have before := runCheck_next before (not_not.mp check5)
    split
    · next fails => exact ⟨by decide, before, fails⟩
    · next check6 =>
      have before := runCheck_next before (not_not.mp check6)
      split
      · next fails => exact ⟨by decide, before, fails⟩
      · next check7 =>
        have before := runCheck_next before (not_not.mp check7)
        split
        · next fails => exact ⟨by decide, before, fails⟩
        · next check8 =>
          have before := runCheck_next before (not_not.mp check8)
          split
          · next fails => exact ⟨by decide, before, fails⟩
          · next check9 => exact runCheck_next before (not_not.mp check9)

/-- `o` is the reply of the first check that fails for the lanes. -/
def State.failureIs (s : State) (ls : List Lane) : Option Reply → Prop
  | some r => ∃ n, (∀ m, m < n → s.runCheck (· ∈ ls) m) ∧ ¬ s.runCheck (· ∈ ls) n ∧ r = .check n (s.failingLane ls n)
  | none => ∀ n, s.runCheck (· ∈ ls) n

theorem mapped_iff {x : MapEntry} : x.mapped = true ↔ x.base ≠ 0 := bne_iff_ne

theorem find_not_fails {ls : List Lane} {f : Lane → Bool} {l : Lane} (h : ls.find? (fun l => !f l) = some l) :
    l ∈ ls ∧ ¬ f l = true :=
  ⟨List.mem_of_find?_eq_some h, by simpa using List.find?_some h⟩

theorem runFailure_is (s : State) (ls : List Lane) : s.failureIs ls (s.runFailure ls) := by
  have before := runCheck_zero s (· ∈ ls)
  unfold State.runFailure
  split
  · next unlocked => exact ⟨1, before, by simpa [State.runCheck] using unlocked, rfl⟩
  · next locked =>
    have before := runCheck_next before (show s.regions.locked = true by simpa using locked)
    split
    · next l found =>
      obtain ⟨named, unmapped⟩ := find_not_fails found
      exact ⟨2, before, fun all => unmapped ((ringCheck_iff s l).mpr (all l named)), by rw [← found]; rfl⟩
    · next rings =>
      have before := runCheck_next before fun l named => (ringCheck_iff s l).mp ((find_not_none ls _).mp rings l named)
      split
      · next unmapped => exact ⟨3, before, fun k => by simp [mapped_iff.mpr k] at unmapped, rfl⟩
      · next stack =>
        have before := runCheck_next before (mapped_iff.mp (by simpa using stack))
        split
        · next unmapped => exact ⟨4, before, fun k => by simp [mapped_iff.mpr k] at unmapped, rfl⟩
        · next event =>
          have before := runCheck_next before (mapped_iff.mp (by simpa using event))
          have geometry := geometryFailure_is before
          split
          · next n fails =>
            rw [fails] at geometry
            obtain ⟨range, before, fails⟩ := geometry
            refine ⟨n, before, fails, ?_⟩
            rw [State.failingLane, if_neg (by omega), if_neg (by omega)]
          · next passes =>
            rw [passes] at geometry
            split
            · next l found =>
              obtain ⟨named, short⟩ := find_not_fails found
              exact ⟨10, geometry, fun all => short ((pitchCheck_iff s l).mpr (all l named)), by rw [← found]; rfl⟩
            · next pitches =>
              have before := runCheck_next geometry fun l named =>
                (pitchCheck_iff s l).mp ((find_not_none ls _).mp pitches l named)
              split
              · next safe => exact ⟨11, before, by simpa [State.runCheck] using safe, rfl⟩
              · next safe => exact runCheck_all (runCheck_next before (by simpa [State.runCheck] using safe))

theorem runFailure_none {s : State} {ls : List Lane} (h : ∀ n, s.runCheck (· ∈ ls) n) : s.runFailure ls = none := by
  have is := runFailure_is s ls
  cases failure : s.runFailure ls with
  | none => rfl
  | some r =>
    rw [failure] at is
    obtain ⟨n, -, fails, -⟩ := is
    exact absurd (h n) fails

theorem runFailure_first {s : State} {ls : List Lane} {n : Nat} (before : ∀ m, m < n → s.runCheck (· ∈ ls) m)
    (fails : ¬ s.runCheck (· ∈ ls) n) : s.runFailure ls = some (.check n (s.failingLane ls n)) := by
  have is := runFailure_is s ls
  cases failure : s.runFailure ls with
  | none => rw [failure] at is; exact absurd (is n) fails
  | some r =>
    rw [failure] at is
    obtain ⟨k, before', fails', rfl⟩ := is
    rw [firstFailing_unique before' fails' before fails]

/-! ## RUN with an eligible lane -/

theorem eligibleLanes_nonempty {s : State} {mask : Byte} (h : ∃ l, s.runsLane mask l) :
    ¬ (s.eligibleLanes mask).isEmpty = true := fun empty => by
  obtain ⟨l, runs⟩ := h
  have m := (mem_eligibleLanes s mask l).mpr runs
  rw [List.isEmpty_iff.mp empty] at m; cases m

section
variable {s : State} {mask : Byte} (h : s.engine.state = .stopped ∨ s.engine.state = .running)
  (eligible : ∃ l, s.runsLane mask l)
include h eligible

theorem commandRun_fails {r : Reply} (fails : s.runFailure (s.eligibleLanes mask) = some r) :
    s.commandRun mask = (s, r) := by
  have goes : ¬ (s.engine.state = .halted ∨ s.engine.state = .draining) := by rcases h with h | h <;> simp [h]
  simp only [State.commandRun, if_neg goes, if_neg (eligibleLanes_nonempty eligible), fails]

theorem commandRun_passes (passes : s.runFailure (s.eligibleLanes mask) = none) : s.commandRun mask =
    ((s.eligibleLanes mask).foldl State.activate (s.setEngine .running), .doneLanes (s.eligibleLanes mask)) := by
  have goes : ¬ (s.engine.state = .halted ∨ s.engine.state = .draining) := by rcases h with h | h <;> simp [h]
  simp only [State.commandRun, if_neg goes, if_neg (eligibleLanes_nonempty eligible), passes]

end

/-- The lane in the detail of a failing check: the lowest eligible lane that fails it (07 R113). -/
theorem failingLane_number {s : State} {mask : Byte} {n : Nat} {l : Lane}
    (ring : n = 2 → l ∈ s.eligibleLanes mask ∧ (s.regions.orderRing.get l).base = 0 ∧
      ∀ m : Lane, m.number < l.number → m ∈ s.eligibleLanes mask → (s.regions.orderRing.get m).base ≠ 0)
    (pitch : n = 10 → l ∈ s.eligibleLanes mask ∧ (s.settings.lanePitch.get l).toNat < s.settings.pmin.toNat ∧
      ∀ m : Lane, m.number < l.number → m ∈ s.eligibleLanes mask →
        s.settings.pmin.toNat ≤ (s.settings.lanePitch.get m).toNat) :
    16 * (s.failingLane (s.eligibleLanes mask) n).elim 0 Lane.number =
      if n = 2 ∨ n = 10 then 16 * l.number else 0 := by
  have lowest {f : Lane → Bool} (named : l ∈ s.eligibleLanes mask) (fails : ¬ f l = true)
      (lower : ∀ m : Lane, m.number < l.number → m ∈ s.eligibleLanes mask → f m = true) :
      (s.eligibleLanes mask).find? (fun l => !f l) = some l :=
    find_lowest mask (fun l => (s.lane l).eligible) (fun l => !f l) l named (by simpa using fails)
      fun m low named => by simpa using lower m low named
  unfold State.failingLane
  by_cases two : n = 2
  · obtain ⟨named, unmapped, lower⟩ := ring two
    rw [if_pos two, if_pos (.inl two), lowest named (by rw [ringCheck_iff]; exact not_not.mpr unmapped)
      fun m low named => (ringCheck_iff s m).mpr (lower m low named)]
    rfl
  · rw [if_neg two]
    by_cases ten : n = 10
    · obtain ⟨named, short, lower⟩ := pitch ten
      rw [if_pos ten, if_pos (.inr ten), lowest named (by rw [pitchCheck_iff]; exact Nat.not_le.mpr short)
        fun m low named => (pitchCheck_iff s m).mpr (lower m low named)]
      rfl
    · rw [if_neg ten, if_neg (not_or.mpr ⟨two, ten⟩)]; rfl

/-- A mask that names a lane is not 0. -/
theorem mask_ne_zero {mask : Byte} {l : Lane} (h : mask.getLsbD l.number = true) : mask ≠ 0 := by
  rintro rfl; cases l <;> cases h

end Sys2Proof.Machine

namespace Sys2Proof.Proofs
open Sys2Proof.Machine

/-- Settles O47: the checks in their order decide (`runFailure_is`); when they pass, each eligible lane is activated
once. -/
theorem runStartsTheEligibleLanes : Obligations.RunStartsTheEligibleLanes := by
  unfold Obligations.RunStartsTheEligibleLanes
  intro mask done s next small state eligible
  have valid : mask ≠ 0 ∧ mask.toNat < 16 := by
    obtain ⟨l, named, -⟩ := eligible
    exact ⟨mask_ne_zero named, small⟩
  have named : s.runsLane mask = (· ∈ s.eligibleLanes mask) := funext fun l => propext (mem_eligibleLanes s mask l).symm
  rw [named]
  refine ⟨fun checks doneSmall doneLanes => ?_, fun n l before fails ring pitch => ?_⟩
  · have action := (engineAction_run valid).trans (commandRun_passes state eligible (runFailure_none checks))
    obtain ⟨t, taken, eq⟩ := engineCommand_done s next 0x01 mask _ _ action
    have nodup : (s.eligibleLanes mask).Nodup := (maskLanes_nodup mask).filter _
    have lanes : t.lanes = ((s.eligibleLanes mask).foldl State.activate (s.setEngine .running)).lanes := by rw [eq]; rfl
    have lane : ∀ l, t.lane l = ((s.eligibleLanes mask).foldl State.activate (s.setEngine .running)).lane l :=
      fun l => by unfold State.lane; rw [lanes]
    have detail := lanesMask_eq _ (maskLanes_filter mask _) done doneSmall doneLanes
    refine ⟨t, taken, fun l eligible => ?_, fun l other => ?_, ?_⟩
    · rw [lane, activateAll_in _ nodup l eligible]; rfl
    · rw [lane, activateAll_other _ l other]; rfl
    · rw [lanes, ← detail]
      rw [activateAll_lanes] at eq
      exact eq
  · have action := (engineAction_run valid).trans (commandRun_fails state eligible (runFailure_first before fails))
    refine engineCommand_refused (operand := mask) next (action.trans ?_) nofun
    rw [← failingLane_number ring pitch]; rfl

end Sys2Proof.Proofs
end

section
/-! DRAIN (07 R115, R116): the ACTIVE lanes of its mask taken in rising order, and the engine's test after them. -/

namespace Sys2Proof.Machine

/-! ## The lanes that a DRAIN takes -/

theorem drainLane_eq (s : State) (l : Lane) : s.drainLane l =
    if (s.lane l).orderedCount = 0 then (s.setLane l { s.lane l with service := .draining }).drainComplete l
    else s.setLane l { s.lane l with service := .draining } := by
  unfold State.drainLane State.setService
  dsimp only
  rw [lane_setLane_self]
  rfl

/-- One of four lanes drained where a mask names it. -/
def State.drainNamed (s : State) (done : Byte) (l : Lane) : State :=
  if done.getLsbD l.number = true then s.drainLane l else s

section
variable {s : State} {mask done : Byte}
variable (named : ∀ l : Lane,
  done.getLsbD l.number = true ↔ mask.getLsbD l.number = true ∧ (s.lane l).service = .active)
include named

theorem drainedLanes_eq : s.drainedLanes mask = Lane.inOrder.filter (fun l => done.getLsbD l.number) := by
  rw [State.drainedLanes, maskLanes, List.filter_filter]
  refine List.filter_congr fun l _ => ?_
  rw [Bool.eq_iff_iff, named l, Bool.and_eq_true, beq_iff_eq, and_comm]

/-- The lanes taken one after the other, in rising order. -/
theorem drainedLanes_foldl : (s.drainedLanes mask).foldl State.drainLane s =
    (((s.drainNamed done .l0).drainNamed done .l1).drainNamed done .l2).drainNamed done .l3 := by
  rw [drainedLanes_eq named, List.foldl_filter]
  rfl

theorem drainedLanes_detail (small : done.toNat < 16) : Reply.doneLanes (s.drainedLanes mask) = ⟨.done, done⟩ := by
  rw [Reply.doneLanes, State.drainedLanes, lanesMask_eq _ (maskLanes_filter mask _) done small fun l =>
    (named l).trans mem_drainedLanes.symm]

theorem drainedLanes_ne_nil (nonzero : done ≠ 0) (small : done.toNat < 16) : s.drainedLanes mask ≠ [] := fun empty => by
  have detail := drainedLanes_detail named small
  rw [empty] at detail
  exact nonzero (congrArg Reply.detail detail).symm

/-- DRAIN with an ACTIVE lane in its mask. -/
theorem engineAction_drains (nonzero : done ≠ 0) (small : done.toNat < 16) (maskSmall : mask.toNat < 16)
    (state : s.engine.state = .running ∨ s.engine.state = .draining) : s.engineAction 0x02 mask =
      (((s.drainedLanes mask).foldl State.drainLane s).settleEngine, ⟨.done, done⟩) := by
  have taken := drainedLanes_ne_nil named nonzero small
  obtain ⟨l, m⟩ := List.exists_mem_of_ne_nil _ taken
  have valid : mask ≠ 0 ∧ mask.toNat < 16 := ⟨mask_ne_zero (mem_drainedLanes.mp m).1, maskSmall⟩
  rw [engineAction_drain valid, commandDrain_going state, if_neg (by simpa using taken),
      drainedLanes_detail named small]

end

/-! ## Lanes with an ordered record -/

theorem drainLane_ordered {s : State} {l : Lane} (h : (s.lane l).orderedCount ≠ 0) :
    s.drainLane l = s.setLane l { s.lane l with service := .draining } := by
  rw [drainLane_eq, if_neg h]

/-- Lanes with an ordered record become DRAINING, and nothing else changes. -/
theorem drainLanes_ordered (ls : List Lane) (nodup : ls.Nodup) (s : State)
    (ordered : ∀ l ∈ ls, (s.lane l).orderedCount ≠ 0) :
    ls.foldl State.drainLane s = { s with lanes := (ls.foldl State.drainLane s).lanes } ∧
      ∀ l, (ls.foldl State.drainLane s).lane l =
        if l ∈ ls then { s.lane l with service := .draining } else s.lane l := by
  induction ls generalizing s with
  | nil => exact ⟨rfl, fun _ => (if_neg List.not_mem_nil).symm⟩
  | cons l ls ih =>
    obtain ⟨fresh, nodup⟩ := List.nodup_cons.mp nodup
    have first := drainLane_ordered (ordered l List.mem_cons_self)
    have other : ∀ m, m ≠ l → (s.drainLane l).lane m = s.lane m := drainLane_lanesBut s l
    obtain ⟨frame, lanes⟩ := ih nodup (s.drainLane l) fun m k => by
      rw [other m fun e => fresh (e ▸ k)]; exact ordered m (List.mem_cons_of_mem l k)
    refine ⟨?_, fun m => ?_⟩
    · rw [List.foldl_cons, frame, first]; rfl
    · rw [List.foldl_cons, lanes m]
      by_cases e : m = l
      · subst e
        rw [if_neg fresh, if_pos List.mem_cons_self, first, lane_setLane_self]
      · rw [other m e]
        simp only [List.mem_cons, e, false_or]

/-- The engine's test while some lane is DRAINING: a RUNNING engine without an ACTIVE lane becomes DRAINING, and that is
all. -/
theorem settleEngine_draining {s : State} {l : Lane} (draining : (s.lane l).service = .draining)
    (state : s.engine.state = .running ∨ s.engine.state = .draining) :
    ∃ v : EngineState, s.settleEngine = { s with engine := { s.engine with state := v } } ∧
      (v = .draining ↔ s.engine.state = .draining ∨ ∀ m, (s.lane m).service ≠ .active) ∧
      (v = .running ∨ v = .draining) := by
  have waits : ∀ e, (s.setEngine e).testStopped = s.setEngine e := fun e =>
    testStopped_waits fun ⟨_, done⟩ => (done l).2.1 draining
  by_cases idle : s.engine.state = .running ∧ ∀ m, (s.lane m).service ≠ .active
  · refine ⟨.draining, ?_, ⟨fun _ => .inr idle.2, fun _ => rfl⟩, .inr rfl⟩
    rw [settleEngine_drains idle.1 idle.2, waits]; rfl
  · have stays : s.engine.state ≠ .running ∨ ∃ m, (s.lane m).service = .active := by
      simpa only [not_and_or, not_forall, not_not] using idle
    refine ⟨s.engine.state, (settleEngine_stays stays).trans (waits s.engine.state), ⟨.inl, ?_⟩, state⟩
    rintro (draining | inactive)
    · exact draining
    · exact state.resolve_left fun running => idle ⟨running, inactive⟩

/-! ## One lane without an ordered record -/

/-- Lanes, early table and engine of the state in which an engine command ends. -/
theorem afterEngineCommand_parts {t x : State} {code detail : Byte} {r : EngineResult}
    (h : t = (x.afterEngineCommand code r detail).bookkeptAs t) : (∀ m, t.lane m = x.lane m) ∧ t.early = x.early ∧
      t.engine = { x.engine with
        sequence := x.engine.sequence + 1, code := code, result := r, detail := detail } := by
  rw [h]; exact ⟨fun _ => rfl, rfl, rfl⟩

theorem mask_of_lane {mask : Byte} {l : Lane} (h : mask.toNat = 2 ^ l.number) (m : Lane) :
    mask.getLsbD m.number = true ↔ m = l := by
  have value : mask = BitVec.ofNat 8 (2 ^ l.number) := by rw [← h, BitVec.ofNat_toNat, BitVec.setWidth_eq]
  subst value
  cases l <;> cases m <;> decide

theorem drainedLanes_one {s : State} {mask : Byte} {l : Lane} (h : mask.toNat = 2 ^ l.number)
    (active : (s.lane l).service = .active) : s.drainedLanes mask = [l] := by
  have named : ∀ m : Lane, mask.getLsbD m.number = true ↔
      mask.getLsbD m.number = true ∧ (s.lane m).service = .active := fun m =>
    ⟨fun k => ⟨k, by rw [(mask_of_lane h m).mp k]; exact active⟩, fun k => k.1⟩
  have one : ∀ m ∈ Lane.inOrder, mask.getLsbD m.number = decide (m = l) := fun m _ => by
    rw [Bool.eq_iff_iff, mask_of_lane h m, decide_eq_true_iff]
  rw [drainedLanes_eq named, List.filter_congr one]
  cases l <;> rfl

/-- Where lane `l` has left ACTIVE, a lane is ACTIVE if another one was. -/
theorem exists_active_other {s t : State} {l : Lane} (others : s.lanesBut l t) (left : (t.lane l).service ≠ .active) :
    (∃ m, (t.lane m).service = .active) ↔ ∃ m, m ≠ l ∧ (s.lane m).service = .active := by
  refine exists_congr fun m => ?_
  by_cases e : m = l
  · subst e; exact ⟨fun k => absurd k left, fun k => absurd rfl k.1⟩
  · rw [others m e]; exact ⟨fun k => ⟨e, k⟩, fun k => k.2⟩

/-- One lane that completes its drain within DRAIN, with room in the holding list (07 R116). -/
theorem drainLane_completes {s : State} {l : Lane} (unordered : (s.lane l).orderedCount = 0)
    (room : s.writer.holding.length < 4) :
    ((s.drainLane l).lane l).closedFrom ({ s.lane l with service := .off } : LaneState).rewound ∧
      (s.drainLane l).early = s.early.filter (fun e => e.lane != l) ∧
      ((s.drainLane l).runOutDone = true ↔ s.othersDone l) ∧
      (s.drainLane l).engine = { s.engine with
        state := if s.engine.state = .draining ∧ (s.drainLane l).runOutDone = true then .stopped
          else s.engine.state } := by
  have others := drainLane_lanesBut s l
  have drained := drainLane_eq s l
  rw [if_pos unordered] at drained
  obtain ⟨closed, early, engine⟩ := drainComplete_room (s.setLane l { s.lane l with service := .draining }) l room
  rw [← drained] at closed early engine
  rw [lane_setLane_self] at closed
  refine ⟨closed, early, runOutDone_othersDone others ?_, engine⟩
  rw [(closedFrom_service closed).1]
  exact ⟨nofun, nofun, nofun⟩

theorem settleEngine_engineState (s : State) : s.engineState s.settleEngine := by
  unfold State.engineState State.settleEngine
  rw [testStopped_engine]
  split <;> rfl

/-- The engine after a drain completion within DRAIN and the test that follows it, by whether another lane is ACTIVE and
whether the others have run out. -/
theorem settleEngine_afterDrain {d : State} {e : EngineState} (state : e = .running ∨ e = .draining)
    (test : d.engine.state = if e = .draining ∧ d.runOutDone = true then .stopped else e) :
    (d.settleEngine.engine.state = .running ↔ e = .running ∧ ∃ m, (d.lane m).service = .active) ∧
      (d.settleEngine.engine.state = .stopped ↔ d.runOutDone = true) := by
  have stopped : ∀ v, (d.setEngine v).testStopped.engine.state =
      if v = .draining ∧ d.runOutDone = true then .stopped else v := fun v => by rw [testStopped_engine]; rfl
  have same : d.testStopped = (d.setEngine d.engine.state).testStopped := rfl
  have done : d.runOutDone = true → ¬ ∃ m, (d.lane m).service = .active := fun done ⟨m, active⟩ =>
    ((runOutDone_iff d).mp done m).1 active
  rcases state with rfl | rfl
  · have running : d.engine.state = .running := by rw [test, if_neg nofun]
    by_cases active : ∃ m, (d.lane m).service = .active
    · rw [settleEngine_stays (.inr active), same, stopped, running, if_neg nofun]
      exact ⟨⟨fun _ => ⟨rfl, active⟩, fun _ => rfl⟩, nofun, fun k => absurd active (done k)⟩
    · rw [settleEngine_drains running (by simpa using active), stopped]
      by_cases k : d.runOutDone = true <;> simp [k, active]
  · have going : d.engine.state ≠ .running := by rw [test]; split <;> nofun
    rw [settleEngine_stays (.inl going), same, stopped, test]
    by_cases k : d.runOutDone = true <;> simp [k]

end Sys2Proof.Machine

namespace Sys2Proof.Proofs
open Sys2Proof.Machine

/-- Settles O48: DRAIN is the fold of `drainLane` over the lanes it names, followed by the engine's test; with ordered
records each becomes DRAINING alone, and a single lane without one completes its drain. -/
theorem drainTakesTheActiveLanes : Obligations.DrainTakesTheActiveLanes := by
  unfold Obligations.DrainTakesTheActiveLanes
  intro mask s next maskSmall state
  have drains {done : Byte} (small : done.toNat < 16) (named : ∀ l : Lane,
      done.getLsbD l.number = true ↔ mask.getLsbD l.number = true ∧ (s.lane l).service = .active)
      (nonzero : done ≠ 0) :=
    engineCommand_done s next 0x02 mask _ _ (engineAction_drains named nonzero small maskSmall state)
  refine ⟨fun done small named nonzero ordered => ?_, fun l lane active unordered room => ?_,
    fun done small named nonzero => ?_⟩
  · obtain ⟨t, taken, eq⟩ := drains small named nonzero
    have mem : ∀ l, l ∈ s.drainedLanes mask ↔ done.getLsbD l.number = true := fun l =>
      mem_drainedLanes.trans (named l).symm
    obtain ⟨frame, lanes⟩ := drainLanes_ordered (s.drainedLanes mask) ((maskLanes_nodup mask).filter _) s
      fun l m => ordered l ((mem l).mp m)
    obtain ⟨l, m⟩ := List.exists_mem_of_ne_nil _ (drainedLanes_ne_nil named nonzero small)
    generalize (s.drainedLanes mask).foldl State.drainLane s = u at *
    have engine : u.engine = s.engine := by rw [frame]
    obtain ⟨v, settled, drainingIff, going⟩ := settleEngine_draining (s := u) (l := l) (by rw [lanes, if_pos m])
      (by rw [engine]; exact state)
    rw [settled] at eq
    have lane : ∀ l, t.lane l = u.lane l := fun l => by unfold State.lane; rw [eq]; rfl
    refine ⟨t, v, taken, fun l => ?_, ?_, going, ?_⟩
    · rw [lane, lanes]; simp only [mem]
    · rw [drainingIff, engine]; simp only [lane]
    · have same : t.lanes = u.lanes := by rw [eq]; rfl
      rw [same, ← engine]
      rw [frame] at eq ⊢
      exact eq
  · have self := mask_of_lane lane
    have named : ∀ m : Lane, mask.getLsbD m.number = true ↔
        mask.getLsbD m.number = true ∧ (s.lane m).service = .active := fun m =>
      ⟨fun k => ⟨k, by rw [(self m).mp k]; exact active⟩, fun k => k.1⟩
    obtain ⟨t, taken, eq⟩ := drains maskSmall named (mask_ne_zero ((self l).mpr rfl))
    rw [drainedLanes_one lane active, List.foldl_cons, List.foldl_nil] at eq
    obtain ⟨closed, early, done, engine⟩ := drainLane_completes unordered room
    obtain ⟨running, stopped⟩ := settleEngine_afterDrain state (congrArg Engine.state engine)
    have others := drainLane_lanesBut s l
    have work := labelWorkOnly_trans (drainLane_labelWork s l) (settleEngine_labelWork _)
    have settled := settleEngine_engineState (s.drainLane l)
    have off : ((s.drainLane l).lane l).service = .off := (closedFrom_service closed).1
    obtain ⟨lanes, table, status⟩ := afterEngineCommand_parts eq
    have lanes : ∀ m, t.lane m = (s.drainLane l).lane m := fun m => (lanes m).trans (settleEngine_lane _ m)
    have state : t.engine.state = (s.drainLane l).settleEngine.engine.state := by rw [status]
    have activeOther := exists_active_other others (by rw [off]; nofun)
    refine ⟨t, _, taken, ?_, ?_, ?_, ?_, ?_, ?_, ?_, fun m other => (lanes m).trans (others m other), ?_, ?_, rfl, ?_,
      afterEngineCommand_labelWork work eq⟩
    · rw [lanes, off]
    · rw [lanes, closed]; rfl
    · rw [lanes, closed]; rfl
    · rw [lanes, closed]; rfl
    · rw [lanes, closed]
      show (s.lane l).release + BitVec.ofNat 16 (s.lane l).orderedCount = _
      rw [unordered]; exact BitVec.add_zero _
    · rw [lanes, closed]
    · rw [table, settleEngine_early, early]
    · rw [state, running, activeOther]
    · rw [state]; exact stopped.trans done
    · rw [state, status, settled, engine]; rfl
  · obtain ⟨t, taken, eq⟩ := drains small named nonzero
    refine ⟨t, taken, ?_⟩
    rw [drainedLanes_foldl named] at eq
    simp only [State.drainNamed, drainLane_eq] at eq
    exact eq

end Sys2Proof.Proofs
end

section
/-! The three causes of a halt (07 R117): a rise of SAFE, a reverse tick past the limit, and the HALT command. -/

namespace Sys2Proof.Machine

/-- What a halt leaves does not tell of the engine but that it is HALTED for its cause. -/
theorem haltedFrom_withEngine {t s : State} {c : HaltCause} (h : t.haltedFrom s c) (e : Engine)
    (state : e.state = .halted) (cause : e.cause = some c) : ({ t with engine := e } : State).haltedFrom s c := by
  obtain ⟨-, -, -, rest⟩ := h
  exact ⟨state, cause, by simp [State.stopReq, state], rest⟩

/-- The parts of a state that a halt is read off, at the end of a step. -/
theorem bookkeptAs_halted {x t s : State} {c : HaltCause} (eq : t = x.bookkeptAs t) (h : x.haltedFrom s c) :
    t.haltedFrom s c := by
  refine haltedFrom_congr x t s s c h ?_ ?_ ?_ ?_ ?_ rfl rfl rfl rfl ⟨rfl, rfl⟩ <;> rw [eq] <;> rfl

/-- A step whose work enters HALTED from `v`, which is `s` with other levels and counts of web and engine. -/
theorem act_halts {s v : State} {f : State → State} {c : HaltCause} (work : f s = v.enterHalted c)
    (same : v = { s with web := v.web, engine := v.engine }) (position : v.web.position = s.web.position) :
    (s.act f).haltedFrom s c ∧ (s.act f).engine = { v.engine with state := .halted, cause := some c } ∧
      s.sameMemory (s.act f) ∧ s.act f = (v.labelWorkAs (s.act f)).bookkeptAs (s.act f) := by
  obtain ⟨halted, engine⟩ := enterHalted_spec v c
  have frame := enterHalted_labelWork v c
  have eq := act_eq work
  generalize v.enterHalted c = w at *
  have moved : w.haltedFrom s c := by
    have reports : s.reportPart = v.reportPart := by rw [same]; rfl
    exact haltedFrom_congr w w v s c halted rfl rfl rfl rfl rfl (by rw [same]) (by rw [same]) (by rw [same]) reports
      ⟨position.symm, by rw [same]⟩
  refine ⟨bookkeptAs_halted eq moved, ?_, act_sameMemory work ?_ ?_, ?_⟩
  · rw [act_engine, work, engine]
  · rw [frame, same]; rfl
  · rw [frame, same]; rfl
  · rw [eq]
    conv_lhs => rw [frame]
    rfl

theorem takeHalt_enters {s : State} (c : HaltCause) (h : s.engine.state ≠ .halted) : s.takeHalt c = s.enterHalted c :=
  if_neg h

theorem takeHalt_halted {s : State} (c : HaltCause) (h : s.engine.state = .halted) : s.takeHalt c = s := if_pos h

/-- A rise of SAFE takes the level and then the halt (07 R117). -/
theorem safeRise_low {s : State} (h : s.engine.safe = false) :
    s.safeRise = State.takeHalt { s with engine := { s.engine with safe := true } } .safety := by
  rw [State.safeRise, if_neg (by simp [h])]

theorem safeRise_high {s : State} (h : s.engine.safe = true) : s.safeRise = s := if_pos h

/-- A reverse tick that leaves the backlog above the limit of a going engine (01 R4, 07 R117). -/
theorem reverseTick_halts {s : State} (going : s.engineGoing = true) (hold : s.web.backlog ≤ 65536)
    (exceeded : s.settings.reverseLimit.toNat < min (s.web.backlog + 1) 65536) : s.reverseTick =
      State.enterHalted { s with web := { s.web with backlog := min (s.web.backlog + 1) 65536 } } .reverseLimit := by
  have n : raiseHolding Config.backlogHold s.web.backlog = min (s.web.backlog + 1) 65536 := raiseHolding_eq_min hold
  simp only [State.reverseTick, n, if_pos exceeded]
  exact if_pos going

end Sys2Proof.Machine

namespace Sys2Proof.Proofs
open Sys2Proof.Machine

/-- Settles O28: each cause ends in `enterHalted`, whose outcome `enterHalted_spec` states; the level of SAFE, the web
position unit and the command status are no part of it. -/
theorem haltsAndTheirCauses : Obligations.HaltsAndTheirCauses := by
  unfold Obligations.HaltsAndTheirCauses
  intro s
  refine ⟨fun low going => ?_, fun low halted => ?_, fun high => ⟨_, rfl, act_eq (safeRise_high high)⟩,
    fun a b reverse going hold exceeded => ?_, fun o u next going status => ?_, fun o next halted => ?_⟩
  · have work := (safeRise_low low).trans (takeHalt_enters .safety going)
    obtain ⟨halted, engine, memory, -⟩ := act_halts (f := State.safeRise) work rfl rfl
    exact ⟨_, rfl, halted, engine, memory, (act_labelWork (safeRise_labelWork s)).2⟩
  · exact ⟨_, rfl, act_both (f := State.safeRise) ((safeRise_low low).trans (takeHalt_halted .safety halted)) rfl rfl⟩
  · have work := (encoderTransition_reverse reverse).trans
      (reverseTick_halts (s := s.withReference a b) going hold exceeded)
    exact ⟨_, rfl, act_halts (f := (·.encoderTransition a b)) work rfl rfl⟩
  · have action : s.engineAction 0x03 o = (s.enterHalted .command, ⟨.done, 0⟩) :=
      engineAction_halt.trans (by rw [State.commandHalt, takeHalt_enters .command going]; rfl)
    obtain ⟨t, taken, eq⟩ := engineCommand_done s next 0x03 o _ _ action
    obtain ⟨halted, engine⟩ := enterHalted_spec s .command
    have frame := afterEngineCommand_labelWork (enterHalted_labelWork s .command) eq
    generalize s.enterHalted .command = w at *
    obtain ⟨-, -, ended⟩ := afterEngineCommand_parts eq
    rw [engine] at ended
    have moved := haltedFrom_withEngine halted t.engine (by rw [ended]) (by rw [ended])
    refine ⟨t, taken, ?_, status ▸ frame, ?_⟩
    · refine haltedFrom_congr _ t s s .command moved rfl ?_ ?_ ?_ ?_ rfl rfl rfl rfl ⟨rfl, rfl⟩ <;> rw [eq] <;> rfl
    · rw [ended, status]; rfl
  · have action : s.engineAction 0x03 o = (s, ⟨.done, 0⟩) :=
      engineAction_halt.trans (by rw [State.commandHalt, takeHalt_halted .command halted]; rfl)
    exact engineCommand_done s next 0x03 o s 0 action

end Sys2Proof.Proofs
end

section
/-! The bookkeeping of the part (O57): what its invariants read of the state, a rule per change of what they read, and
the reports of check outcomes. -/

namespace Sys2Proof.Machine

/-! ## What the invariants read -/

/-- What the canonical form of memory, the bounds, the publication set, the early table's distinctness and the walk's
code read of the state: the two lists that only their length bounds are held by it. -/
structure BookPart where
  /-- job memory -/
  memory      : Memory
  /-- the number of queued events -/
  events      : Nat
  /-- the number of held stack records -/
  holding     : Nat
  /-- words of the head stack record stored -/
  stackWords  : Nat
  /-- words of the head event stored -/
  eventWords  : Nat
  /-- the publication set -/
  publication : List Nat
  /-- the scrub queue -/
  scrubQueue  : List Nat
  /-- the early verdict table -/
  early       : List EarlyEntry
  /-- the correctable count -/
  count       : Nat
  /-- the reverse backlog -/
  backlog     : Nat
  /-- the bypass counts -/
  bypass      : Internal → Nat
  /-- the state of the memory command unit -/
  memState    : MemState
  /-- the code of its walk -/
  walk        : Option Byte

/-- The bookkeeping of a state. -/
def State.bookPart (s : State) : BookPart :=
  { memory := s.memory, events := s.writer.events.length, holding := s.writer.holding.length,
    stackWords := s.writer.stackWords, eventWords := s.writer.eventWords, publication := s.writer.publication,
    scrubQueue := s.scrubQueue, early := s.early, count := s.capture.count, backlog := s.web.backlog,
    bypass := s.arbiter.bypass, memState := s.mem.state, walk := s.mem.walk }

/-- `State.bounded` of the bookkeeping, field by field. -/
structure BookPart.bounded (p : BookPart) : Prop where
  events     : p.events ≤ 8
  holding    : p.holding ≤ 4
  scrub      : p.scrubQueue.length ≤ 4 ∧ p.scrubQueue.Nodup
  early      : p.early.length ≤ 16
  count      : p.count ≤ 65535
  backlog    : p.backlog ≤ 65536
  stackWords : p.stackWords ≤ 32
  eventWords : p.eventWords ≤ 4
  bypass     : ∀ r, p.bypass r ≤ 4

theorem bounded_iff (s : State) : s.bounded ↔ s.bookPart.bounded := by
  constructor
  · rintro ⟨events, holding, places, nodup, early, count, backlog, stackWords, eventWords, fetch, record, memcmd⟩
    exact ⟨events, holding, ⟨places, nodup⟩, early, count, backlog, stackWords, eventWords,
      fun | .fetch => fetch | .record => record | .memcmd => memcmd⟩
  · rintro ⟨events, holding, ⟨places, nodup⟩, early, count, backlog, stackWords, eventWords, bypass⟩
    exact ⟨events, holding, places, nodup, early, count, backlog, stackWords, eventWords, bypass .fetch, bypass .record,
      bypass .memcmd⟩

/-- A list of offsets is a publication set: without duplicates, and of part-owned words alone (11 R176). -/
def isPublicationSet (os : List Nat) : Prop := os.Nodup ∧ ∀ o ∈ os, o ∈ publishedOffsets

/-- An early verdict table has one entry per lane and serial (04 R66). -/
def isEarlyTable (es : List EarlyEntry) : Prop := (es.map (fun e => (e.lane, e.serial))).Nodup

/-- A walk of a known code, where one is under way or suspended (10 R162, R169). -/
def walkIsKnown (state : MemState) (walk : Option Byte) : Prop :=
  state ≠ .idle → walk = some 0x01 ∨ walk = some 0x02

/-- The bookkeeping `q` keeps each invariant that `p` has. -/
structure BookPart.kept (p q : BookPart) : Prop where
  memory      : Memory.wf p.memory = true → Memory.wf q.memory = true
  bounded     : p.bounded → q.bounded
  publication : isPublicationSet p.publication → isPublicationSet q.publication
  early       : isEarlyTable p.early → isEarlyTable q.early
  walk        : walkIsKnown p.memState p.walk → walkIsKnown q.memState q.walk

/-- `t` keeps the invariants on the bookkeeping that `s` has. -/
def State.keepsBooks (s t : State) : Prop := s.bookPart.kept t.bookPart

theorem kept_refl (p : BookPart) : p.kept p := ⟨id, id, id, id, id⟩

theorem State.keepsBooks.trans {s t u : State} (h : s.keepsBooks t) (k : t.keepsBooks u) : s.keepsBooks u where
  memory := k.memory ∘ h.memory
  bounded := k.bounded ∘ h.bounded
  publication := k.publication ∘ h.publication
  early := k.early ∘ h.early
  walk := k.walk ∘ h.walk

theorem keepsBooks_of_part {s t : State} (h : t.bookPart = s.bookPart) : s.keepsBooks t := by
  unfold State.keepsBooks; rw [h]; exact kept_refl _

theorem keepsBooks_refl (s : State) : s.keepsBooks s := kept_refl _

theorem keepsBooks_ite {s t u : State} {c : Prop} [Decidable c] (h : c → s.keepsBooks t) (k : ¬ c → s.keepsBooks u) :
    s.keepsBooks (if c then t else u) := by
  split
  · next yes => exact h yes
  · next no => exact k no

theorem keepsBooks_foldl {α : Type} {f : State → α → State} (h : ∀ (s : State) x, s.keepsBooks (f s x)) (xs : List α)
    (s : State) : s.keepsBooks (xs.foldl f s) := by
  induction xs generalizing s with
  | nil => exact keepsBooks_refl s
  | cons x xs ih => exact (h s x).trans (ih _)

/-! ## A rule per change -/

theorem kept_store (p : BookPart) (a : Nat) (x : Location) :
    p.kept { p with memory := Memory.storeInside p.memory a x } :=
  { kept_refl p with memory := Memory.storeInside_wf a x, bounded := fun h => { h with } }

theorem kept_events (p : BookPart) {n : Nat} (h : p.events ≤ 8 → n ≤ 8) : p.kept { p with events := n } :=
  { kept_refl p with bounded := fun b => { b with events := h b.events } }

theorem kept_holding (p : BookPart) {n : Nat} (h : p.holding ≤ 4 → n ≤ 4) : p.kept { p with holding := n } :=
  { kept_refl p with bounded := fun b => { b with holding := h b.holding } }

theorem kept_stackWords (p : BookPart) {n : Nat} (h : n ≤ 32) : p.kept { p with stackWords := n } :=
  { kept_refl p with bounded := fun b => { b with stackWords := h } }

theorem kept_eventWords (p : BookPart) {n : Nat} (h : n ≤ 4) : p.kept { p with eventWords := n } :=
  { kept_refl p with bounded := fun b => { b with eventWords := h } }

theorem kept_publication (p : BookPart) {os : List Nat} (h : isPublicationSet p.publication → isPublicationSet os) :
    p.kept { p with publication := os } :=
  { kept_refl p with publication := h, bounded := fun b => { b with } }

theorem kept_scrub (p : BookPart) {q : List Nat}
    (h : p.scrubQueue.length ≤ 4 ∧ p.scrubQueue.Nodup → q.length ≤ 4 ∧ q.Nodup) : p.kept { p with scrubQueue := q } :=
  { kept_refl p with bounded := fun b => { b with scrub := h b.scrub } }

theorem kept_early (p : BookPart) {es : List EarlyEntry} (places : p.early.length ≤ 16 → es.length ≤ 16)
    (distinct : isEarlyTable p.early → isEarlyTable es) : p.kept { p with early := es } :=
  { kept_refl p with bounded := fun b => { b with early := places b.early }, early := distinct }

/-- Entries that leave the early table. -/
theorem kept_earlySublist (p : BookPart) {es : List EarlyEntry} (h : es.Sublist p.early) :
    p.kept { p with early := es } :=
  kept_early p h.length_le.trans (List.Nodup.sublist (h.map _))

theorem kept_count (p : BookPart) {n : Nat} (h : p.count ≤ 65535 → n ≤ 65535) : p.kept { p with count := n } :=
  { kept_refl p with bounded := fun b => { b with count := h b.count } }

theorem kept_backlog (p : BookPart) {n : Nat} (h : p.backlog ≤ 65536 → n ≤ 65536) : p.kept { p with backlog := n } :=
  { kept_refl p with bounded := fun b => { b with backlog := h b.backlog } }

theorem kept_bypass (p : BookPart) {f : Internal → Nat} (h : ∀ r, p.bypass r ≤ 4 → f r ≤ 4) :
    p.kept { p with bypass := f } :=
  { kept_refl p with bounded := fun b => { b with bypass := fun r => h r (b.bypass r) } }

theorem kept_walk (p : BookPart) {m : MemState} {w : Option Byte}
    (h : walkIsKnown p.memState p.walk → walkIsKnown m w) : p.kept { p with memState := m, walk := w } :=
  { kept_refl p with walk := h, bounded := fun b => { b with } }

theorem raiseHolding_le {limit n : Nat} (h : n ≤ limit) : raiseHolding limit n ≤ limit := by
  unfold raiseHolding; split <;> omega

end Sys2Proof.Machine
end

section
/-! The bookkeeping under the reports of check outcomes and under the label and lane blocks (01 to 07): their work gives
events, places records in the holding list and drops early verdicts, and none of it passes a bound. -/

namespace Sys2Proof.Machine

/-! ## Events and reports (09, 11) -/

theorem setLane_keepsBooks (s : State) (l : Lane) (x : LaneState) : s.keepsBooks (s.setLane l x) :=
  keepsBooks_of_part rfl

theorem giveAt_keepsBooks (s : State) (p : WebPos) (b : EventBody) : s.keepsBooks (s.giveAt p b) := by
  have part : (s.giveAt p b).bookPart = { s.bookPart with events := (s.giveAt p b).writer.events.length } := by
    simp [State.bookPart]
  unfold State.keepsBooks
  rw [part]
  exact kept_events _ (giveAt_events_length s p b)

theorem give_keepsBooks (s : State) (b : EventBody) : s.keepsBooks (s.give b) := giveAt_keepsBooks s _ b

theorem raiseClass_keepsBooks (s : State) (c : SummaryClass) (l : Option Lane) (n : Option Serial) (a : Option Nat) :
    s.keepsBooks (s.raiseClass c l n a) := keepsBooks_of_part rfl

theorem giveRaise_keepsBooks (s : State) (c : SummaryClass) (b : EventBody) : s.keepsBooks (s.giveRaise c b) :=
  (give_keepsBooks s b).trans (raiseClass_keepsBooks _ _ _ _ _)

theorem countCorrection_keepsBooks (s : State) : s.keepsBooks s.countCorrection := by
  have counted : s.keepsBooks
      { s with capture := { s.capture with count := raiseHolding Config.countHold s.capture.count } } :=
    kept_count s.bookPart raiseHolding_le
  exact keepsBooks_ite (fun _ => counted.trans (giveRaise_keepsBooks _ _ _)) fun _ => counted

theorem detectCorrectable_keepsBooks (s : State) (c : Source) (a b : Nat) : s.keepsBooks (s.detectCorrectable c a b) :=
  (countCorrection_keepsBooks s).trans (keepsBooks_of_part rfl)

theorem consumeUncorrectable_keepsBooks (s : State) (c : Source) (a : Nat) (d : Detail) :
    s.keepsBooks (s.consumeUncorrectable c a d) :=
  State.keepsBooks.trans (t := s.offerUncorrectable c true a d) (keepsBooks_of_part rfl) (giveRaise_keepsBooks _ _ _)

/-- An address enters the scrub queue where it is not there and a place is free (09 R151). -/
theorem offerScrub_keepsBooks (s : State) (a : Nat) : s.keepsBooks (s.offerScrub a) := by
  refine keepsBooks_ite (fun _ => keepsBooks_refl s) fun _ => keepsBooks_ite (fun _ => keepsBooks_refl s) fun new =>
    keepsBooks_ite (fun room => kept_scrub s.bookPart fun ⟨_, nodup⟩ => ⟨?_, ?_⟩) fun _ => raiseClass_keepsBooks s _ _ _ _
  · rw [List.length_append]; exact room
  · have absent : a ∉ s.scrubQueue := by simpa using new
    exact nodup.append (List.nodup_singleton a) (List.disjoint_singleton.mpr absent)

/-! ## Closes, rewinds and early discards (03, 04, 06) -/

theorem placeRecord_keepsBooks (s : State) (r : StackRecord) : s.keepsBooks (s.placeRecord r) :=
  keepsBooks_ite (fun room => kept_holding s.bookPart fun _ => by rw [List.length_append]; exact room) fun _ =>
    (setLane_keepsBooks s _ _).trans (giveRaise_keepsBooks _ _ _)

theorem closeWith_keepsBooks (s : State) (r : StackRecord) : s.keepsBooks (s.closeWith r) :=
  (placeRecord_keepsBooks s r).trans (give_keepsBooks _ _)

theorem closeStack_keepsBooks (s : State) (l : Lane) (w : CloseReason) : s.keepsBooks (s.closeStack l w) := by
  unfold State.closeStack
  split
  · exact (setLane_keepsBooks s l _).trans (closeWith_keepsBooks _ _)
  · exact keepsBooks_ite (fun _ => keepsBooks_refl s) fun _ =>
      (setLane_keepsBooks s l _).trans (closeWith_keepsBooks _ _)

theorem rewind_keepsBooks (s : State) (l : Lane) : s.keepsBooks (s.rewind l) :=
  keepsBooks_ite (fun _ => setLane_keepsBooks s l _) fun _ => (setLane_keepsBooks s l _).trans (give_keepsBooks _ _)

theorem dropEarly_keepsBooks (s : State) (p : EarlyEntry → Bool) :
    s.keepsBooks { s with early := s.early.filter p } := kept_earlySublist s.bookPart List.filter_sublist

theorem discardEarly_keepsBooks (s : State) (l : Lane) : s.keepsBooks (s.discardEarly l) :=
  keepsBooks_ite (fun _ => dropEarly_keepsBooks s _) fun _ => (dropEarly_keepsBooks s _).trans (give_keepsBooks _ _)

/-! ## Faults, run-out and drain completion (07 R116, R120) -/

theorem setEngine_keepsBooks (s : State) (e : EngineState) : s.keepsBooks (s.setEngine e) := keepsBooks_of_part rfl

theorem testStopped_keepsBooks (s : State) : s.keepsBooks s.testStopped :=
  keepsBooks_ite (fun _ => (setEngine_keepsBooks s _).trans (give_keepsBooks _ _)) fun _ => keepsBooks_refl s

theorem settleEngine_keepsBooks (s : State) : s.keepsBooks s.settleEngine :=
  (keepsBooks_ite (fun _ => setEngine_keepsBooks s _) fun _ => keepsBooks_refl s).trans (testStopped_keepsBooks _)

theorem closeFaulted_keepsBooks (s : State) (l : Lane) (w : CloseReason) : s.keepsBooks (s.closeFaulted l w) :=
  keepsBooks_ite (fun _ => (closeStack_keepsBooks s l w).trans (giveRaise_keepsBooks _ _ _)) fun _ =>
    closeStack_keepsBooks s l w

theorem runOutComplete_keepsBooks (s : State) (l : Lane) : s.keepsBooks (s.runOutComplete l) :=
  (closeFaulted_keepsBooks s l _).trans (testStopped_keepsBooks _)

theorem faultedAt_keepsBooks (s : State) (l : Lane) (c : FaultCause) : s.keepsBooks (s.faultedAt l c) :=
  (((setLane_keepsBooks s l _).trans (giveRaise_keepsBooks _ _ _)).trans (rewind_keepsBooks _ l)).trans
    (discardEarly_keepsBooks _ l)

theorem laneFault_keepsBooks (s : State) (l : Lane) (c : FaultCause) : s.keepsBooks (s.laneFault l c) := by
  have faulted := faultedAt_keepsBooks s l c
  have settled := (keepsBooks_ite (c := ((s.faultedAt l c).lane l).queue.isEmpty = true)
    (fun _ => faulted.trans (runOutComplete_keepsBooks _ l)) fun _ => faulted).trans (settleEngine_keepsBooks _)
  unfold State.laneFault
  split
  · exact keepsBooks_refl s
  · exact giveRaise_keepsBooks s _ _
  all_goals exact settled

theorem closeAndFault_keepsBooks (s : State) (l : Lane) (w : CloseReason) : s.keepsBooks (s.closeAndFault l w) :=
  keepsBooks_ite (fun _ => (closeStack_keepsBooks s l w).trans (laneFault_keepsBooks _ l _)) fun _ =>
    closeStack_keepsBooks s l w

theorem drainComplete_keepsBooks (s : State) (l : Lane) : s.keepsBooks (s.drainComplete l) :=
  ((((setLane_keepsBooks s l _).trans (discardEarly_keepsBooks _ l)).trans (rewind_keepsBooks _ l)).trans
    (closeAndFault_keepsBooks _ l _)).trans (testStopped_keepsBooks _)

/-! ## Halts (07 R117, R118) -/

theorem abandonQueue_keepsBooks (s : State) (l : Lane) : s.keepsBooks (s.abandonQueue l) :=
  keepsBooks_ite (fun _ => setLane_keepsBooks s l _) fun _ => (setLane_keepsBooks s l _).trans (give_keepsBooks _ _)

theorem haltLane_keepsBooks (s : State) (l : Lane) : s.keepsBooks (s.haltLane l) := by
  have outputs := ((abandonQueue_keepsBooks s l).trans (closeStack_keepsBooks _ l .halt)).trans
    (setLane_keepsBooks _ l (((s.abandonQueue l).closeStack l .halt).lane l).haltedOutputs)
  exact keepsBooks_ite (fun _ => outputs) fun _ =>
    (outputs.trans (rewind_keepsBooks _ l)).trans (discardEarly_keepsBooks _ l)

theorem raiseHalt_keepsBooks (s : State) (c : HaltCause) : s.keepsBooks (s.raiseHalt c) := by
  cases c <;> exact keepsBooks_of_part rfl

theorem enterHalted_keepsBooks (s : State) (c : HaltCause) : s.keepsBooks (s.enterHalted c) := by
  have entered : s.keepsBooks { s with engine := { s.engine with state := .halted, cause := some c } } :=
    keepsBooks_of_part rfl
  exact ((entered.trans (give_keepsBooks _ _)).trans (raiseHalt_keepsBooks _ c)).trans
    (keepsBooks_foldl haltLane_keepsBooks _ _)

theorem takeHalt_keepsBooks (s : State) (c : HaltCause) : s.keepsBooks (s.takeHalt c) :=
  keepsBooks_ite (fun _ => keepsBooks_refl s) fun _ => enterHalted_keepsBooks s c

/-! ## Label starts (02 R20) -/

theorem evictEarly_keepsBooks (s : State) (l : Lane) (n : Serial) : s.keepsBooks (s.evictEarly l n) :=
  State.keepsBooks.trans ((dropEarly_keepsBooks s _).trans (dropEarly_keepsBooks _ _))
    (keepsBooks_foldl (fun _ _ => give_keepsBooks _ _) _ _)

theorem bindSerial_keepsBooks (s : State) (l : Lane) (r : LabelRecord) : s.keepsBooks (s.bindSerial l r).1 := by
  unfold State.bindSerial
  split
  · exact keepsBooks_refl s
  · exact (setLane_keepsBooks s l _).trans (evictEarly_keepsBooks _ l _)

theorem reofferWord_keepsBooks (s : State) (l : Lane) (n : Option Serial) (mark : WebPos) (a : Nat) (w : FetchedWord) :
    s.keepsBooks (s.reofferWord l n mark a w) := by
  unfold State.reofferWord
  split
  · exact (State.keepsBooks.trans (t := s.offerUncorrectable (.fetch l) true a _) (keepsBooks_of_part rfl)
      (giveAt_keepsBooks _ _ _)).trans (raiseClass_keepsBooks _ _ _ _ _)
  all_goals exact keepsBooks_refl s

theorem reofferEntry_keepsBooks (s : State) (l : Lane) (mark : WebPos) (n : Option Serial) (e : WindowEntry) :
    s.keepsBooks (s.reofferEntry l mark n e) :=
  (((reofferWord_keepsBooks s l n mark _ e.word0).trans (reofferWord_keepsBooks _ l n mark _ e.word1)).trans
    (reofferWord_keepsBooks _ l n mark _ e.word2)).trans (reofferWord_keepsBooks _ l n mark _ e.word3)

theorem bindingEvents_keepsBooks (s : State) (l : Lane) (mark : WebPos) (b : Binding) :
    s.keepsBooks (s.bindingEvents l mark b) := by
  have told (b : EventBody) (c n) : s.keepsBooks ((s.giveAt mark b).raiseClass c (some l) n none) :=
    (giveAt_keepsBooks s mark b).trans (raiseClass_keepsBooks _ _ _ _ _)
  cases b with
  | valid e => exact keepsBooks_refl s
  | drain => exact keepsBooks_refl s
  | starved => exact told _ _ _
  | faulty e c =>
    exact keepsBooks_ite (fun _ => (told _ _ _).trans (reofferEntry_keepsBooks _ l mark _ e)) fun _ => told _ _ _

theorem startLabel_keepsBooks (s : State) (l : Lane) (t : LabelStart) (n : Nat) :
    s.keepsBooks (s.startLabel l t n) := by
  have created : s.keepsBooks (s.createRecord l t).1 :=
    (((setLane_keepsBooks s l _).trans (bindSerial_keepsBooks _ l _)).trans (setLane_keepsBooks _ l _)).trans
      (bindingEvents_keepsBooks _ l t.mark _)
  exact created.trans (setLane_keepsBooks _ l _)

theorem markPulse_keepsBooks (s : State) (l : Lane) : s.keepsBooks (s.markPulse l) := by
  refine keepsBooks_ite (fun _ => keepsBooks_refl s) fun _ => keepsBooks_ite (fun _ => give_keepsBooks s _) fun _ => ?_
  unfold State.measureMark
  split
  · exact startLabel_keepsBooks s l _ 0
  · exact keepsBooks_ite (fun _ => give_keepsBooks s _) fun _ => keepsBooks_ite
      (fun _ => (startLabel_keepsBooks s l _ 0).trans (giveAt_keepsBooks _ _ _)) fun _ => startLabel_keepsBooks s l _ 0

theorem takeExpiry_keepsBooks (s : State) (l : Lane) : s.keepsBooks (s.takeExpiry l) := by
  have dropped : s.keepsBooks (s.dropExpiry l) := setLane_keepsBooks s l _
  unfold State.takeExpiry
  refine keepsBooks_ite (fun _ => keepsBooks_refl s) fun _ => keepsBooks_ite (fun _ => dropped) fun _ => ?_
  split
  · exact dropped
  · next k _ =>
    have started := fun b => (startLabel_keepsBooks s l k.syntheticStart ((s.lane l).tracker.synthetic + 1)).trans
      (giveAt_keepsBooks _ k.pred b)
    exact keepsBooks_ite (fun _ => (started _).trans (laneFault_keepsBooks _ l _)) fun _ => started _

/-! ## The gate event (02 R32, 06) -/

theorem spill_keepsBooks (s : State) (l : Lane) (m : MissingItem) : s.keepsBooks (s.spill l m) :=
  (setLane_keepsBooks s l _).trans (give_keepsBooks _ _)

theorem takeStackLabel_keepsBooks (s : State) (l : Lane) (r : LabelRecord) : s.keepsBooks (s.takeStackLabel l r) := by
  have spilled := fun g => (spill_keepsBooks s l (r.item .spill)).trans (setLane_keepsBooks _ l
    { (s.spill l (r.item .spill)).lane l with gate := g })
  unfold State.takeStackLabel
  split
  · exact keepsBooks_ite (fun _ => ((closeAndFault_keepsBooks s l _).trans (spill_keepsBooks _ l _)).trans
      (setLane_keepsBooks _ l _)) fun _ => (setLane_keepsBooks s l _).trans (setLane_keepsBooks _ l _)
  · exact spilled _
  · exact spilled _

theorem takeItem_keepsBooks (s : State) (l : Lane) (r : LabelRecord) : s.keepsBooks (s.takeItem l r) := by
  unfold State.takeItem
  split
  · exact takeStackLabel_keepsBooks s l r
  · exact (setLane_keepsBooks s l _).trans (setLane_keepsBooks _ l _)
  · exact (setLane_keepsBooks s l _).trans (setLane_keepsBooks _ l _)

theorem testClose_keepsBooks (s : State) (l : Lane) (r : LabelRecord) : s.keepsBooks (s.testClose l r) :=
  keepsBooks_ite (fun _ => closeAndFault_keepsBooks s l _) fun _ => keepsBooks_ite
    (fun _ => closeAndFault_keepsBooks s l _) fun _ => keepsBooks_refl s

theorem afterGate_keepsBooks (s : State) (l : Lane) : s.keepsBooks (s.afterGate l) :=
  keepsBooks_ite (fun _ => drainComplete_keepsBooks s l) fun _ => keepsBooks_ite
    (fun _ => runOutComplete_keepsBooks s l) fun _ => keepsBooks_refl s

theorem takeGate_keepsBooks (s : State) (l : Lane) : s.keepsBooks (s.takeGate l) := by
  unfold State.takeGate
  split
  · exact keepsBooks_refl s
  · exact keepsBooks_ite (fun _ => (((setLane_keepsBooks s l _).trans (takeItem_keepsBooks _ l _)).trans
      (testClose_keepsBooks _ l _)).trans (afterGate_keepsBooks _ l)) fun _ => keepsBooks_refl s

/-! ## The rows of the label and lane blocks -/

theorem forwardTick_keepsBooks (s : State) : s.keepsBooks s.forwardTick := by
  have moved : s.keepsBooks { s with web := { s.web with position := s.web.position + 1 } } := keepsBooks_of_part rfl
  exact keepsBooks_ite (fun _ => moved.trans (keepsBooks_foldl (fun u l => setLane_keepsBooks u l _) _ _)) fun _ =>
    kept_backlog s.bookPart (Nat.sub_le _ _).trans

theorem reverseTick_keepsBooks (s : State) : s.keepsBooks s.reverseTick := by
  have owed : s.keepsBooks { s with web := { s.web with backlog := raiseHolding Config.backlogHold s.web.backlog } } :=
    kept_backlog s.bookPart raiseHolding_le
  exact keepsBooks_ite (fun _ => owed.trans (keepsBooks_ite (fun _ => enterHalted_keepsBooks _ _) fun _ =>
    keepsBooks_refl _)) fun _ => owed

theorem encoderTransition_keepsBooks (s : State) (a b : Bool) : s.keepsBooks (s.encoderTransition a b) := by
  have referred : s.keepsBooks { s with web := { s.web with refA := a, refB := b } } := keepsBooks_of_part rfl
  exact keepsBooks_ite (fun _ => keepsBooks_refl s) fun _ => keepsBooks_ite
    (fun _ => referred.trans (forwardTick_keepsBooks _)) fun _ => keepsBooks_ite
    (fun _ => referred.trans (reverseTick_keepsBooks _)) fun _ => referred.trans (give_keepsBooks _ _)

theorem spliceRise_keepsBooks (s : State) : s.keepsBooks s.spliceRise := by
  have raised : s.keepsBooks { s with web := { s.web with splice := true } } := keepsBooks_of_part rfl
  exact keepsBooks_ite (fun _ => keepsBooks_refl s) fun _ =>
    (raised.trans (keepsBooks_foldl (fun u l => setLane_keepsBooks u l _) _ _)).trans (give_keepsBooks _ _)

theorem takeDeadline_keepsBooks (s : State) (l : Lane) : s.keepsBooks (s.takeDeadline l) := by
  unfold State.takeDeadline
  split
  · exact keepsBooks_refl s
  · exact keepsBooks_ite (fun _ => (setLane_keepsBooks s l _).trans (give_keepsBooks _ _)) fun _ =>
      setLane_keepsBooks s l _

theorem takeCut_keepsBooks (s : State) (l : Lane) : s.keepsBooks (s.takeCut l) := by
  unfold State.takeCut
  split
  · exact keepsBooks_refl s
  · exact setLane_keepsBooks s l _

theorem takeConfirmLimit_keepsBooks (s : State) (l : Lane) : s.keepsBooks (s.takeConfirmLimit l) := by
  unfold State.takeConfirmLimit
  split
  · exact keepsBooks_refl s
  · have missed := fun n => (setLane_keepsBooks s l { s.lane l with queue := confirmQueue (s.lane l).queue }).trans
      (setLane_keepsBooks _ l { (s.setQueue l (confirmQueue (s.lane l).queue)).lane l with misses := n })
    exact keepsBooks_ite (fun _ => (keepsBooks_ite (fun _ => (missed _).trans (laneFault_keepsBooks _ l _)) fun _ =>
      missed _).trans (give_keepsBooks _ _)) fun _ => setLane_keepsBooks s l _

theorem kdonePulse_keepsBooks (s : State) (l : Lane) : s.keepsBooks (s.kdonePulse l) :=
  keepsBooks_ite (fun _ => give_keepsBooks s _) fun _ => setLane_keepsBooks s l _

theorem trayReadyPulse_keepsBooks (s : State) (l : Lane) : s.keepsBooks (s.trayReadyPulse l) := by
  unfold State.trayReadyPulse
  split
  · exact setLane_keepsBooks s l _
  · exact setLane_keepsBooks s l _
  · exact give_keepsBooks s _

theorem safeRise_keepsBooks (s : State) : s.keepsBooks s.safeRise := by
  have raised : s.keepsBooks { s with engine := { s.engine with safe := true } } := keepsBooks_of_part rfl
  exact keepsBooks_ite (fun _ => keepsBooks_refl s) fun _ => raised.trans (takeHalt_keepsBooks _ _)

theorem startFetch_keepsBooks (s : State) (l : Lane) : s.keepsBooks (s.startFetch l) :=
  keepsBooks_ite (fun _ => setLane_keepsBooks s l _) fun _ => keepsBooks_refl s

end Sys2Proof.Machine
end

section
/-! The bookkeeping under host cycles (07 to 11): engine and memory commands, control words, verdicts, reads and merges. -/

namespace Sys2Proof.Machine

/-! ## Engine commands (07) -/

theorem keepsBooks_ite_fst {s : State} {c : Prop} [Decidable c] {p q : State × Reply} (h : s.keepsBooks p.1)
    (k : s.keepsBooks q.1) : s.keepsBooks (if c then p else q).1 := by
  split
  · exact h
  · exact k

theorem commandRun_keepsBooks (s : State) (mask : Byte) : s.keepsBooks (s.commandRun mask).1 := by
  have started := fun ls : List Lane => (setEngine_keepsBooks s .running).trans
    (keepsBooks_foldl (fun u l => setLane_keepsBooks u l (u.lane l).activated) ls _)
  refine keepsBooks_ite_fst (keepsBooks_refl s) (keepsBooks_ite_fst (keepsBooks_refl s) ?_)
  split
  · exact keepsBooks_refl s
  · exact started _

theorem drainLane_keepsBooks (s : State) (l : Lane) : s.keepsBooks (s.drainLane l) :=
  keepsBooks_ite (fun _ => (setLane_keepsBooks s l _).trans (drainComplete_keepsBooks _ l)) fun _ =>
    setLane_keepsBooks s l _

theorem commandDrain_keepsBooks (s : State) (mask : Byte) : s.keepsBooks (s.commandDrain mask).1 :=
  keepsBooks_ite_fst (keepsBooks_refl s) (keepsBooks_ite_fst (keepsBooks_refl s)
    ((keepsBooks_foldl drainLane_keepsBooks _ s).trans (settleEngine_keepsBooks _)))

theorem commandClearHalt_keepsBooks (s : State) : s.keepsBooks s.commandClearHalt.1 :=
  keepsBooks_ite_fst (keepsBooks_refl s) (keepsBooks_ite_fst (keepsBooks_refl s) (setEngine_keepsBooks s _))

theorem commandCloseStack_keepsBooks (s : State) (l : Lane) : s.keepsBooks (s.commandCloseStack l).1 :=
  keepsBooks_ite (fun _ => closeAndFault_keepsBooks s l _) fun _ => keepsBooks_refl s

theorem commandClearLane_keepsBooks (s : State) (l : Lane) : s.keepsBooks (s.commandClearLane l).1 := by
  unfold State.commandClearLane
  split
  · exact keepsBooks_refl s
  · exact keepsBooks_ite (fun _ => setLane_keepsBooks s l _) fun _ =>
      (setLane_keepsBooks s l _).trans (testStopped_keepsBooks _)

theorem commandBypass_keepsBooks (s : State) (l : Lane) : s.keepsBooks (s.commandBypass l).1 :=
  keepsBooks_ite_fst ((setLane_keepsBooks s l _).trans (setLane_keepsBooks _ l _)) (keepsBooks_refl s)

theorem commandUnbypass_keepsBooks (s : State) (l : Lane) : s.keepsBooks (s.commandUnbypass l).1 :=
  keepsBooks_ite_fst (setLane_keepsBooks s l _) (keepsBooks_refl s)

theorem engineAction_keepsBooks (s : State) (code operand : Byte) : s.keepsBooks (s.engineAction code operand).1 := by
  have valid {c : Prop} [Decidable c] {p : State × Reply} (r : Reply) (h : s.keepsBooks p.1) :
      s.keepsBooks (if c then p else (s, r)).1 := keepsBooks_ite_fst h (keepsBooks_refl s)
  simp only [State.engineAction]
  split
  · exact valid _ (commandRun_keepsBooks s _)
  · exact valid _ (commandDrain_keepsBooks s _)
  · exact takeHalt_keepsBooks s .command
  · exact commandClearHalt_keepsBooks s
  · exact valid _ (commandCloseStack_keepsBooks s _)
  · exact valid _ (commandClearLane_keepsBooks s _)
  · exact valid _ (commandBypass_keepsBooks s _)
  · exact valid _ (commandUnbypass_keepsBooks s _)
  · exact keepsBooks_refl s

theorem recordReply_keepsBooks (s : State) (code : Byte) (r : Reply) : s.keepsBooks (s.recordReply code r) :=
  keepsBooks_of_part rfl

theorem engineCommand_keepsBooks (s : State) (d : Word) : s.keepsBooks (s.engineCommand d) :=
  keepsBooks_ite (fun _ => ((engineAction_keepsBooks s (cellCode d) (cellOperand d)).trans
    (keepsBooks_ite (fun _ => keepsBooks_refl _) fun _ => give_keepsBooks _ _)).trans (recordReply_keepsBooks _ _ _))
    fun _ => (give_keepsBooks s _).trans (recordReply_keepsBooks _ _ _)

/-! ## Memory commands (10) -/

theorem refuse_walkIsKnown {m : MemUnit} (h : walkIsKnown m.state m.walk) (code : Byte) (r : MemResult) :
    walkIsKnown (m.refuse code r).state (m.refuse code r).walk := by
  unfold MemUnit.refuse
  split
  · next idle => exact fun going => absurd idle going
  · exact h

/-- A walk begins with the code of VERIFY or CLEAR alone (10 R162, R166). -/
theorem commandWalk_walkIsKnown {s : State} {code : Byte} (h : walkIsKnown s.mem.state s.mem.walk)
    (known : code = 0x01 ∨ code = 0x02) :
    walkIsKnown (s.commandWalk code).state (s.commandWalk code).walk := by
  have refused := refuse_walkIsKnown h code
  have begun : walkIsKnown (s.mem.beginWalk code).state (s.mem.beginWalk code).walk := fun _ =>
    known.imp (congrArg some) (congrArg some)
  unfold State.commandWalk
  split
  · exact refused _
  · exact refused _
  · split
    · exact refused _
    · split
      · exact refused _
      · exact begun

theorem memoryAction_walkIsKnown {s : State} (h : walkIsKnown s.mem.state s.mem.walk) (code operand : Byte) :
    walkIsKnown (s.memoryAction code operand).state (s.memoryAction code operand).walk := by
  have refused := refuse_walkIsKnown h code
  unfold State.memoryAction
  split
  · next one => exact commandWalk_walkIsKnown h (.inl (BitVec.eq_of_toNat_eq one))
  · next two => exact commandWalk_walkIsKnown h (.inr (BitVec.eq_of_toNat_eq two))
  · exact h
  · unfold MemUnit.commandSuspend
    split
    · next busy => exact fun _ => h (by rw [busy]; decide)
    · exact refused _
  · unfold MemUnit.commandResume
    split
    · next suspended => exact fun _ => h (by rw [suspended]; decide)
    · exact refused _
    · exact refused _
  · unfold MemUnit.commandAbort
    split
    · exact refused _
    · exact fun going => absurd rfl going
  · exact refused _

theorem memoryCommand_keepsBooks (s : State) (d : Word) : s.keepsBooks (s.memoryCommand d) :=
  kept_walk s.bookPart fun h => memoryAction_walkIsKnown h (cellCode d) (cellOperand d)

/-! ## Control words (03, 08, 09, 11) -/

theorem storeLocation_keepsBooks (s : State) (a : Nat) (x : Location) : s.keepsBooks (s.storeLocation a x) :=
  kept_store s.bookPart a x

theorem storeWord_keepsBooks (s : State) (a : Nat) (d : Word) : s.keepsBooks (s.storeWord a d) :=
  storeLocation_keepsBooks s a _

theorem endHost_keepsBooks (s : State) (ok : Bool) (data : Option Word) : s.keepsBooks (s.endHost ok data) :=
  keepsBooks_of_part rfl

theorem storeControl_keepsBooks (s : State) (off : Nat) (d : Word) : s.keepsBooks (s.storeControl off d) :=
  (storeWord_keepsBooks s _ d).trans (endHost_keepsBooks _ _ _)

theorem refuseSetting_keepsBooks (s : State) (off : Nat) (d : Word) : s.keepsBooks (s.refuseSetting off d) :=
  giveRaise_keepsBooks s _ _

theorem refuseProtected_keepsBooks (s : State) (b : EventBody) : s.keepsBooks (s.refuseProtected b) :=
  (giveRaise_keepsBooks s _ b).trans (endHost_keepsBooks _ _ _)

theorem writeSetting_keepsBooks (s : State) (x : Setting) (d : Word) : s.keepsBooks (s.writeSetting x d) := by
  have refused := (refuseSetting_keepsBooks s (settingOffset x) d).trans (endHost_keepsBooks _ true none)
  refine keepsBooks_ite (fun _ => refused) fun _ => ?_
  split
  · exact refused
  · next c w _ =>
    have taken : s.keepsBooks { s with settings := c } := keepsBooks_of_part rfl
    have settled : State.keepsBooks { s with settings := c } (State.settleScrub { s with settings := c } x) :=
      keepsBooks_ite (fun _ => kept_scrub s.bookPart fun _ => ⟨Nat.zero_le _, List.nodup_nil⟩) fun _ => keepsBooks_refl _
    exact (taken.trans settled).trans (storeControl_keepsBooks _ _ w)

theorem recheckWindow_keepsBooks (s : State) (n : WindowName) : s.keepsBooks (s.recheckWindow n) := by
  have replaced : ∀ w, s.keepsBooks (s.setExemptWindow n w) := fun w => by cases n <;> exact keepsBooks_of_part rfl
  exact keepsBooks_ite (fun _ => (replaced _).trans (give_keepsBooks _ _)) fun _ => keepsBooks_refl s

theorem wordsAfterMapping_le {words stored : Nat} (h : stored ≤ words) : wordsAfterMapping words stored ≤ words := by
  unfold wordsAfterMapping; split <;> omega

theorem resetRing_keepsBooks (s : State) (e : MapEntryName) : s.keepsBooks (s.resetRing e) := by
  cases e with
  | orderRing l => exact setLane_keepsBooks s l _
  | stackRing =>
    exact { kept_refl s.bookPart with bounded := fun b => { b with stackWords := wordsAfterMapping_le b.stackWords } }
  | eventRing =>
    exact { kept_refl s.bookPart with bounded := fun b => { b with eventWords := wordsAfterMapping_le b.eventWords } }
  | verdictCells => exact keepsBooks_refl s

theorem writeMap_keepsBooks (s : State) (e : MapEntryName) (d : Word) : s.keepsBooks (s.writeMap e d) := by
  have mapped : s.keepsBooks { s with regions := s.regions.withEntry e (takenEntry e d) } := keepsBooks_of_part rfl
  exact keepsBooks_ite (fun _ => (refuseSetting_keepsBooks s _ d).trans (endHost_keepsBooks _ _ _)) fun _ =>
    (((mapped.trans (resetRing_keepsBooks _ e)).trans (recheckWindow_keepsBooks _ _)).trans
      (recheckWindow_keepsBooks _ _)).trans (storeControl_keepsBooks _ _ _)

theorem writeLock_keepsBooks (s : State) (d : Word) : s.keepsBooks (s.writeLock d) := by
  have locked : s.keepsBooks { s with regions := { s.regions with locked := true } } := keepsBooks_of_part rfl
  have refused := refuseSetting_keepsBooks s 0x067 d
  exact (keepsBooks_ite (fun _ => keepsBooks_ite (fun _ => keepsBooks_refl s) fun _ =>
    keepsBooks_ite (fun _ => locked) fun _ => refused) fun _ =>
    keepsBooks_ite (fun _ => keepsBooks_refl s) fun _ => refused).trans (storeControl_keepsBooks _ _ _)

theorem writePut_keepsBooks (s : State) (l : Lane) (d : Word) : s.keepsBooks (s.writePut l d) :=
  keepsBooks_ite (fun _ => (setLane_keepsBooks s l _).trans (storeControl_keepsBooks _ _ _)) fun _ =>
    refuseProtected_keepsBooks s _

theorem writeStackRead_keepsBooks (s : State) (d : Word) : s.keepsBooks (s.writeStackRead d) := by
  have read : s.keepsBooks { s with writer := { s.writer with stackRead := indexField d } } := keepsBooks_of_part rfl
  exact keepsBooks_ite (fun _ => read.trans (storeControl_keepsBooks _ _ _)) fun _ => refuseProtected_keepsBooks s _

theorem writeEventRead_keepsBooks (s : State) (d : Word) : s.keepsBooks (s.writeEventRead d) := by
  have read : s.keepsBooks { s with writer := { s.writer with eventRead := indexField d } } := keepsBooks_of_part rfl
  exact keepsBooks_ite (fun _ => read.trans (storeControl_keepsBooks _ _ _)) fun _ => refuseProtected_keepsBooks s _

theorem writeWindow_keepsBooks (s : State) (n : WindowName) (k : WindowWord) (d : Word) :
    s.keepsBooks (s.writeWindow n k d) := by
  have replaced : ∀ w, s.keepsBooks (s.setExemptWindow n w) := fun w => by cases n <;> exact keepsBooks_of_part rfl
  exact (keepsBooks_ite (fun _ => (replaced _).trans (refuseSetting_keepsBooks _ _ d)) fun _ => replaced _).trans
    (storeControl_keepsBooks _ _ d)

theorem acknowledge_keepsBooks (s : State) (d : Word) : s.keepsBooks (s.acknowledge d) := by
  refine kept_count s.bookPart fun h => ?_
  show (if d.getLsbD 18 = true then 0 else s.capture.count) ≤ 65535
  split
  · exact Nat.zero_le _
  · exact h

theorem writeControl_keepsBooks (s : State) (off : Nat) (d : Word) : s.keepsBooks (s.writeControl off d) := by
  have operand (m : MemUnit) (same : m.state = s.mem.state ∧ m.walk = s.mem.walk) : s.keepsBooks (s.setMem m) :=
    kept_walk s.bookPart (show walkIsKnown _ _ → walkIsKnown m.state m.walk by rw [same.1, same.2]; exact id)
  unfold State.writeControl
  cases controlWord off with
  | partOwned => exact refuseProtected_keepsBooks s _
  | reserved => exact storeControl_keepsBooks s _ _
  | engineCell => exact (engineCommand_keepsBooks s d).trans (storeControl_keepsBooks _ _ _)
  | memoryCell => exact (memoryCommand_keepsBooks s d).trans (storeControl_keepsBooks _ _ _)
  | operandStart => exact (operand _ ⟨rfl, rfl⟩).trans (storeControl_keepsBooks _ _ _)
  | operandCount => exact (operand _ ⟨rfl, rfl⟩).trans (storeControl_keepsBooks _ _ _)
  | operandFill => exact (operand _ ⟨rfl, rfl⟩).trans (storeControl_keepsBooks _ _ _)
  | setting x => exact writeSetting_keepsBooks s x d
  | mapEntry e => exact writeMap_keepsBooks s e d
  | mapLock => exact writeLock_keepsBooks s d
  | put l => exact writePut_keepsBooks s l d
  | stackRead => exact writeStackRead_keepsBooks s d
  | eventRead => exact writeEventRead_keepsBooks s d
  | acknowledge => exact (acknowledge_keepsBooks s d).trans (storeControl_keepsBooks _ _ _)
  | window n k => exact writeWindow_keepsBooks s n k d

/-! ## Verdicts (04) -/

/-- A merge into the first entry of a lane and serial renames none. -/
theorem updateFirst_names {p : EarlyEntry → Bool} (v : Verdict) (c : BitVec 4) (es : List EarlyEntry) :
    (updateFirst p (·.merge v c) es).map (fun e => (e.lane, e.serial)) = es.map (fun e => (e.lane, e.serial)) := by
  induction es with
  | nil => rfl
  | cons e es ih =>
    unfold updateFirst
    split
    · rfl
    · rw [List.map_cons, List.map_cons, ih]

/-- A verdict held merges with the entry of its name, or adds one where there is none and a place is free (04 R67). -/
theorem holdEarly_keepsBooks {s : State} {d : Word} (h : s.verdictOutcome d = .held) :
    s.keepsBooks { s with early := holdEarly s.early d } := by
  unfold holdEarly
  split
  · refine kept_early s.bookPart (fun places => ?_) fun distinct => ?_
    · have same := congrArg List.length (updateFirst_names (verdictCode d) (verdictDefect d) s.early
        (p := fun e => e.isFor (verdictLane d) (verdictSerial d)))
      rw [List.length_map, List.length_map] at same
      exact same.le.trans places
    · unfold isEarlyTable
      rw [updateFirst_names]; exact distinct
  · next new =>
    have room : s.early.length < 16 := by
      by_contra full
      have none : decide (s.early.length < Config.earlyPlaces) = false := decide_eq_false full
      simp only [State.verdictOutcome, new, none, Bool.or_false] at h
      split_ifs at h with _ _ _ _ impossible
      exact impossible
    refine kept_early s.bookPart (fun _ => ?_) fun distinct => ?_
    · rw [List.length_append]; exact room
    · unfold isEarlyTable
      rw [List.map_append]
      refine distinct.append (List.nodup_singleton _) (List.disjoint_singleton.mpr fun taken => new ?_)
      obtain ⟨e, mem, named⟩ := List.mem_map.mp taken
      obtain ⟨lane, serial⟩ := Prod.mk.inj named
      exact List.any_eq_true.mpr ⟨e, mem, (isFor_iff e _ _).mpr ⟨lane, serial⟩⟩

theorem takeVerdict_keepsBooks (s : State) (a : Nat) (d : Word) : s.keepsBooks (s.takeVerdict a d) := by
  have applied : s.keepsBooks (s.applyVerdict d (s.verdictOutcome d)) := by
    cases outcome : s.verdictOutcome d with
    | taken => exact setLane_keepsBooks s _ _
    | held => exact holdEarly_keepsBooks outcome
    | late => exact giveRaise_keepsBooks s _ _
    | full => exact give_keepsBooks s _
    | refused => exact give_keepsBooks s _
  exact applied.trans (storeWord_keepsBooks _ _ _)

/-! ## Host cycles (08) -/

theorem hostRead_keepsBooks (s : State) (a : Nat) : s.keepsBooks (s.hostRead a) := by
  refine State.keepsBooks.trans (t := s.reportHostRead a (s.readOutcome a)) ?_ (endHost_keepsBooks _ _ _)
  cases s.readOutcome a with
  | clean => exact keepsBooks_refl s
  | blank => exact keepsBooks_refl s
  | corrected b => exact (detectCorrectable_keepsBooks s _ a b).trans (offerScrub_keepsBooks _ a)
  | uncorrectable d => exact consumeUncorrectable_keepsBooks s _ a d

theorem hostWrite_keepsBooks (s : State) (a : Nat) (d : Word) : s.keepsBooks (s.hostWrite a d) := by
  have stored : s.keepsBooks (s.storeWord a d).endOk := (storeWord_keepsBooks s a d).trans (endHost_keepsBooks _ _ _)
  unfold State.hostWrite
  cases s.addressClass a with
  | plain => exact stored
  | exempt => exact stored
  | orderSlot l slot => exact keepsBooks_ite (fun _ => refuseProtected_keepsBooks s _) fun _ => stored
  | verdict => exact (takeVerdict_keepsBooks s a d).trans (endHost_keepsBooks _ _ _)
  | stackRing => exact refuseProtected_keepsBooks s _
  | eventRing => exact refuseProtected_keepsBooks s _
  | control => exact writeControl_keepsBooks s _ d

theorem lockPort_keepsBooks (s : State) : s.keepsBooks s.lockPort := keepsBooks_of_part rfl

theorem checkedMerge_keepsBooks (s : State) (a : Nat) (d : Word) (be : BitVec 4) :
    s.keepsBooks (s.checkedMerge a d be) := by
  have merged := fun x => (lockPort_keepsBooks s).trans (storeLocation_keepsBooks _ a x)
  unfold State.checkedMerge
  cases s.readOutcome a with
  | clean => exact (merged _).trans (endHost_keepsBooks _ _ _)
  | blank => exact (merged _).trans (endHost_keepsBooks _ _ _)
  | corrected b => exact ((merged _).trans (detectCorrectable_keepsBooks _ _ a b)).trans (endHost_keepsBooks _ _ _)
  | uncorrectable x =>
    exact ((merged _).trans (consumeUncorrectable_keepsBooks _ _ a x)).trans (endHost_keepsBooks _ _ _)

theorem hostPartialWrite_keepsBooks (s : State) (a : Nat) (d : Word) (be : BitVec 4) :
    s.keepsBooks (s.hostPartialWrite a d be) := by
  have refused := refuseProtected_keepsBooks s
  have merged := checkedMerge_keepsBooks s a d be
  unfold State.hostPartialWrite
  cases s.addressClass a with
  | plain => exact merged
  | orderSlot l slot => exact keepsBooks_ite (fun _ => refused _) fun _ => merged
  | exempt =>
    exact ((lockPort_keepsBooks s).trans (storeLocation_keepsBooks _ a _)).trans (endHost_keepsBooks _ _ _)
  | verdict => exact refused _
  | control => exact refused _
  | stackRing => exact refused _
  | eventRing => exact refused _

theorem hostWork_keepsBooks (s : State) (c : HostCycle) : s.keepsBooks (s.hostWork c) := by
  cases c with
  | read a => exact hostRead_keepsBooks s _
  | write a d => exact hostWrite_keepsBooks s _ d
  | partialWrite a d be =>
    exact keepsBooks_ite (fun _ => hostPartialWrite_keepsBooks s _ d be) fun _ => hostWrite_keepsBooks s _ d

end Sys2Proof.Machine
end

section
/-! The bookkeeping under grants, resets and whole steps (08, 09, 10, 11): the obligation on what every step keeps. -/

namespace Sys2Proof.Machine

/-! ## Grants to the part (03, 06, 09, 10, 11) -/

theorem grantInternal_keepsBooks (s : State) (r : Internal) : s.keepsBooks (s.grantInternal r) := by
  refine kept_bypass s.bookPart fun q h => ?_
  show ((s.arbiter.clearBypass r).bypass q) ≤ 4
  cases r <;> cases q <;> first | exact h | exact Nat.zero_le _

theorem grantHost_keepsBooks (s : State) : s.keepsBooks s.grantHost := by
  have up (r : Internal) (n : Nat) (h : n ≤ 4) :
      (if s.requesting r then raiseHolding Config.bypassLimit n else n) ≤ 4 := by
    split
    · exact raiseHolding_le h
    · exact h
  refine kept_bypass s.bookPart fun q => ?_
  cases q <;> exact up _ _

theorem fetchWork_keepsBooks (s : State) : s.keepsBooks s.fetchWork := by
  have reported (u : State) (l : Lane) (a : Nat) (o : ReadOutcome) : u.keepsBooks (u.reportFetch l a o) := by
    cases o with
    | clean => exact keepsBooks_refl u
    | blank => exact keepsBooks_refl u
    | corrected b => exact (detectCorrectable_keepsBooks u _ a b).trans (offerScrub_keepsBooks _ a)
    | uncorrectable d => exact keepsBooks_of_part rfl
  unfold State.fetchWork
  split
  · exact keepsBooks_refl s
  · next l _ =>
    split
    · exact keepsBooks_refl s
    · have turned : s.keepsBooks { s with arbiter := { s.arbiter with lastLane := l } } := keepsBooks_of_part rfl
      exact (turned.trans (reported _ l _ _)).trans (setLane_keepsBooks _ l _)

theorem unpark_holding (s : State) : s.unpark.writer.holding.length ≤ s.writer.holding.length + 1 ∧
    s.unpark.bookPart = { s.bookPart with holding := s.unpark.writer.holding.length } := by
  unfold State.unpark
  split
  · exact ⟨Nat.le_succ _, rfl⟩
  · split
    · exact ⟨Nat.le_succ _, rfl⟩
    · exact ⟨List.length_append.le, rfl⟩

/-- The head record's place in the holding list is free when a parked record takes it (06 R103). -/
theorem completeStack_keepsBooks {s : State} {r : StackRecord} {rest : List StackRecord}
    (head : s.writer.holding = r :: rest) : s.keepsBooks (s.completeStack r) := by
  have stored := storeWord_keepsBooks s (pageAddress 0x090) (s.publishedWord 0x090)
  refine stored.trans ?_
  obtain ⟨room, part⟩ := unpark_holding
    ((s.storeWord (pageAddress 0x090) (s.publishedWord 0x090)).publishHead r)
  have places : ((s.storeWord (pageAddress 0x090) (s.publishedWord 0x090)).publishHead r).writer.holding = rest := by
    show s.writer.holding.tail = rest
    rw [head, List.tail_cons]
  have before : s.writer.holding.length = rest.length + 1 := by rw [head, List.length_cons]
  rw [places] at room
  show BookPart.kept _ (State.unpark (State.publishHead _ r)).bookPart
  rw [part]
  exact { kept_refl (State.storeWord s _ _).bookPart with
    bounded := fun b => { b with
      stackWords := Nat.zero_le _
      holding := room.trans (before.symm.le.trans b.holding) } }

theorem recordWork_keepsBooks (s : State) (k : RecordKind) : s.keepsBooks (s.recordWork k) := by
  have served : ∀ j, s.keepsBooks (s.servedRecord j) := fun j => keepsBooks_of_part rfl
  cases k with
  | stack =>
    refine (served .stack).trans (show State.keepsBooks _ (State.stackWork _) from ?_)
    unfold State.stackWork
    split
    · exact keepsBooks_refl _
    · next head =>
      exact keepsBooks_ite (fun left => (storeWord_keepsBooks _ _ _).trans (kept_stackWords _ left)) fun _ =>
        completeStack_keepsBooks head
  | event =>
    refine (served .event).trans (show State.keepsBooks _ (State.eventWork _) from ?_)
    unfold State.eventWork
    split
    · exact keepsBooks_refl _
    · exact keepsBooks_ite (fun left => (storeWord_keepsBooks _ _ _).trans (kept_eventWords _ left)) fun _ =>
        (storeWord_keepsBooks _ _ _).trans { kept_refl (State.storeWord _ _ _).bookPart with
          bounded := fun b => { b with
            eventWords := Nat.zero_le _
            events := (List.length_tail.le.trans (Nat.sub_le _ _)).trans b.events } }
  | status =>
    refine (served .status).trans (show State.keepsBooks _ (State.storeStatusWord _) from ?_)
    unfold State.storeStatusWord
    split
    · exact keepsBooks_refl _
    · next o rest list =>
      refine (storeWord_keepsBooks _ _ _).trans (kept_publication _ fun ⟨nodup, owned⟩ => ?_)
      replace list : (State.storeWord (s.servedRecord .status) (pageAddress o)
        ((s.servedRecord .status).publishedWord o)).bookPart.publication = o :: rest := list
      rw [list] at nodup owned
      exact ⟨nodup.of_cons, fun p mem => owned p (List.mem_cons_of_mem o mem)⟩

theorem scrubWork_keepsBooks (s : State) : s.keepsBooks s.scrubWork := by
  unfold State.scrubWork
  split
  · exact keepsBooks_refl s
  · next a rest queue =>
    have taken : s.keepsBooks { s with scrubQueue := rest } := kept_scrub s.bookPart fun ⟨places, nodup⟩ => by
      replace queue : s.bookPart.scrubQueue = a :: rest := queue
      rw [queue] at places nodup
      exact ⟨(Nat.le_succ _).trans places, nodup.of_cons⟩
    refine keepsBooks_ite (fun _ => taken) fun _ => (taken.trans (lockPort_keepsBooks _)).trans ?_
    unfold State.scrubAddress
    dsimp only
    split
    · exact keepsBooks_refl _
    · exact keepsBooks_refl _
    · exact (storeWord_keepsBooks _ _ _).trans (detectCorrectable_keepsBooks _ _ _ _)
    · exact consumeUncorrectable_keepsBooks _ _ _ _

/-- The memory command unit with the walk's code kept, and its state kept or turned to IDLE. -/
def MemUnit.walksOn (m m' : MemUnit) : Prop := m'.walk = m.walk ∧ (m'.state = m.state ∨ m'.state = .idle)

theorem setMem_keepsBooks {s : State} {m : MemUnit} (h : s.mem.walksOn m) : s.keepsBooks (s.setMem m) := by
  obtain ⟨code, same | idle⟩ := h
  · exact kept_walk s.bookPart (show walkIsKnown _ _ → walkIsKnown m.state m.walk by rw [code, same]; exact id)
  · exact kept_walk s.bookPart fun _ going => absurd idle going

theorem advance_walksOn (m : MemUnit) : m.walksOn m.advance := by
  unfold MemUnit.advance
  dsimp only
  split
  · exact ⟨rfl, .inr rfl⟩
  · exact ⟨rfl, .inl rfl⟩

theorem verifyFault_walksOn (m : MemUnit) : m.walksOn m.verifyFault := by
  unfold MemUnit.verifyFault
  dsimp only
  split
  · exact advance_walksOn m.countUncorrectable
  · exact ⟨rfl, .inr rfl⟩

theorem verifyAt_keepsBooks (s : State) (a : Nat) : s.keepsBooks (s.verifyAt a) := by
  have passed {u : State} {m : MemUnit} (h : s.keepsBooks u) (mem : u.mem = s.mem) (on : s.mem.walksOn m) :
      s.keepsBooks (u.setMem m) := h.trans (setMem_keepsBooks (by rw [mem]; exact on))
  have locked := lockPort_keepsBooks s
  unfold State.verifyAt
  dsimp only
  split
  · exact setMem_keepsBooks (advance_walksOn s.mem)
  · split
    · exact passed locked rfl (advance_walksOn { s.mem with done := s.mem.done + 1 })
    · exact passed locked rfl (advance_walksOn { s.mem with done := s.mem.done + 1 })
    · exact passed ((locked.trans (storeWord_keepsBooks _ a _)).trans (detectCorrectable_keepsBooks _ _ a _))
        (detectCorrectable_mem _ _ _ _) (advance_walksOn s.mem.countCorrected)
    · exact passed (locked.trans (consumeUncorrectable_keepsBooks _ _ a _)) (consumeUncorrectable_mem _ _ _ _)
        (verifyFault_walksOn s.mem)

theorem clearAt_keepsBooks (s : State) (a : Nat) : s.keepsBooks (s.clearAt a) :=
  keepsBooks_ite (fun _ => setMem_keepsBooks ⟨rfl, .inr rfl⟩) fun _ =>
    ((lockPort_keepsBooks s).trans (storeWord_keepsBooks _ a _)).trans
      (setMem_keepsBooks (advance_walksOn { s.mem with done := s.mem.done + 1 }))

theorem memWork_keepsBooks (s : State) (k : MemKind) : s.keepsBooks (s.memWork k) := by
  have served : s.keepsBooks (s.servedMem k) := keepsBooks_of_part rfl
  cases k with
  | scrub => exact served.trans (scrubWork_keepsBooks _)
  | walk =>
    exact served.trans (keepsBooks_ite (fun _ => verifyAt_keepsBooks _ _) fun _ =>
      keepsBooks_ite (fun _ => clearAt_keepsBooks _ _) fun _ => keepsBooks_refl _)

/-! ## The end of a step -/

theorem publishedOffsets_isPublicationSet : isPublicationSet publishedOffsets := ⟨by decide, fun _ => id⟩

/-- Words that enter the publication set only where they are not there (11 R176). -/
theorem isPublicationSet_append {os ps : List Nat} (h : isPublicationSet os) (nodup : ps.Nodup)
    (owned : ∀ p ∈ ps, p ∈ publishedOffsets ∧ p ∉ os) : isPublicationSet (os ++ ps) :=
  ⟨h.1.append nodup fun p old new => (owned p new).2 old, fun p mem =>
    (List.mem_append.mp mem).elim (h.2 p) fun new => (owned p new).1⟩

theorem settleRequests_keepsBooks (s : State) : s.keepsBooks s.settleRequests := by
  obtain ⟨-, counts, -⟩ := settleRequests_arbiter s
  refine kept_bypass s.bookPart fun r h => ?_
  rw [counts r]
  split
  · exact h
  · exact Nat.zero_le _

theorem commitExcept_keepsBooks (pre post : State) (os : List Nat) :
    post.keepsBooks (State.commitExcept pre post os) := by
  have published : post.keepsBooks (State.publishExcept pre post os) := by
    refine kept_publication post.bookPart fun h => isPublicationSet_append h ?_ fun o mem => ?_
    · exact (publishedOffsets_isPublicationSet.1.filter _).filter _
    · obtain ⟨changed, new⟩ := List.mem_filter.mp mem
      exact ⟨List.mem_of_mem_filter changed, by simpa using new⟩
  exact (published.trans (keepsBooks_of_part (t := (State.publishExcept pre post os).freePort) rfl)).trans
    (settleRequests_keepsBooks _)

/-- `t` keeps the bookkeeping and the port at rest, as a whole step does. -/
def State.endsKept (s t : State) : Prop := s.keepsBooks t ∧ (s.portAtRest → t.portAtRest)

theorem State.endsKept.trans {s t u : State} (h : s.endsKept t) (k : t.endsKept u) : s.endsKept u :=
  ⟨h.1.trans k.1, k.2 ∘ h.2⟩

theorem endsKept_refl (s : State) : s.endsKept s := ⟨keepsBooks_refl s, id⟩

theorem endsKept_ite {s t u : State} {c : Prop} [Decidable c] (h : s.endsKept t) (k : s.endsKept u) :
    s.endsKept (if c then t else u) := by
  split
  · exact h
  · exact k

theorem commitExcept_endsKept {s t : State} (h : s.keepsBooks t) (pre : State) (os : List Nat) :
    s.endsKept (State.commitExcept pre t os) := ⟨h.trans (commitExcept_keepsBooks pre t os), fun _ => ⟨rfl, rfl⟩⟩

/-! ## Grants and host cycles from their making to their end -/

theorem statusLast_keepsBooks (pre post : State) : post.keepsBooks (State.statusLast pre post) := by
  refine keepsBooks_ite (fun _ => kept_publication post.bookPart fun ⟨nodup, owned⟩ => ?_) fun _ => keepsBooks_refl post
  refine isPublicationSet_append ⟨nodup.filter _, fun o mem => owned o (List.mem_of_mem_filter mem)⟩
    (List.nodup_singleton _) fun o mem => ?_
  rw [List.mem_singleton.mp mem]
  exact ⟨by decide, fun old => by simpa using List.of_mem_filter old⟩

theorem serveMem_endsKept (s : State) (k : MemKind) : s.endsKept (s.serveMem k) := by
  have committed := commitExcept_endsKept ((grantInternal_keepsBooks s .memcmd).trans (memWork_keepsBooks _ k)) s []
  refine committed.trans ⟨statusLast_keepsBooks _ _, fun rest => ?_⟩
  obtain ⟨publication, last⟩ := statusLast_eq s (State.commit s ((s.grantInternal .memcmd).memWork k))
  unfold State.serveMem
  rw [last]
  exact rest

theorem serveFetch_endsKept (s : State) : s.endsKept s.serveFetch :=
  commitExcept_endsKept ((grantInternal_keepsBooks s .fetch).trans (fetchWork_keepsBooks _)) s []

theorem serveRecord_endsKept (s : State) (k : RecordKind) : s.endsKept (s.serveRecord k) :=
  commitExcept_endsKept ((grantInternal_keepsBooks s .record).trans (recordWork_keepsBooks _ k)) s indexOffsets

theorem serve_endsKept (s : State) (r : Internal) : s.endsKept (s.serve r) := by
  cases r with
  | fetch => exact serveFetch_endsKept s
  | record =>
    unfold State.serve
    cases s.nextRecord with
    | none => exact endsKept_refl s
    | some k => exact serveRecord_endsKept s k
  | memcmd =>
    unfold State.serve
    cases s.nextMem with
    | none => exact endsKept_refl s
    | some k => exact serveMem_endsKept s k

theorem serveOwed_endsKept (n : Nat) (s : State) : s.endsKept (State.serveOwed n s) := by
  induction n generalizing s with
  | zero => exact endsKept_refl s
  | succ n ih =>
    unfold State.serveOwed
    split
    · exact endsKept_refl s
    · exact (serve_endsKept s _).trans (ih _)

theorem hostCycle_endsKept (s : State) (c : HostCycle) : s.endsKept (s.hostCycle c) :=
  endsKept_ite ((serveOwed_endsKept 3 s).trans
      (commitExcept_endsKept ((grantHost_keepsBooks _).trans (hostWork_keepsBooks _ c)) _ []))
    (endsKept_ite (endsKept_refl s) ⟨keepsBooks_of_part rfl, id⟩)

/-! ## Resets (11 R177, 08 R142) -/

theorem sampleSafe_keepsBooks (s : State) (i : InputLines) : s.keepsBooks (s.sampleSafe i) :=
  keepsBooks_ite (fun _ => safeRise_keepsBooks s) fun _ => keepsBooks_refl s

theorem poweredOn_keepsBooks (s : State) (i : InputLines) : s.keepsBooks (s.poweredOn i) where
  memory _ := Memory.wf_reset
  bounded _ := ⟨Nat.zero_le _, Nat.zero_le _, ⟨Nat.zero_le _, List.nodup_nil⟩, Nat.zero_le _, Nat.zero_le _,
    Nat.zero_le _, Nat.zero_le _, Nat.zero_le _, fun r => by cases r <;> exact Nat.zero_le _⟩
  publication _ := ⟨List.nodup_nil, nofun⟩
  early _ := List.nodup_nil
  walk _ going := absurd rfl going

theorem lineReset_keepsBooks (s : State) (i : InputLines) : s.keepsBooks (s.lineReset i) where
  memory := id
  bounded b := ⟨Nat.zero_le _, Nat.zero_le _, ⟨Nat.zero_le _, List.nodup_nil⟩, Nat.zero_le _, b.count,
    Nat.zero_le _, Nat.zero_le _, Nat.zero_le _, fun r => by cases r <;> exact Nat.zero_le _⟩
  publication _ := publishedOffsets_isPublicationSet
  early _ := List.nodup_nil
  walk _ going := absurd rfl going

theorem takeLineReset_endsKept (s : State) (i : InputLines) (mergeCut : Bool) :
    s.endsKept (s.takeLineReset i mergeCut) := by
  have sampled := commitExcept_endsKept ((lineReset_keepsBooks s i).trans (sampleSafe_keepsBooks _ i))
    (s.lineReset i) []
  exact endsKept_ite (sampled.trans ⟨endHost_keepsBooks _ false none, id⟩) sampled

theorem imageDone_endsKept (s : State) : s.endsKept s.imageDone := by
  refine ⟨?_, ?_⟩
  · have written : s.keepsBooks { s with arbiter := { s.arbiter with imageWriting := false, resetWaiting := false } } :=
      keepsBooks_of_part rfl
    refine (written.trans (keepsBooks_ite (fun splice => ?_) fun _ => keepsBooks_refl _)).trans
      (settleRequests_keepsBooks _)
    refine kept_publication s.bookPart fun h => isPublicationSet_append h (List.nodup_singleton _) fun o mem => ?_
    rw [List.mem_singleton.mp mem]
    rw [Bool.and_eq_true] at splice
    exact ⟨by decide, by simpa using splice.2⟩
  · unfold State.imageDone State.publishSplice
    split <;> exact id

theorem resetRow_endsKept {c : Instr} {s t : State} (row : resetRow c = true) (he : exec c s = .next t) :
    s.endsKept t := by
  cases c with
  | powerOn i =>
    cases he
    exact commitExcept_endsKept ((poweredOn_keepsBooks s i).trans (sampleSafe_keepsBooks _ i)) _ []
  | lineReset i mergeCut =>
    cases he
    exact endsKept_ite ⟨keepsBooks_of_part rfl, id⟩ (takeLineReset_endsKept s i mergeCut)
  | startUpImageComplete reset =>
    cases he
    refine endsKept_ite ((imageDone_endsKept s).trans (State.endsKept.trans
      (t := s.imageDone.takeWaitingReset s.arbiter.resetWaiting reset) ?_ ?_)) (endsKept_refl s)
    · unfold State.takeWaitingReset
      split
      · exact endsKept_ite (takeLineReset_endsKept _ _ _) (endsKept_refl _)
      · exact endsKept_refl _
    · unfold State.takeHeldCycle
      split
      · exact State.endsKept.trans (t := { State.takeWaitingReset _ _ _ with hostPort := none })
          ⟨keepsBooks_of_part rfl, id⟩ (hostCycle_endsKept _ _)
      · exact endsKept_refl _
  | _ => cases row

/-! ## The rows -/

theorem grantRow_endsKept {c : Instr} {s t : State} (row : grantRow c = true) (he : exec c s = .next t) :
    s.endsKept t := by
  have granted {p : Prop} [Decidable p] {u : State} (k : s.endsKept u) : s.endsKept (if p then u else s) :=
    endsKept_ite k (endsKept_refl s)
  cases c with
  | fetchRead => cases he; exact granted (serveFetch_endsKept s)
  | verifyWord => cases he; exact granted (serveMem_endsKept s _)
  | clearWord => cases he; exact granted (serveMem_endsKept s _)
  | scrub => cases he; exact granted (serveMem_endsKept s _)
  | stackRecordWord => cases he; exact granted (serveRecord_endsKept s _)
  | stackPublicationComplete => cases he; exact granted (serveRecord_endsKept s _)
  | eventRecordWord => cases he; exact granted (serveRecord_endsKept s _)
  | eventPublicationComplete => cases he; exact granted (serveRecord_endsKept s _)
  | statusPublication => cases he; exact granted (serveRecord_endsKept s _)
  | _ => cases row

/-- A row of the label and lane blocks is one block's act (01 to 07). -/
theorem blockRow_endsKept {c : Instr} {s t : State} (notHost : hostCycleRow c = false) (notGrant : grantRow c = false)
    (notReset : resetRow c = false) (he : exec c s = .next t) : s.endsKept t := by
  have acts {f : State → State} (k : s.keepsBooks (f s)) : s.endsKept (s.act f) := commitExcept_endsKept k s []
  have spliceFell : s.keepsBooks s.spliceFall := keepsBooks_of_part rfl
  have safeFell : s.keepsBooks s.safeFall := keepsBooks_of_part rfl
  cases c with
  | encoderTransition a b => cases he; exact acts (encoderTransition_keepsBooks s a b)
  | spliceStart => cases he; exact acts (spliceRise_keepsBooks s)
  | spliceFall => cases he; exact acts spliceFell
  | markEvent l => cases he; exact acts (markPulse_keepsBooks s l)
  | markWindowExpiry l => cases he; exact acts (takeExpiry_keepsBooks s l)
  | deadlineEvent l => cases he; exact acts (takeDeadline_keepsBooks s l)
  | cutEvent l => cases he; exact acts (takeCut_keepsBooks s l)
  | confirmLimitEvent l => cases he; exact acts (takeConfirmLimit_keepsBooks s l)
  | knifePulseEnd l => cases he; exact acts (setLane_keepsBooks s l _)
  | kdone l => cases he; exact acts (kdonePulse_keepsBooks s l)
  | gateEvent l => cases he; exact acts (takeGate_keepsBooks s l)
  | trayReady l => cases he; exact acts (trayReadyPulse_keepsBooks s l)
  | trayPulseEnd l => cases he; exact acts (setLane_keepsBooks s l _)
  | safeRise => cases he; exact acts (safeRise_keepsBooks s)
  | safeFall => cases he; exact acts safeFell
  | fetchStart l => cases he; exact acts (startFetch_keepsBooks s l)
  | powerOn _ => cases notReset
  | startUpImageComplete _ => cases notReset
  | lineReset _ _ => cases notReset
  | verifyWord => cases notGrant
  | clearWord => cases notGrant
  | scrub => cases notGrant
  | fetchRead => cases notGrant
  | stackRecordWord => cases notGrant
  | stackPublicationComplete => cases notGrant
  | eventRecordWord => cases notGrant
  | eventPublicationComplete => cases notGrant
  | statusPublication => cases notGrant
  | _ => cases notHost

theorem exec_endsKept {c : Instr} {s t : State} (he : exec c s = .next t) : s.endsKept t := by
  cases host : hostCycleRow c with
  | true =>
    obtain ⟨cycle, taken⟩ := hostCycleRow_exec c s host
    cases taken.symm.trans he
    exact hostCycle_endsKept s cycle
  | false =>
    cases grant : grantRow c with
    | true => exact grantRow_endsKept grant he
    | false =>
      cases reset : resetRow c with
      | true => exact resetRow_endsKept reset he
      | false => exact blockRow_endsKept host grant reset he

theorem step_endsKept {s t : State} (he : step s = .next t) : s.endsKept t := by
  unfold step at he
  split at he
  · cases he; exact endsKept_refl s
  · next c rest _ =>
    have popped : s.endsKept { s with pending := rest } := ⟨keepsBooks_of_part rfl, id⟩
    exact popped.trans (exec_endsKept he)

theorem step_settled {s t : State} (h : s.requestsSettled) (he : step s = .next t) : t.requestsSettled := by
  unfold step at he
  split at he
  · cases he; exact h
  · next c rest _ =>
    have popped : State.requestsSettled { s with pending := rest } :=
      requestsSettled_congr h rfl rfl (fun r => by cases r <;> rfl) rfl
    exact exec_settled c _ t popped he

end Sys2Proof.Machine

namespace Sys2Proof.Proofs
open Sys2Proof.Machine

/-- Settles O57: every change of what the invariants read keeps each of them by itself (`BookPart.kept`), and the end of
every step frees the port and settles the requests. -/
theorem stepKeepsTheBookkeeping : Obligations.StepKeepsTheBookkeeping := by
  unfold Obligations.StepKeepsTheBookkeeping
  intro s t taken
  obtain ⟨kept, rest⟩ := step_endsKept taken
  exact ⟨kept.memory, rest, fun h => (bounded_iff t).mpr (kept.bounded ((bounded_iff s).mp h)), kept.publication,
    kept.early, fun h => step_settled h taken, kept.walk⟩

end Sys2Proof.Proofs
end

section
/-! Host cycles by the outcome of their location and the class of their address (08 sections 8.3 to 8.5): reads, full-word
writes, refused writes and merges. -/

namespace Sys2Proof.Machine

/-! ## What a read finds (09 R145 to R148) -/

theorem readOutcome_unclassified {s : State} {a : Nat} (h : s.settings.checkMode = .off ∨ s.addressClass a = .exempt) :
    s.readOutcome a = .clean := by
  have unclassified : s.unclassified a = true := by
    rcases h with h | h <;> simp [State.unclassified, h]
  rw [State.readOutcome, if_pos unclassified]

theorem readOutcome_classified {s : State} {a : Nat} {o : ReadOutcome} (on : s.settings.checkMode ≠ .off)
    (covered : s.addressClass a ≠ .exempt)
    (h : (classify (s.location a)).under s.settings.blankTolerance = o) : s.readOutcome a = o := by
  have classified : ¬ s.unclassified a = true := by simp [State.unclassified, on, covered]
  rw [State.readOutcome, if_neg classified, h]

/-- The data handed on with an outcome. -/
theorem readData_of {s : State} {a : Nat} {o : ReadOutcome} (h : s.readOutcome a = o) :
    s.readData a = match (generalizing := false) o with
      | .corrected b => flipData (s.location a).data b
      | .blank => 0
      | .clean => (s.location a).data
      | .uncorrectable _ => (s.location a).data := by
  subst h; rfl

/-- A BLANK as a consumer takes it (09 R148). -/
theorem under_blank {x : Location} {tolerant : Bool} (h : classify x = .blank) :
    (classify x).under tolerant = if tolerant then .blank else .uncorrectable .blank := by rw [h]; rfl

/-! ## Reads (08 R133, R134) -/

theorem hostRead_of {s : State} {a : Nat} {o : ReadOutcome} {d : Word} (outcome : s.readOutcome a = o)
    (data : s.readData a = d) : s.hostRead a = (s.reportHostRead a o).endHost o.endsOk (some d) := by
  rw [State.hostRead, outcome, data]

/-- What a host read does beside returning data is a report alone. -/
theorem hostRead_reports (s : State) (a : Nat) : s.reportOnly (s.reportHostRead a (s.readOutcome a)) := by
  cases s.readOutcome a with
  | clean => exact reportOnly_refl s
  | blank => exact reportOnly_refl s
  | corrected b => exact reportOnly_trans (detectCorrectable_reportOnly s _ a b) (offerScrub_reportOnly _ a)
  | uncorrectable d => exact consumeUncorrectable_reportOnly s _ a d

theorem hostRead_sameMemory {s : State} (a : Address) (next : s.hostNext) : s.sameMemory (s.hostCycle (.read a)) := by
  obtain ⟨memory, power⟩ := reportOnly_memory (hostRead_reports s a.toNat)
  exact hostCycle_sameMemory next rfl memory power

/-! ## Full-word writes (08 R129, R131) -/

/-- A class of address that a full-word write stores to as it is (08 R129). -/
def State.storesAt (s : State) (a : Nat) : Prop :=
  s.addressClass a = .plain ∨ s.addressClass a = .exempt ∨
    ∃ l k, s.addressClass a = .orderSlot l k ∧ s.slotProtected l k = false

theorem hostWrite_stores {s : State} {a : Nat} (d : Word) (h : s.storesAt a) : s.hostWrite a d = (s.storeWord a d).endOk := by
  rcases h with h | h | ⟨l, k, h, free⟩
  · simp only [State.hostWrite, h]
  · simp only [State.hostWrite, h]
  · simp only [State.hostWrite, h, free]; rfl

/-- A host cycle that stores one location within job memory changes that location alone. -/
theorem hostCycle_storedOnly {s t : State} {a : Address} {x : Location} {ok : Bool}
    (eq : t = ((s.storeLocation a.toNat x).endHost ok none).bookkeptAs t) (wf : Memory.wf s.memory = true) :
    s.storedOnly t a.toNat x := by
  obtain ⟨stored, others⟩ := storeLocation_storedOnly s x (show a.toNat < Config.memoryWords from a.isLt) wf
  have reads : ∀ b, t.location b = (s.storeLocation a.toNat x).location b := fun b => by rw [eq]; rfl
  exact ⟨(reads _).trans stored, fun b other => (reads b).trans (others b other)⟩

/-- A full-word write of a word of the control page that is granted at once does what its word says. -/
theorem hostWrite_page_next {s : State} {a : Address} {off : Nat} {d : Word} {u : State} (next : s.hostNext)
    (page : off < 512) (at' : a.toNat = 4193792 + off) (eq : s.writeControl off d = u) :
    ∃ t, exec (.hostWrite a d) s = .next t ∧ t = u.bookkeptAs t :=
  ⟨_, rfl, hostCycle_eq next ((hostWork_page_address s d page at').trans eq)⟩

/-- A control word stored at its own address, ending OK. -/
theorem storeControl_at {s : State} {a : Address} {off : Nat} (d : Word) (at' : a.toNat = 4193792 + off) :
    s.storeControl off d = (s.storeWord a.toNat d).endHost true none := by rw [at']; rfl

/-! ## Refused writes (08 R130, R132) -/

theorem isPartial_of_ne {be : BitVec 4} (h : be ≠ 0xF) : isPartial be = true := by
  unfold isPartial; exact bne_iff_ne.mpr h

theorem hostWork_partial (s : State) (a : Address) (d : Word) {be : BitVec 4} (h : be ≠ 0xF) :
    s.hostWork (.partialWrite a d be) = s.hostPartialWrite a.toNat d be := if_pos (isPartial_of_ne h)

/-- A refused host write changes no memory, ends ERROR and raises PROTECTION with its event. -/
theorem refused_next {s : State} {c : HostCycle} {b : EventBody} (next : s.hostNext)
    (work : s.hostWork c = s.refuseProtected b) :
    s.sameMemory (s.hostCycle c) ∧
      s.hostCycle c = ((s.giveRaise .protection b).endHost false none).bookkeptAs (s.hostCycle c) := by
  obtain ⟨memory, power⟩ := reportOnly_memory (giveRaise_reportOnly s .protection b)
  exact ⟨hostCycle_sameMemory next work memory power, hostCycle_eq next work⟩

/-- A host cycle granted at once is its work under the HOST grant, and the end of the step (08 R138). -/
theorem hostCycle_granted {s : State} (next : s.hostNext) (c : HostCycle) :
    s.hostCycle c = State.commit s (s.grantHost.hostWork c) := by
  rw [State.hostCycle, if_pos next.1, beforeHost_of_none_owed s next.2, State.takeCycle]

/-- A write that is blocked, full-word or partial, is blocked the same way. -/
theorem blocked_next {s : State} {a : Address} {l : Option Lane} (d : Word) {be : BitVec 4} (next : s.hostNext)
    (part : be ≠ 0xF)
    (full : ∀ u : State, u.addressClass = s.addressClass → u.slotProtected = s.slotProtected →
      u.hostWrite a.toNat d = u.blockWrite l a.toNat ∧ u.hostPartialWrite a.toNat d be = u.blockWrite l a.toNat) :
    ∃ t, exec (.hostWrite a d) s = .next t ∧ exec (.hostPartialWrite a d be) s = .next t ∧ s.sameMemory t ∧
      t = ((s.giveRaise .protection { code := .protectionBlock, lane := l, address := some a.toNat }).endHost
        false none).bookkeptAs t := by
  obtain ⟨write, merge⟩ := full s.grantHost rfl rfl
  obtain ⟨same, eq⟩ := refused_next (c := .write a d) next (full s rfl rfl).1
  have alike : s.grantHost.hostWork (.partialWrite a d be) = s.grantHost.hostWork (.write a d) :=
    (hostWork_partial _ a d part).trans (merge.trans write.symm)
  have ends : s.hostCycle (.partialWrite a d be) = s.hostCycle (.write a d) := by
    rw [hostCycle_granted next, hostCycle_granted next, alike]
  exact ⟨_, rfl, congrArg _ ends, same, eq⟩

/-! ## Merges (08 R135 to R137) -/

/-- A merge runs under the lock flag, which the end of its step clears: it does what it would do without (08 R140). -/
theorem merge_next {s : State} {c : HostCycle} {f : State → State} (next : s.hostNext)
    (work : s.hostWork c = f s.lockPort) (commutes : ∀ u x, f (u.withArbiter x) = (f u).withArbiter x) :
    s.hostCycle c = (f s).bookkeptAs (s.hostCycle c) :=
  (hostCycle_eq next work).trans (bookkeptAs_of_commutes commutes s _ { s.arbiter with lock := true } rfl rfl rfl rfl)

/-- A class of address whose partial writes are checked merges (08 R130). -/
def State.mergesAt (s : State) (a : Nat) : Prop :=
  s.addressClass a = .plain ∨ ∃ l k, s.addressClass a = .orderSlot l k ∧ s.slotProtected l k = false

theorem hostPartialWrite_merges {s : State} {a : Nat} (d : Word) (be : BitVec 4) (h : s.mergesAt a) :
    s.hostPartialWrite a d be = s.checkedMerge a d be := by
  rcases h with h | ⟨l, k, h, free⟩
  · simp only [State.hostPartialWrite, h]
  · simp only [State.hostPartialWrite, h, free]; rfl

theorem not_exempt_of_merges {s : State} {a : Nat} (h : s.mergesAt a) : s.addressClass a ≠ .exempt := by
  rcases h with h | ⟨l, k, h, -⟩ <;> rw [h] <;> nofun

/-- A checked merge by its read's outcome, with the merged word. -/
theorem checkedMerge_of {s : State} {a : Nat} {d w : Word} {be : BitVec 4} {o : ReadOutcome}
    (outcome : s.readOutcome a = o) (merged : mergeBytes (s.readData a) d be = w) :
    s.checkedMerge a d be = match (generalizing := false) o with
      | .clean => (s.lockPort.storeWord a w).endOk
      | .blank => (s.lockPort.storeWord a w).endOk
      | .corrected b => ((s.lockPort.storeWord a w).detectCorrectable .hostWrite a b).endOk
      | .uncorrectable x =>
        ((s.lockPort.storeLocation a (poisonedLocation w)).consumeUncorrectable .hostWrite a x).endError := by
  subst outcome merged; rfl

end Sys2Proof.Machine

namespace Sys2Proof.Proofs
open Sys2Proof.Machine

/-- Settles O32: the read's outcome is the classification under the check mode and the blank tolerance, and each outcome
hands on its data with its report. -/
theorem hostReadByOutcome : Obligations.HostReadByOutcome := by
  unfold Obligations.HostReadByOutcome
  intro a s next
  have read {o : ReadOutcome} (outcome : s.readOutcome a.toNat = o) :=
    hostCycle_eq (c := .read a) next (hostRead_of outcome (readData_of outcome))
  refine ⟨_, rfl, hostRead_sameMemory a next, fun unclassified => read (readOutcome_unclassified unclassified),
    fun on covered => ?_⟩
  have classified {o : ReadOutcome} := readOutcome_classified (o := o) on covered
  refine ⟨fun clean => read (o := .clean) (classified ?_), fun b corrected => read (o := .corrected b) (classified ?_),
    fun blank tolerant => read (o := .blank) (classified ?_), fun blank strict => read (o := .uncorrectable .blank) (classified ?_),
    fun x bad => read (o := .uncorrectable x) (classified ?_)⟩
  · rw [clean]; rfl
  · rw [corrected]; rfl
  · rw [under_blank blank, tolerant]; rfl
  · rw [under_blank blank, strict]; rfl
  · rw [bad]; rfl

/-- Settles O33: the class of the address stores the word as it is; in the control page the word's own rule says what is
stored. -/
theorem fullWordWriteIsStored : Obligations.FullWordWriteIsStored := by
  unfold Obligations.FullWordWriteIsStored
  intro a d s next
  refine ⟨fun stores => ?_, fun off page at' => ?_⟩
  · have eq := hostCycle_eq (c := .write a d) next (hostWrite_stores d stores)
    exact ⟨_, rfl, eq, hostCycle_storedOnly eq⟩
  · refine ⟨fun reserved => ?_, fun start => ?_, fun count => ?_, fun fill => ?_⟩
    · exact hostWrite_page_next next page at' (by simp only [State.writeControl, reserved]; exact storeControl_at 0 at')
    · exact hostWrite_page_next next page at' (by subst start; exact storeControl_at d at')
    · exact hostWrite_page_next next page at' (by subst count; exact storeControl_at d at')
    · exact hostWrite_page_next next page at' (by subst fill; exact storeControl_at d at')

/-- Settles O34: by the class of the address, and in the control page by the kind of its word. -/
theorem protectedWritesAreRefused : Obligations.ProtectedWritesAreRefused := by
  unfold Obligations.ProtectedWritesAreRefused
  intro a d be s next part
  refine ⟨fun l k slot kept => blocked_next d next part fun u cls prot => ?_,
    fun ring => blocked_next d next part fun u cls _ => ?_, fun off page at' owned => ?_, fun refused => ?_⟩
  · simp only [State.hostWrite, State.hostPartialWrite, cls, slot, prot, kept]
    exact ⟨rfl, rfl⟩
  · rcases ring with ring | ring <;> simp only [State.hostWrite, State.hostPartialWrite, cls, ring] <;>
      exact ⟨trivial, trivial⟩
  · have work : s.hostWork (.write a d) =
        s.refuseProtected { code := .protectionBlock, address := some a.toNat } := by
      rw [hostWork_page_address s d page at', State.writeControl, controlWord_partOwned off page owned, at']; rfl
    exact ⟨_, rfl, refused_next next work⟩
  · have work : s.hostWork (.partialWrite a d be) = s.refusePartial a.toNat be := by
      rw [hostWork_partial s a d part]
      rcases refused with refused | refused <;> simp only [State.hostPartialWrite, refused]
    exact ⟨_, rfl, refused_next next work⟩

/-- Settles O35: the merge takes what its read handed on, byte lane by byte lane, under the lock that its end clears. -/
theorem partialWriteMerges : Obligations.PartialWriteMerges := by
  unfold Obligations.PartialWriteMerges
  intro a d base w be s next part bytes
  have merged : mergeBytes base d be = w := mergeBytes_eq d base w be bytes
  refine ⟨fun merges => ?_, fun exempt raw => ?_⟩
  · have covered := not_exempt_of_merges merges
    have merge {o : ReadOutcome} (outcome : s.readOutcome a.toNat = o) (data : base = s.readData a.toNat) :=
      (hostWork_partial s a d part).trans ((hostPartialWrite_merges d be merges).trans
        (checkedMerge_of outcome (data ▸ merged)))
    refine ⟨fun clean data => ?_, fun b on corrected data => ?_, fun on blank tolerant data => ?_,
      fun x on bad data => ?_⟩
    · have outcome : s.readOutcome a.toNat = .clean := by
        by_cases on : s.settings.checkMode = .off
        · exact readOutcome_unclassified (.inl on)
        · exact readOutcome_classified on covered (by rw [clean.resolve_left on]; rfl)
      exact ⟨_, rfl, merge_next (f := fun u => (u.storeWord a.toNat w).endOk) next
        (merge outcome (data.trans (readData_of outcome).symm)) (by simp)⟩
    · have outcome : s.readOutcome a.toNat = .corrected b := readOutcome_classified on covered (by rw [corrected]; rfl)
      exact ⟨_, rfl, merge_next (f := fun u => ((u.storeWord a.toNat w).detectCorrectable .hostWrite a.toNat b).endOk)
        next (merge outcome (data.trans (readData_of outcome).symm)) (by simp)⟩
    · have outcome : s.readOutcome a.toNat = .blank :=
        readOutcome_classified on covered (by rw [under_blank blank, tolerant]; rfl)
      exact ⟨_, rfl, merge_next (f := fun u => (u.storeWord a.toNat w).endOk) next
        (merge outcome (data.trans (readData_of outcome).symm)) (by simp)⟩
    · have outcome : s.readOutcome a.toNat = .uncorrectable x := readOutcome_classified on covered (by
        rcases bad with bad | ⟨blank, strict, rfl⟩
        · rw [bad]; rfl
        · rw [under_blank blank, strict]; rfl)
      exact ⟨_, rfl, merge_next (f := fun u =>
          ((u.storeLocation a.toNat (poisonedLocation w)).consumeUncorrectable .hostWrite a.toNat x).endError)
        next (merge outcome (data.trans (readData_of outcome).symm)) (by simp)⟩
  · have work : s.hostWork (.partialWrite a d be) =
        (s.lockPort.storeLocation a.toNat ⟨w, (s.location a.toNat).check⟩).endOk := by
      rw [hostWork_partial s a d part, State.hostPartialWrite, exempt, ← merged, raw]; rfl
    have eq := merge_next (f := fun u => (u.storeLocation a.toNat ⟨w, (s.location a.toNat).check⟩).endOk) next work
      (by simp)
    exact ⟨_, rfl, eq, hostCycle_storedOnly eq⟩

end Sys2Proof.Proofs
end

section
/-! The pass-through path around a host cycle (08 sections 8.6 and 8.7): the internal grants owed before it, the image
write that holds it, and a line reset. -/

namespace Sys2Proof.Machine

/-! ## The grants owed before HOST (08 R138) -/

theorem beforeHost_hostNext {s : State} (ready : s.portReady = true) : s.beforeHost.hostNext := by
  have three : s.countsFull ≤ 3 := by unfold State.countsFull; split_ifs <;> omega
  exact serveOwed_hostNext 3 s three ready

/-- A requester owed a grant is in turn at a free port. -/
theorem inTurn_of_owed {s : State} {r : Internal} (ready : s.portReady = true) (owed : s.owed = some r) :
    s.inTurn r = true := by
  simp [State.inTurn, State.internalChoice, ready, owed]

/-- A host cycle runs on the state that the grants owed before it leave. -/
theorem hostCycle_beforeHost {s : State} (ready : s.portReady = true) (c : HostCycle) :
    s.hostCycle c = s.beforeHost.hostCycle c := by
  obtain ⟨free, served⟩ := beforeHost_hostNext ready
  simp only [State.hostCycle, if_pos ready, if_pos free, beforeHost_of_none_owed _ served]

theorem hostCycle_held {s : State} (busy : s.portReady = false) (empty : s.hostPort = none) (c : HostCycle) :
    s.hostCycle c = { s with hostPort := some c } := by
  simp [State.hostCycle, busy, empty]

/-! ## A line reset (08 R142) -/

/-- A line reset leaves every lane as after power-on, but for BYPASSED and its put copy. -/
theorem lineReset_lanes (s : State) (i : InputLines) (l : Lane) : (s.lineReset i).lane l = { LaneState.initial with
    service := (if (s.lane l).service = .bypassed then .bypassed else .off)
    put := (s.lane l).put, fetch := (s.lane l).put, release := (s.lane l).put } := by
  rw [lineReset_lane]; rfl

/-- A line reset leaves no request but that of the publication set, whose words are all placed: the end of its step
changes nothing more. -/
theorem commit_lineReset (s : State) (i : InputLines) : State.commit (s.lineReset i) (s.lineReset i) = s.lineReset i := by
  have unchanged : changedWords (s.lineReset i) (s.lineReset i) [] = [] := by simp [changedWords]
  have published : State.publishExcept (s.lineReset i) (s.lineReset i) [] = s.lineReset i := by
    rw [State.publishExcept, unchanged, List.filter_nil, List.append_nil]; rfl
  rw [State.commit, State.commitExcept, published]
  show State.settleRequests (s.lineReset i) = s.lineReset i
  unfold State.settleRequests
  have idle : (s.lineReset i).nextMem = none := rfl
  rw [idle]
  simp only [show (s.lineReset i).arbiter = Arbiter.initial from rfl, Arbiter.initial, ite_self]
  rfl

/-! ## The cycle held at the port (08 R143): a line reset and the end of the image write do not read it -/

/-- The cycle held at the port replaced. -/
def State.withPort (s : State) (h : Option HostCycle) : State := { s with hostPort := h }

theorem withPort_ite (c : Prop) [Decidable c] (p q : State) (h : Option HostCycle) :
    (if c then p else q).withPort h = if c then p.withPort h else q.withPort h := by
  split <;> rfl

@[simp] theorem withPort_hostPort (s : State) (h : Option HostCycle) : (s.withPort h).hostPort = h := rfl
@[simp] theorem withPort_withPort (s : State) (h k : Option HostCycle) : (s.withPort h).withPort k = s.withPort k := rfl
@[simp] theorem withPort_lane (s : State) (h : Option HostCycle) (l : Lane) : (s.withPort h).lane l = s.lane l := rfl
@[simp] theorem withPort_setLane (s : State) (h : Option HostCycle) (l : Lane) (x : LaneState) :
    (s.withPort h).setLane l x = (s.setLane l x).withPort h := rfl
@[simp] theorem withPort_raiseClass (s : State) (h : Option HostCycle) (c : SummaryClass) (l : Option Lane)
    (n : Option Serial) (a : Option Nat) :
    (s.withPort h).raiseClass c l n a = (s.raiseClass c l n a).withPort h := rfl

@[simp] theorem withPort_give (s : State) (h : Option HostCycle) (b : EventBody) :
    (s.withPort h).give b = (s.give b).withPort h := by
  simp only [State.give, State.giveAt, withPort_ite]; rfl

@[simp] theorem withPort_placeRecord (s : State) (h : Option HostCycle) (r : StackRecord) :
    (s.withPort h).placeRecord r = (s.placeRecord r).withPort h := by
  have parked := congrArg (State.raiseClass · .stackBacklog (some r.lane) none none)
    (withPort_give (s.setLane r.lane { s.lane r.lane with parked := some r }) h
      { code := .stackParked, lane := some r.lane, value := some (r.sequence.setWidth 32) })
  simp only [State.placeRecord, withPort_ite]
  exact congrArg _ parked

@[simp] theorem withPort_closeWith (s : State) (h : Option HostCycle) (r : StackRecord) :
    (s.withPort h).closeWith r = (s.closeWith r).withPort h := by
  simp [State.closeWith]

@[simp] theorem withPort_closeStack (s : State) (h : Option HostCycle) (l : Lane) (w : CloseReason) :
    (s.withPort h).closeStack l w = (s.closeStack l w).withPort h := by
  unfold State.closeStack
  rw [withPort_lane]
  split
  · simp
  · rw [withPort_ite]; simp

@[simp] theorem withPort_rewind (s : State) (h : Option HostCycle) (l : Lane) :
    (s.withPort h).rewind l = (s.rewind l).withPort h := by
  simp [State.rewind, withPort_ite]

@[simp] theorem withPort_discardEarly (s : State) (h : Option HostCycle) (l : Lane) :
    (s.withPort h).discardEarly l = (s.discardEarly l).withPort h := by
  simp only [State.discardEarly, withPort_ite]
  exact congrArg _ (withPort_give { s with early := s.early.filter (fun e => e.lane != l) } h _)

@[simp] theorem withPort_abandonQueue (s : State) (h : Option HostCycle) (l : Lane) :
    (s.withPort h).abandonQueue l = (s.abandonQueue l).withPort h := by
  simp [State.abandonQueue, withPort_ite]

@[simp] theorem withPort_haltLane (s : State) (h : Option HostCycle) (l : Lane) :
    (s.withPort h).haltLane l = (s.haltLane l).withPort h := by
  simp [State.haltLane, withPort_ite]

@[simp] theorem withPort_haltLanes (s : State) (h : Option HostCycle) :
    (s.withPort h).forLanes State.haltLane = (s.forLanes State.haltLane).withPort h := by
  simp [State.forLanes, Lane.inOrder]

@[simp] theorem withPort_raiseHalt (s : State) (h : Option HostCycle) (c : HaltCause) :
    (s.withPort h).raiseHalt c = (s.raiseHalt c).withPort h := by
  cases c <;> rfl

@[simp] theorem withPort_enterHalted (s : State) (h : Option HostCycle) (c : HaltCause) :
    (s.withPort h).enterHalted c = (s.enterHalted c).withPort h := by
  have stopped : ({ s.withPort h with engine := { s.engine with state := .halted, cause := some c } } : State) =
      State.withPort { s with engine := { s.engine with state := .halted, cause := some c } } h := rfl
  simp only [State.enterHalted, show (s.withPort h).engine = s.engine from rfl, stopped, withPort_give,
    withPort_raiseHalt, withPort_haltLanes]

theorem withPort_safeRise (s : State) (h : Option HostCycle) : (s.withPort h).safeRise = s.safeRise.withPort h := by
  have entered := withPort_enterHalted { s with engine := { s.engine with safe := true } } h .safety
  simp only [State.safeRise, State.takeHalt, withPort_ite]
  rw [← entered]; rfl

theorem withPort_sampleSafe (s : State) (h : Option HostCycle) (i : InputLines) :
    (s.withPort h).sampleSafe i = (s.sampleSafe i).withPort h := by
  simp only [State.sampleSafe, withPort_ite, withPort_safeRise]

theorem withPort_takeLineReset (s : State) (h : Option HostCycle) (i : InputLines) :
    (s.withPort h).takeLineReset i false = (s.takeLineReset i false).withPort h := by
  have sampled := withPort_sampleSafe (s.lineReset i) h i
  show State.commit ((s.lineReset i).withPort h) (((s.lineReset i).withPort h).sampleSafe i) = _
  rw [sampled]; rfl

theorem withPort_imageDone (s : State) (h : Option HostCycle) : (s.withPort h).imageDone = s.imageDone.withPort h := by
  have spliced (u : State) : (u.withPort h).publishSplice = u.publishSplice.withPort h := by
    simp only [State.publishSplice, withPort_ite]; rfl
  have written := congrArg State.settleRequests
    (spliced { s with arbiter := { s.arbiter with imageWriting := false, resetWaiting := false } })
  exact written.trans rfl

/-! ## What a line reset does, and what the end of the image write does -/

/-- With SAFE low the end of a line reset adds nothing but the error of a merge it cuts. -/
theorem takeLineReset_low {i : InputLines} (low : i.safe = false) (s : State) (cut : Bool) :
    s.takeLineReset i cut = if cut then (s.lineReset i).endError else s.lineReset i := by
  have sampled : (s.lineReset i).sampleSafe i = s.lineReset i := by rw [State.sampleSafe, low]; rfl
  simp only [State.takeLineReset, sampled, commit_lineReset]

/-- With SAFE high the line reset halts the engine at once (07 R117). -/
theorem takeLineReset_high {i : InputLines} (high : i.safe = true) (s : State) (cut : Bool) :
    let t := s.takeLineReset i cut
    t.engine.state = .halted ∧ t.engine.cause = some .safety ∧ t.stopReq = true ∧ s.sameMemory t := by
  have sampled : (s.lineReset i).sampleSafe i = (s.lineReset i).safeRise := by rw [State.sampleSafe, high]; rfl
  have ended : s.takeLineReset i cut =
      if cut then ((s.lineReset i).act State.safeRise).endError else (s.lineReset i).act State.safeRise := by
    rw [State.takeLineReset, sampled]; rfl
  have cleared : s.sameMemory (s.lineReset i) := sameMemory_of_eq rfl rfl
  have going : (s.lineReset i).engine.state ≠ .halted := nofun
  have low : (s.lineReset i).engine.safe = false := rfl
  rw [ended]
  generalize s.lineReset i = v at *
  obtain ⟨⟨state, cause, stop, -⟩, -, memory, -⟩ :=
    act_halts ((safeRise_low low).trans (takeHalt_enters .safety going)) rfl rfl
  cases cut <;> exact ⟨state, cause, stop, fun a => (memory a).trans (cleared a)⟩

/-- What the end of the image write changes. -/
theorem imageDone_eq (s : State) : s.imageDone = { s with
    arbiter := { s.arbiter with
      imageWriting := false, resetWaiting := false, fetchBypass := s.imageDone.arbiter.fetchBypass,
      recordBypass := s.imageDone.arbiter.recordBypass, memcmdBypass := s.imageDone.arbiter.memcmdBypass,
      memRequest := s.imageDone.arbiter.memRequest }
    writer := { s.writer with publication := s.writer.publication ++
      (if s.web.splice && !s.writer.publication.contains 0x005 then [0x005] else []) } } := by
  by_cases h : (s.web.splice && !s.writer.publication.contains 0x005) = true
  · simp only [State.imageDone, State.publishSplice, if_pos h]; rfl
  · simp only [State.imageDone, State.publishSplice, if_neg h, List.append_nil]; rfl

theorem imageDone_hostPort (s : State) : s.imageDone.hostPort = s.hostPort := by rw [imageDone_eq]

theorem imageDone_imageWriting (s : State) : s.imageDone.arbiter.imageWriting = false := by rw [imageDone_eq]

/-- The held cycle runs on the state without it. -/
theorem takeHeldCycle_withPort (u : State) (h : Option HostCycle) (free : u.hostPort = none) :
    (u.withPort h).takeHeldCycle = match h with | some c => u.hostCycle c | none => u := by
  have own : u.withPort none = u := by rw [← free]; rfl
  cases h with
  | none => exact own
  | some c => exact congrArg (State.hostCycle · c) own

end Sys2Proof.Machine

namespace Sys2Proof.Proofs
open Sys2Proof.Machine

/-- Settles O30: one grant owed is taken at a time, at most three of them, and with none owed HOST is granted on the state
as it stands. -/
theorem hostCyclesFollowOwedGrants : Obligations.HostCyclesFollowOwedGrants := by
  unfold Obligations.HostCyclesFollowOwedGrants
  intro a d be s
  refine ⟨beforeHost_of_none_owed s, fun r ready known owed => ?_, fun ready => ?_, fun busy empty => ?_⟩
  · exact ⟨s.serve r, grantRow_exec s r (inTurn_of_owed ready owed) known, beforeHost_of_owed s r owed⟩
  · have follows (c : HostCycle) : (Host.Outcome.next (s.hostCycle c) : Host.Outcome State Fault Refusal) =
        .next (s.beforeHost.hostCycle c) := congrArg Host.Outcome.next (hostCycle_beforeHost ready c)
    exact ⟨beforeHost_hostNext ready, follows _, follows _, follows _⟩
  · have held (c : HostCycle) : (Host.Outcome.next (s.hostCycle c) : Host.Outcome State Fault Refusal) =
        .next { s with hostPort := some c } := congrArg Host.Outcome.next (hostCycle_held busy empty c)
    exact ⟨held _, held _, held _⟩

/-- Settles O6: `lineReset` is the reset of the statement and its end changes nothing more with SAFE low; with SAFE high
the halt of `enterHalted` follows. -/
theorem lineResetResetsAndKeeps : Obligations.LineResetResetsAndKeeps := by
  unfold Obligations.LineResetResetsAndKeeps
  intro i cut s
  have row : exec (.lineReset i cut) s = execLineReset i cut s := rfl
  refine ⟨fun writing => ?_, fun done high => ⟨s.takeLineReset i cut, ?_, ?_⟩,
    fun done low => ⟨s.takeLineReset i cut, ?_, ?_⟩⟩
  · rw [row, execLineReset, if_pos writing]
  · rw [row, execLineReset, if_neg (by simp [done])]
  · obtain ⟨halted, safety, stop, memory⟩ := takeLineReset_high high s cut
    exact ⟨halted, safety, stop, memory⟩
  · rw [row, execLineReset, if_neg (by simp [done])]
  · rw [takeLineReset_low low]
    cases cut with
    | false => exact ⟨sameMemory_of_eq rfl rfl, lineReset_lanes s i, by cases i; cases low; rfl⟩
    | true => exact ⟨sameMemory_of_eq rfl rfl, lineReset_lanes s i, by cases i; cases low; rfl⟩

/-- Settles O5: neither the end of the image write nor a line reset reads the cycle held at the port
(`withPort_imageDone`, `withPort_takeLineReset`), so the held cycle runs on what they leave. -/
theorem imageCompleteFreesThePort : Obligations.ImageCompleteFreesThePort := by
  unfold Obligations.ImageCompleteFreesThePort
  intro s held
  have row (r : Option InputLines) (v : State) : exec (.startUpImageComplete r) v = execStartUpImageComplete r v := rfl
  refine ⟨fun r done => ?_, fun writing => ⟨fun free => ?_, fun u freed => ?_⟩⟩
  · rw [row, execStartUpImageComplete, if_neg (by simp [done])]
  · refine ⟨s.imageDone, ?_, imageDone_eq s⟩
    have ended : s.imageDone.takeHeldCycle = s.imageDone := by
      rw [State.takeHeldCycle, imageDone_hostPort, free]
    rw [row, execStartUpImageComplete, if_pos writing]
    exact congrArg Host.Outcome.next ended
  · have alone : u = (s.withPort none).imageDone := by
      rw [row, execStartUpImageComplete, if_pos writing] at freed
      have ended : (s.withPort none).imageDone.takeHeldCycle = (s.withPort none).imageDone := by
        rw [State.takeHeldCycle, imageDone_hostPort]; rfl
      exact (Host.Outcome.next.inj freed).symm.trans ended
    have freeU : u.hostPort = none := by rw [alone, imageDone_hostPort]; rfl
    have done : s.imageDone = u.withPort s.hostPort := by
      rw [alone, ← withPort_imageDone]; rfl
    have runs (v : State) (freeV : v.hostPort = none) :
        .next (v.withPort s.hostPort).takeHeldCycle = held s.hostPort v := by
      rw [takeHeldCycle_withPort v _ freeV]
      cases s.hostPort with
      | none => rfl
      | some c => cases c <;> rfl
    refine ⟨?_, fun i quiet => ?_, fun i v waits reset => ?_⟩
    · rw [row, execStartUpImageComplete, if_pos writing, ← runs u freeU, ← done]; rfl
    · rw [row, execStartUpImageComplete, if_pos writing, ← runs u freeU, ← done, quiet]; rfl
    · have resets : v = u.takeLineReset i false := by
        have closed : u.arbiter.imageWriting = false := by rw [alone]; exact imageDone_imageWriting _
        have row : exec (.lineReset i false) u = execLineReset i false u := rfl
        rw [row, execLineReset, if_neg (by simp [closed])] at reset
        exact (Host.Outcome.next.inj reset).symm
      have freeV : v.hostPort = none := by
        have own : u.withPort none = u := by rw [← freeU]; rfl
        rw [resets, ← own, withPort_takeLineReset]; rfl
      rw [row, execStartUpImageComplete, if_pos writing, ← runs v freeV, resets, ← withPort_takeLineReset, ← done, waits]
      rfl

end Sys2Proof.Proofs
end

section
/-! The arbiter's choice and its counts (08 sections 8.6 and 8.7): who is requesting and who is next in a state, and what
the end of a host cycle, of a grant and of a block's step leave of the counts and of the presented memory request. -/

namespace Sys2Proof.Machine

/-! ## Who requests, and who is next -/

theorem requesting_fetch (s : State) : s.requesting .fetch = true ↔ ∃ l, (s.lane l).fetchPending = true :=
  anyLane_iff fun l => (s.lane l).fetchPending

theorem owed_iff (s : State) (r : Internal) : s.owed = some r ↔
    firstIn s.arbiter.lastServed.rotationAfter (fun q => s.requesting q = true ∧ 4 ≤ s.arbiter.bypass q) r := by
  rw [State.owed, find_firstIn]
  exact firstIn_congr _ _ _ r fun q => by rw [Bool.and_eq_true, decide_eq_true_eq]; rfl

theorem inTurn_iff (s : State) (r : Internal) : s.inTurn r = true ↔ s.portReady = true ∧ (s.owed = some r ∨
    s.owed = none ∧ firstIn s.arbiter.lastServed.rotationAfter (fun q => s.requesting q = true) r) := by
  rw [State.inTurn, Bool.and_eq_true, beq_iff_eq, State.internalChoice, Option.or_eq_some_iff, find_firstIn]

theorem portReady_iff (s : State) : s.portReady = true ↔
    s.arbiter.grant = none ∧ s.arbiter.lock = false ∧ s.arbiter.imageWriting = false := by
  simp [State.portReady, and_assoc]

/-! ## What the end of a step keeps of the arbiter -/

/-- What every step that grants no internal requester keeps of the arbiter, given the counts before its end: the requester
and the lane served last, a memory request presented while its work waits, the count of a requester with a request. -/
structure State.arbitrates (s t : State) (counts : Internal → Nat) : Prop where
  lastServed : t.arbiter.lastServed = s.arbiter.lastServed
  lastLane : t.arbiter.lastLane = s.arbiter.lastLane
  memRequest : ∀ k, s.arbiter.memRequest = some k → t.memWaiting k = true → t.arbiter.memRequest = some k
  bypass : ∀ r, t.arbiter.bypass r = if t.requesting r = true then counts r else 0

theorem commitExcept_memRequest {p q : State} {os : List Nat} {k : MemKind} (presented : q.arbiter.memRequest = some k)
    (waits : (State.commitExcept p q os).memWaiting k = true) :
    (State.commitExcept p q os).arbiter.memRequest = some k := by
  obtain ⟨-, -, -, settled, -⟩ := commitExcept_arbiter p q os
  exact memRequest_kept q _ k settled (by cases k <;> rfl) presented waits

theorem commitExcept_arbitrates {s p q : State} {os : List Nat} {counts : Internal → Nat}
    (served : q.arbiter.lastServed = s.arbiter.lastServed) (lane : q.arbiter.lastLane = s.arbiter.lastLane)
    (request : q.arbiter.memRequest = s.arbiter.memRequest) (bypass : q.arbiter.bypass = counts) :
    s.arbitrates (State.commitExcept p q os) counts := by
  obtain ⟨settled, lastServed, lastLane, -, -⟩ := commitExcept_arbiter p q os
  exact ⟨lastServed.trans served, lastLane.trans lane,
    fun k presented => commitExcept_memRequest (request.trans presented), fun r => by rw [settled, bypass]⟩

/-- The counts after a HOST grant: those of the requesters with a request rise, to 4 at most (08 R138). -/
theorem grantHost_bypass (s : State) (r : Internal) : s.grantHost.arbiter.bypass r =
    if s.requesting r = true ∧ s.arbiter.bypass r < 4 then s.arbiter.bypass r + 1 else s.arbiter.bypass r := by
  have up : s.grantHost.arbiter.bypass r =
      if s.requesting r = true then raiseHolding 4 (s.arbiter.bypass r) else s.arbiter.bypass r := by cases r <;> rfl
  rw [up, raiseHolding, ite_and]

theorem hostCycle_arbitrates {s : State} (next : s.hostNext) (c : HostCycle) : s.arbitrates (s.hostCycle c)
    (fun r => if s.requesting r = true ∧ s.arbiter.bypass r < 4 then s.arbiter.bypass r + 1
      else s.arbiter.bypass r) := by
  obtain ⟨lock, kept⟩ := hostWork_arbiter s.grantHost c
  rw [hostCycle_granted next]
  refine commitExcept_arbitrates ?_ ?_ ?_ (funext fun r => (?_ : _ = s.grantHost.arbiter.bypass r).trans
    (grantHost_bypass s r)) <;> rw [kept]
  · rfl
  · rfl
  · rfl
  · cases r <;> rfl

theorem act_arbitrates {s : State} {f : State → State} (kept : s.booksKept (f s)) :
    s.arbitrates (s.act f) s.arbiter.bypass := by
  obtain ⟨-, arbiter⟩ := kept
  exact commitExcept_arbitrates (by rw [arbiter]) (by rw [arbiter]) (by rw [arbiter]) (by rw [arbiter])

/-! ## What the end of a grant leaves of the arbiter -/

/-- What a grant to `r` leaves: `r` is served last with a count of 0, and the other counts stay while there is a
request. -/
structure State.granted (s t : State) (r : Internal) : Prop where
  lastServed : t.arbiter.lastServed = r
  cleared : t.arbiter.bypass r = 0
  others : ∀ q, q ≠ r → t.arbiter.bypass q = if t.requesting q = true then s.arbiter.bypass q else 0

theorem grantInternal_bypass (s : State) (r q : Internal) :
    (s.grantInternal r).arbiter.bypass q = if q = r then 0 else s.arbiter.bypass q := by
  cases r <;> cases q <;> rfl

theorem grantInternal_lastLane (s : State) (r : Internal) : (s.grantInternal r).arbiter.lastLane = s.arbiter.lastLane := by
  cases r <;> rfl

theorem commitExcept_granted {s p q : State} {os : List Nat} {r : Internal} (served : q.arbiter.lastServed = r)
    (counts : q.arbiter.bypass = (s.grantInternal r).arbiter.bypass) :
    s.granted (State.commitExcept p q os) r := by
  obtain ⟨settled, lastServed, -, -, -⟩ := commitExcept_arbiter p q os
  refine ⟨lastServed.trans served, ?_, fun q other => ?_⟩
  · rw [settled, counts, grantInternal_bypass, if_pos rfl, ite_self]
  · rw [settled, counts, grantInternal_bypass, if_neg other]

/-- A FETCH grant serves the lane that is next. -/
theorem serveFetch_arbiter {s : State} (requests : s.requesting .fetch = true) :
    let t := s.serve .fetch
    s.granted t .fetch ∧ s.fetchLane = some t.arbiter.lastLane ∧
      ∀ k, s.arbiter.memRequest = some k → t.memWaiting k = true → t.arbiter.memRequest = some k := by
  obtain ⟨l, next⟩ : ∃ l, s.fetchLane = some l := by
    obtain ⟨l, pending⟩ := (requesting_fetch s).mp requests
    refine Option.isSome_iff_exists.mp (List.find?_isSome.mpr ⟨l, ?_, pending⟩)
    cases s.arbiter.lastLane <;> cases l <;> simp [Lane.rotationAfter]
  obtain ⟨reservation, reserved, -⟩ := (fetchPending_iff _).mp
    (List.find?_some (p := fun l => (s.lane l).fetchPending) next)
  have nextGranted : (s.grantInternal .fetch).fetchLane = some l := next
  have arbiter : (s.grantInternal .fetch).fetchWork.arbiter =
      { (s.grantInternal .fetch).arbiter with lastLane := l } := by
    rcases fetchWork_arbiter (s.grantInternal .fetch) with moved | ⟨-, k, chosen, unreserved⟩
    · rw [moved, nextGranted]; rfl
    · obtain rfl : l = k := Option.some.inj (nextGranted.symm.trans chosen)
      exact absurd (reserved.symm.trans unreserved) (Option.some_ne_none _)
  obtain ⟨-, -, lastLane, -, -⟩ := commitExcept_arbiter s (s.grantInternal .fetch).fetchWork []
  refine ⟨commitExcept_granted (by rw [arbiter]; rfl) (by rw [arbiter]; rfl), next.trans (congrArg some ?_),
    fun k presented => commitExcept_memRequest (by rw [arbiter]; exact presented)⟩
  exact (lastLane.trans (by rw [arbiter])).symm

/-- A RECORD grant serves the kind that is next. -/
theorem serveRecord_arbiter {s : State} (requests : s.requesting .record = true) :
    let t := s.serve .record
    s.granted t .record ∧ t.arbiter.lastLane = s.arbiter.lastLane ∧ s.nextRecord = some t.writer.lastKind ∧
      ∀ k, s.arbiter.memRequest = some k → t.memWaiting k = true → t.arbiter.memRequest = some k := by
  obtain ⟨kind, next⟩ := Option.isSome_iff_exists.mp requests
  have served : s.serve .record = s.serveRecord kind := by rw [State.serve, next]; rfl
  have arbiter := recordWork_arbiter (s.grantInternal .record) kind
  obtain ⟨-, -, lastLane, -, -⟩ := commitExcept_arbiter s ((s.grantInternal .record).recordWork kind) indexOffsets
  rw [served]
  refine ⟨commitExcept_granted (by rw [arbiter]; rfl) (by rw [arbiter]), lastLane.trans ?_,
    next.trans (congrArg some ?_), fun k presented => commitExcept_memRequest (by rw [arbiter]; exact presented)⟩
  · rw [arbiter]; exact grantInternal_lastLane s .record
  · exact (recordWork_lastKind (s.grantInternal .record) kind).symm

/-! ## The status word of a walk, last in the publication set -/

/-- A changed state or result of the memory command unit is to be published. -/
theorem commit_publishes_status {s q : State} (changed : s.mem.state ≠ q.mem.state ∨ s.mem.result ≠ q.mem.result) :
    0x024 ∈ (State.commit s q).writer.publication := by
  have differs := statusWord_differs s q changed
  show 0x024 ∈ q.writer.publication ++ (changedWords s q []).filter (fun o => !q.writer.publication.contains o)
  by_cases held : 0x024 ∈ q.writer.publication
  · exact List.mem_append_left _ held
  · refine List.mem_append_right _ (List.mem_filter.mpr ⟨List.mem_filter.mpr ⟨by decide, ?_⟩, by simpa using held⟩)
    simpa using differs

/-- The move of the status word to the tail makes and withdraws no request. -/
theorem statusLast_requesting (s q : State) (r : Internal) :
    (State.statusLast s (State.commit s q)).requesting r = (State.commit s q).requesting r := by
  unfold State.statusLast
  split
  next changed =>
    cases r with
    | fetch => rfl
    | memcmd => rfl
    | record =>
      have published := commit_publishes_status (s := s) (q := q) changed
      have before : (State.commit s q).requesting .record = true :=
        (nextRecord_isSome _).mpr ⟨.status, (recordWaiting_iff _ .status).mpr (List.ne_nil_of_mem published)⟩
      rw [before]
      exact (nextRecord_isSome _).mpr ⟨.status, (recordWaiting_iff _ .status).mpr (by simp [State.setPublication])⟩
  next => rfl

/-- A MEMCMD grant serves the kind that is next and presents the request after it. -/
theorem serveMem_arbiter {s : State} (requests : s.requesting .memcmd = true) :
    let t := s.serve .memcmd
    s.granted t .memcmd ∧ t.arbiter.lastLane = s.arbiter.lastLane ∧ s.nextMem = some t.mem.lastKind ∧
      ∀ k, t.arbiter.memRequest = some k ↔
        t.memWaiting k = true ∧ (t.mem.lastKind ≠ k ∨ ∀ j, t.memWaiting j = true → j = k) := by
  obtain ⟨kind, next⟩ := Option.isSome_iff_exists.mp requests
  have served : s.serve .memcmd = s.serveMem kind := by rw [State.serve, next]; rfl
  obtain ⟨lock, arbiter⟩ := memWork_arbiter (s.grantInternal .memcmd) kind
  have kept := memWork_lastKind (s.grantInternal .memcmd) kind
  have same := statusLast_requesting s ((s.grantInternal .memcmd).memWork kind)
  obtain ⟨publication, moved⟩ := statusLast_eq s (State.commit s ((s.grantInternal .memcmd).memWork kind))
  rw [served, State.serveMem]
  rw [moved] at same ⊢
  generalize (s.grantInternal .memcmd).memWork kind = q at *
  have request : q.arbiter.memRequest = none := by rw [arbiter]; rfl
  obtain ⟨lastServed, cleared, others⟩ : s.granted (State.commit s q) .memcmd :=
    commitExcept_granted (by rw [arbiter]; rfl) (by rw [arbiter]; rfl)
  obtain ⟨-, -, lastLane, settled, -⟩ := commitExcept_arbiter s q []
  refine ⟨⟨lastServed, cleared, fun r other => (same r).symm ▸ others r other⟩, lastLane.trans ?_,
    next.trans (congrArg some kept.symm), fun k => ?_⟩
  · rw [arbiter]; exact grantInternal_lastLane s .memcmd
  · have waits (j : MemKind) : (State.setPublication (State.commit s q) publication).memWaiting j = q.memWaiting j := by
      cases j <;> rfl
    have presents := nextMem_iff q k
    simp only [request, reduceCtorEq, false_or, IsEmpty.forall_iff, implies_true, true_and] at presents
    simp only [waits]
    exact (iff_of_eq (congrArg (· = some k) settled)).trans presents

end Sys2Proof.Machine

namespace Sys2Proof.Proofs
open Sys2Proof.Machine

/-- Settles O31: the choices are searches in rotation (`find_firstIn`), every step ends in `commitExcept`, whose arbiter
`commitExcept_arbiter` states, and the work of a host cycle or of a block leaves the counts to it. -/
theorem arbiterChoosesAndCounts : Obligations.ArbiterChoosesAndCounts := by
  unfold Obligations.ArbiterChoosesAndCounts
  intro after kindAfter laneAfter takes fetching recording working
  have rotates : after = Internal.rotationAfter := by funext r; cases r <;> rfl
  have rotatesKind : kindAfter = RecordKind.rotationAfter := by funext k; cases k <;> rfl
  have rotatesLane : laneAfter = Lane.rotationAfter := by funext l; cases l <;> rfl
  have fetches (s : State) (l : Lane) : (s.lane l).fetchPending = true ↔ fetching s l := fetchPending_iff _
  have records (s : State) (k : RecordKind) : s.recordWaiting k = true ↔ recording s k := by
    cases k <;> exact recordWaiting_iff s _
  have works (s : State) (k : MemKind) : s.memWaiting k = true ↔ working s k := by
    cases k <;> exact memWaiting_iff s _
  simp only [← works]
  rw [rotates, rotatesKind, rotatesLane]
  refine ⟨fun s => ⟨?_, ?_, requesting_memcmd s, fun l => ?_, fun k => ?_, nextMem_iff s, portReady_iff s, owed_iff s,
    inTurn_iff s⟩, fun c s t row next run => ?_, fun s r turn known => ?_, fun c s t notHost notGrant notReset run => ?_⟩
  · exact (requesting_fetch s).trans (exists_congr (fetches s))
  · exact (nextRecord_isSome s).trans (exists_congr (records s))
  · exact (find_firstIn _ _ l).trans (firstIn_congr _ _ _ l (fetches s))
  · exact (find_firstIn _ _ k).trans (firstIn_congr _ _ _ k (records s))
  · obtain ⟨x, ran⟩ := hostCycleRow_exec c s row
    obtain rfl := Host.Outcome.next.inj (ran.symm.trans run)
    obtain ⟨lastServed, lastLane, memRequest, bypass⟩ := hostCycle_arbitrates next x
    exact ⟨lastServed, lastLane, memRequest, bypass⟩
  · refine ⟨s.serve r, grantRow_exec s r turn known, ?_⟩
    have requests := inTurn_requests s r turn
    cases r with
    | fetch =>
      obtain ⟨⟨lastServed, cleared, others⟩, lane, kept⟩ := serveFetch_arbiter requests
      exact ⟨lastServed, cleared, fun _ => lane, nofun, nofun, nofun, fun _ => kept, others⟩
    | record =>
      obtain ⟨⟨lastServed, cleared, others⟩, lane, kind, kept⟩ := serveRecord_arbiter requests
      exact ⟨lastServed, cleared, nofun, fun _ => lane, fun _ => kind, nofun, fun _ => kept, others⟩
    | memcmd =>
      obtain ⟨⟨lastServed, cleared, others⟩, lane, kind, presented⟩ := serveMem_arbiter requests
      exact ⟨lastServed, cleared, nofun, fun _ => lane, nofun, fun _ => ⟨kind, presented⟩,
        fun other => absurd rfl other, others⟩
  · obtain ⟨f, ran, kept⟩ := blockRow_exec c s notHost notGrant notReset
    obtain rfl := Host.Outcome.next.inj (ran.symm.trans run)
    obtain ⟨lastServed, lastLane, memRequest, bypass⟩ := act_arbitrates kept
    exact ⟨lastServed, lastLane, memRequest, bypass⟩

end Sys2Proof.Proofs
end

section
/-! The check code (09 section 9.1): the check byte under a flipped data bit, the syndromes of one flipped bit, and the
classification of a location by its syndrome, with what it says of a stored word whose check byte is off by an error. -/

namespace Sys2Proof.Machine

/-! ## The check byte under a flipped bit (09 R144) -/

theorem flipData_getLsbD (d : Word) (i k : Nat) (hk : k < 32) :
    (flipData d i).getLsbD k = (d.getLsbD k ^^ decide (i = k)) := by
  rw [flipData, BitVec.getLsbD_xor, BitVec.getLsbD_ofNat, Nat.testBit_two_pow, decide_eq_true hk, Bool.true_and]

/-- Columns from above a flipped bit do not see it. -/
theorem columnsOfOnes_flip_below (d : Word) {i : Nat} :
    ∀ (cs : List Byte) (k : Nat), i < k → k + cs.length ≤ 32 →
      columnsOfOnes (flipData d i) k cs = columnsOfOnes d k cs := by
  intro cs
  induction cs with
  | nil => intros; rfl
  | cons c cs ih =>
    intro k below fits
    rw [List.length_cons] at fits
    rw [columnsOfOnes, columnsOfOnes, ih (k + 1) (by omega) (by omega), flipData_getLsbD d i k (by omega),
      decide_eq_false (by omega), Bool.xor_false]

/-- A flipped bit adds its own column. -/
theorem columnsOfOnes_flip (d : Word) {c : Byte} :
    ∀ (cs : List Byte) (k i : Nat), k + cs.length ≤ 32 → cs[i]? = some c →
      columnsOfOnes (flipData d (k + i)) k cs = columnsOfOnes d k cs ^^^ c := by
  intro cs
  induction cs with
  | nil => intro k i _ column; simp at column
  | cons b cs ih =>
    intro k i fits column
    rw [List.length_cons] at fits
    rw [columnsOfOnes, columnsOfOnes, flipData_getLsbD d _ k (by omega)]
    cases i with
    | zero =>
      obtain rfl : b = c := by simpa using column
      rw [columnsOfOnes_flip_below d cs (k + 1) (by omega) (by omega), decide_eq_true (by omega)]
      cases d.getLsbD k
      · simp [BitVec.xor_comm]
      · simp [BitVec.xor_comm b]
    | succ i =>
      have rest := ih (k + 1) i (by omega) (by simpa using column)
      rw [show k + (i + 1) = k + 1 + i by omega, rest, decide_eq_false (by omega), Bool.xor_false, BitVec.xor_assoc]

/-- The check byte of a word with one data bit flipped differs by the bit's column. -/
theorem checkByte_flipData (d : Word) {i : Nat} {c : Byte} (column : checkColumns[i]? = some c) :
    checkByte (flipData d i) = checkByte d ^^^ c := by
  have flipped := columnsOfOnes_flip d checkColumns 0 i (by decide) column
  rw [Nat.zero_add] at flipped
  rw [checkByte, flipped, ← BitVec.xor_assoc, ← checkByte]

/-! ## The syndromes of one flipped bit (09 R145) -/

/-- In a list without repetition a byte's place is the one position that holds it. -/
theorem placeOf_eq_some_iff {y : Byte} {b : Nat} :
    ∀ (cs : List Byte) (k : Nat), cs.Nodup → (placeOf y k cs = some b ↔ ∃ i, b = k + i ∧ cs[i]? = some y) := by
  intro cs
  induction cs with
  | nil => simp [placeOf]
  | cons c cs ih =>
    intro k distinct
    obtain ⟨fresh, distinct⟩ := List.nodup_cons.mp distinct
    rw [placeOf]
    split
    case isTrue found =>
      subst found
      constructor
      · intro here
        exact ⟨0, by simpa using here.symm, rfl⟩
      · rintro ⟨i, rfl, held⟩
        cases i with
        | zero => rfl
        | succ i => exact absurd (List.mem_of_getElem? (by simpa using held)) fresh
    case isFalse other =>
      rw [ih (k + 1) distinct]
      constructor
      · rintro ⟨i, rfl, held⟩
        exact ⟨i + 1, by omega, by simpa using held⟩
      · rintro ⟨i, rfl, held⟩
        cases i with
        | zero => exact absurd (by simpa using held) other
        | succ i => exact ⟨i, by omega, by simpa using held⟩

theorem singleBitSyndromes_nodup : singleBitSyndromes.Nodup := by decide

theorem flippedBit_eq_some_iff (y : Byte) (b : Nat) : flippedBit y = some b ↔ singleBitSyndromes[b]? = some y := by
  rw [flippedBit, placeOf_eq_some_iff _ 0 singleBitSyndromes_nodup]
  simp

/-- The last eight syndromes are those of the check byte's own bits. -/
theorem singleBitSyndromes_eq :
    singleBitSyndromes = checkColumns ++ (List.range 8).map (fun j => BitVec.ofNat 8 (2 ^ j)) := rfl

/-- A syndrome is one flipped bit where it is a data bit's column or has one bit set. -/
theorem flippedBit_iff (y : Byte) (b : Nat) : flippedBit y = some b ↔
    checkColumns[b]? = some y ∨ 32 ≤ b ∧ b < 40 ∧ y = BitVec.ofNat 8 (2 ^ (b - 32)) := by
  have length : checkColumns.length = 32 := rfl
  rw [flippedBit_eq_some_iff, singleBitSyndromes_eq]
  by_cases data : b < 32
  · rw [List.getElem?_append_left (by omega)]
    simp [Nat.not_le.mpr data]
  · rw [List.getElem?_append_right (by omega), List.getElem?_eq_none (l := checkColumns) (by omega), length]
    simp only [List.getElem?_map, Option.map_eq_some_iff, List.getElem?_eq_some_iff, List.length_range,
      List.getElem_range, reduceCtorEq, false_or]
    constructor
    · rintro ⟨j, ⟨hj, rfl⟩, rfl⟩
      exact ⟨by omega, by omega, rfl⟩
    · rintro ⟨_, _, rfl⟩
      exact ⟨b - 32, ⟨by omega, rfl⟩, rfl⟩

/-- A syndrome of one flipped bit is other than one of none. -/
theorem ne_of_flippedBit {y z : Byte} {b : Nat} (h : flippedBit y = some b) (noFlip : flippedBit z = none) : y ≠ z := by
  rintro rfl
  rw [noFlip] at h
  cases h

/-! ## The classification by the syndrome (09 R145) -/

section
variable {x : Location} (notZeros : ¬ (x.data = 0 ∧ x.check = 0))
  (notOnes : ¬ (x.data = BitVec.allOnes 32 ∧ x.check = 0xFF))
include notZeros notOnes

theorem classify_of_syndrome_zero (h : syndrome x = 0) : classify x = .clean := by
  rw [classify, if_neg notZeros, if_neg notOnes, if_pos h]

theorem classify_of_flippedBit {b : Nat} (h : flippedBit (syndrome x) = some b) : classify x = .corrected b := by
  have nonzero : syndrome x ≠ 0 := ne_of_flippedBit h (by decide)
  rw [classify, if_neg notZeros, if_neg notOnes, if_neg nonzero, h]

theorem classify_of_no_flippedBit (nonzero : syndrome x ≠ 0) (h : flippedBit (syndrome x) = none) :
    classify x = if syndrome x = 0x81 then .uncorrectable .poison else .uncorrectable .multi := by
  rw [classify, if_neg notZeros, if_neg notOnes, if_neg nonzero, h]
  rfl

theorem classify_of_poison (h : syndrome x = 0x81) : classify x = .uncorrectable .poison := by
  rw [classify_of_no_flippedBit notZeros notOnes (by rw [h]; decide) (by rw [h]; decide), if_pos h]

end

theorem classify_zeros {x : Location} (h : x.data = 0 ∧ x.check = 0) : classify x = .blank := if_pos h

theorem classify_ones {x : Location} (h : x.data = BitVec.allOnes 32 ∧ x.check = 0xFF) :
    classify x = .uncorrectable .multi := by
  have notZeros : ¬ (x.data = 0 ∧ x.check = 0) := by
    rw [h.1]
    exact fun zeros => absurd zeros.1 (by decide)
  rw [classify, if_neg notZeros, if_pos h]

/-! ## A stored word whose check byte is off by an error -/

/-- A word whose check byte is off by `e`. -/
def offBy (d : Word) (e : Byte) : Location := ⟨d, checkByte d ^^^ e⟩

theorem syndrome_offBy (d : Word) (e : Byte) : syndrome (offBy d e) = e := by
  rw [syndrome, offBy, BitVec.xor_comm (checkByte d), BitVec.xor_assoc, BitVec.xor_self, BitVec.xor_zero]

/-- The location that holds a word with one data bit flipped is off by the bit's column. -/
theorem flipped_eq_offBy (d : Word) {i : Nat} {c : Byte} (column : checkColumns[i]? = some c) :
    (⟨flipData d i, checkByte d⟩ : Location) = offBy (flipData d i) c := by
  rw [offBy, checkByte_flipData d column, BitVec.xor_assoc, BitVec.xor_self, BitVec.xor_zero]

/-- Forty zeros have the syndrome 0x55 and forty ones 0xAA, so no location off by another error is either. -/
theorem offBy_not_uniform (d : Word) {e : Byte} (h0 : e ≠ 0x55) (h1 : e ≠ 0xAA) :
    ¬ ((offBy d e).data = 0 ∧ (offBy d e).check = 0) ∧
      ¬ ((offBy d e).data = BitVec.allOnes 32 ∧ (offBy d e).check = 0xFF) := by
  have off := syndrome_offBy d e
  rw [syndrome] at off
  constructor <;> rintro ⟨data, check⟩ <;> rw [data, check] at off
  · exact h0 (off.symm.trans (by decide))
  · exact h1 (off.symm.trans (by decide))

theorem classify_offBy_flippedBit (d : Word) {e : Byte} {b : Nat} (h : flippedBit e = some b) :
    classify (offBy d e) = .corrected b := by
  obtain ⟨notZeros, notOnes⟩ := offBy_not_uniform d (ne_of_flippedBit h (by decide)) (ne_of_flippedBit h (by decide))
  exact classify_of_flippedBit notZeros notOnes (by rw [syndrome_offBy, h])

theorem classify_offBy_poison (d : Word) : classify (offBy d 0x81) = .uncorrectable .poison := by
  obtain ⟨notZeros, notOnes⟩ := offBy_not_uniform d (e := 0x81) (by decide) (by decide)
  exact classify_of_poison notZeros notOnes (syndrome_offBy d _)

end Sys2Proof.Machine

namespace Sys2Proof.Proofs

open Sys2Proof.Machine

/-- Settles O55: a flipped bit by its column, and each line of the classification by the syndrome. -/
theorem checkCodeAndClassification : Obligations.CheckCodeAndClassification := by
  unfold Obligations.CheckCodeAndClassification
  intro columns
  refine ⟨by decide, fun d i c column => ⟨?addsColumn, ?dataBit⟩, fun d j hj => ?checkBit, classify_offBy_poison, ?lines⟩
  case addsColumn => exact checkByte_flipData d column
  case dataBit =>
    exact (congrArg classify (flipped_eq_offBy d column)).trans
      (classify_offBy_flippedBit _ ((flippedBit_iff c i).mpr (.inl column)))
  case checkBit =>
    refine classify_offBy_flippedBit d ((flippedBit_iff _ _).mpr (.inr ⟨by omega, by omega, ?_⟩))
    rw [Nat.add_sub_cancel_left]
  case lines =>
    rintro x y rfl
    refine ⟨classify_zeros, classify_ones, classify_of_syndrome_zero, fun hz ho b oneBit => ?oneBit, classify_of_poison,
      fun hz ho nonzero notPoison noBit => ?manyBits⟩
    case oneBit => exact classify_of_flippedBit hz ho ((flippedBit_iff _ b).mpr oneBit)
    case manyBits =>
      have noFlip : flippedBit (syndrome x) = none :=
        Option.eq_none_iff_forall_ne_some.mpr fun b flipped => noBit b ((flippedBit_iff _ b).mp flipped)
      exact (classify_of_no_flippedBit hz ho nonzero noFlip).trans (if_neg notPoison)

end Sys2Proof.Proofs
end

section
/-! Control words of error capture (09 R149, R156): the evaluation of an exemption window by its four values, the write
of a window word, and the acknowledge cell. -/

namespace Sys2Proof.Machine

/-! ## Exemption windows (09 R149) -/

/-- Both complements of a window match. -/
def ExemptWindow.matched (w : ExemptWindow) : Prop := w.baseComplement = ~~~ w.base ∧ w.sizeComplement = ~~~ w.size

/-- A window's range lies below the control page and meets no mapped region. -/
def ExemptWindow.clear (w : ExemptWindow) (m : RegionMap) : Prop :=
  w.base.toNat + w.size.toNat ≤ 4193792 ∧ ¬ w.meets m

theorem unmatched_iff (w : ExemptWindow) :
    (w.baseComplement != ~~~ w.base || w.sizeComplement != ~~~ w.size) = true ↔ ¬ w.matched := by
  rw [Bool.or_eq_true, bne_iff_ne, bne_iff_ne, ExemptWindow.matched, not_and_or]

theorem clearTest_iff (w : ExemptWindow) (m : RegionMap) :
    (decide (w.base.toNat + w.size.toNat ≤ Config.pageBase) && !w.overlapsMapped m) = true ↔ w.clear m := by
  rw [Bool.and_eq_true, decide_eq_true_iff, Bool.not_eq_true', ← Bool.not_eq_true, overlapsMapped_iff]
  rfl

theorem evaluate_inactive {w : ExemptWindow} (m : RegionMap) (h : ¬ w.matched ∨ w.size = 0) :
    w.evaluate m = .inactive := by
  by_cases matched : w.matched
  · rw [ExemptWindow.evaluate, if_neg (mt (unmatched_iff w).mp (not_not_intro matched)),
      if_pos (h.resolve_left (not_not_intro matched))]
  · rw [ExemptWindow.evaluate, if_pos ((unmatched_iff w).mpr matched)]

theorem evaluate_matched {w : ExemptWindow} {m : RegionMap} (matched : w.matched) (size : w.size ≠ 0) :
    w.evaluate m = if decide (w.base.toNat + w.size.toNat ≤ Config.pageBase) && !w.overlapsMapped m then .active
      else .refused := by
  rw [ExemptWindow.evaluate, if_neg (mt (unmatched_iff w).mp (not_not_intro matched)), if_neg size]

theorem evaluate_active {w : ExemptWindow} {m : RegionMap} (matched : w.matched) (size : w.size ≠ 0)
    (clear : w.clear m) : w.evaluate m = .active := by
  rw [evaluate_matched matched size, if_pos ((clearTest_iff w m).mpr clear)]

theorem evaluate_refused {w : ExemptWindow} {m : RegionMap} (matched : w.matched) (size : w.size ≠ 0)
    (clear : ¬ w.clear m) : w.evaluate m = .refused := by
  rw [evaluate_matched matched size, if_neg (mt (clearTest_iff w m).mp clear)]

/-- A window word's write by what its window is then evaluated to. -/
theorem writeWindow_of {s : State} {n : WindowName} {k : WindowWord} {d : Word} {v : WindowVerdict}
    (h : ((s.exemptWindow n).withWord k d).evaluate s.regions = v) :
    s.writeControl (windowOffset n k) d =
      (if v = .refused then
          (s.setExemptWindow n { (s.exemptWindow n).withWord k d with active := v == .active }).refuseSetting
            (windowOffset n k) d
        else s.setExemptWindow n { (s.exemptWindow n).withWord k d with active := v == .active }).storeControl
        (windowOffset n k) d := by
  rw [State.writeControl, controlWord_window]
  dsimp only
  rw [State.writeWindow, h]

/-! ## The acknowledge cell (09 R156, 11 R181) -/

theorem summaryBit_lt (c : SummaryClass) : c.bit < 13 := by cases c <;> decide

/-- The primary record is cleared by the written bit of its class. -/
theorem ackPrimary_eq (p : Option PrimaryRecord) (d : Word) :
    ackPrimary p (ackClasses d) = p.filter (fun r => !d.getLsbD r.cls.bit) := by
  have bit : ∀ r : PrimaryRecord, (ackClasses d).getLsbD r.cls.bit = d.getLsbD r.cls.bit := fun r => by
    rw [ackClasses, BitVec.getLsbD_extractLsb', decide_eq_true (summaryBit_lt r.cls), Bool.true_and, Nat.zero_add]
  simp only [ackPrimary, bit]

/-- The four rows of the acknowledge cell are one write. -/
theorem exec_acknowledge {c : Instr} {d : Word}
    (row : c ∈ [Instr.clearSummary d, .releaseCorrectableCapture d, .releaseUncorrectableCapture d,
      .clearCorrectableCount d]) (s : State) : exec c s = .next (s.pageWrite 0x0AA d) := by
  simp only [List.mem_cons, List.not_mem_nil, or_false] at row
  rcases row with rfl | rfl | rfl | rfl <;> rfl

end Sys2Proof.Machine

namespace Sys2Proof.Proofs

open Sys2Proof.Machine

/-- Settles O44: the write of a window word by the three evaluations of its window. -/
theorem exemptionWindowIsEvaluated : Obligations.ExemptionWindowIsEvaluated := by
  unfold Obligations.ExemptionWindowIsEvaluated
  intro n k d s w next written
  obtain rfl : w = (s.exemptWindow n).withWord k d := by rw [written]; cases k <;> rfl
  refine ⟨fun inactive => ?_, fun matched size clear => ?_, fun matched size clear => ?_⟩
  · exact pageWrite_answers s next _ (windowOffset_lt n k) d _ (writeWindow_of (evaluate_inactive _ inactive))
  · exact pageWrite_answers s next _ (windowOffset_lt n k) d _ (writeWindow_of (evaluate_active matched size clear))
  · exact pageWrite_answers s next _ (windowOffset_lt n k) d _ (writeWindow_of (evaluate_refused matched size clear))

/-- Settles O45: the four rows are one write, whose work is the acknowledge's. -/
theorem acknowledgeActsOnItsBits : Obligations.AcknowledgeActsOnItsBits := by
  unfold Obligations.AcknowledgeActsOnItsBits
  intro d s c next row
  rw [exec_acknowledge row, ← ackPrimary_eq]
  exact pageWrite_answers s next 0x0AA (by decide) d _ rfl

end Sys2Proof.Proofs
end

section
/-! MEMCMD grants (09 R152, 10 R164 to R167): a grant from its work to its end, what the memory unit does with a word it
has read, and the work of the three rows. -/

namespace Sys2Proof.Machine

/-! ## A grant from its work to its end -/

/-- The memory command unit as it has served a kind of work. -/
def MemUnit.serving (m : MemUnit) (k : MemKind) : MemUnit := { m with lastKind := k }

/-- The state that a MEMCMD grant of a kind leaves, beside the step's bookkeeping: `u` with the memory command unit as
`m`. -/
def State.memServed (s : State) (k : MemKind) (u : State) (m : MemUnit) : State :=
  { u with
    arbiter := { s.arbiter with lastServed := .memcmd }
    mem := m.serving k }

/-- The arbiter during a MEMCMD grant, with the lock flag as the work sets it. -/
def State.memArbiter (s : State) (locked : Bool) : Arbiter :=
  { (s.grantInternal .memcmd).arbiter with lock := locked }

/-- A MEMCMD grant, by its work. -/
theorem serveMem_served {s u : State} {k : MemKind} {m : MemUnit} {locked : Bool}
    (work : (s.grantInternal .memcmd).memWork k =
      (u.withMem (m.serving k)).withArbiter (s.memArbiter locked)) :
    s.serveMem k = (s.memServed k u m).bookkeptAs (s.serveMem k) :=
  serveMem_bookkept s k _ fun X => by rw [work]; rfl

/-! ## What the memory unit does with a word it has read -/

/-- The write-back and the reports of a word that a scrub or a VERIFY has read with an outcome (09 R152, 10 R164). -/
def State.memRead (s : State) (src : Source) (a : Nat) : ReadOutcome → State
  | .clean => s
  | .blank => s
  | .corrected b => (s.storeWord a (flipData (s.location a).data b)).detectCorrectable src a b
  | .uncorrectable d => s.consumeUncorrectable src a d

/-- The memory command unit after a VERIFY word with an outcome (10 R164, R165). -/
def MemUnit.verifies (m : MemUnit) : ReadOutcome → MemUnit
  | .clean => { m with done := m.done + 1 }.advance
  | .blank => { m with done := m.done + 1 }.advance
  | .corrected _ => m.countCorrected.advance
  | .uncorrectable _ => m.verifyFault

theorem memRead_withArbiter (s : State) (y : Arbiter) (src : Source) (a : Nat) (o : ReadOutcome) :
    (s.withArbiter y).memRead src a o = (s.memRead src a o).withArbiter y := by
  cases o with
  | clean => rfl
  | blank => rfl
  | corrected b =>
    exact detectCorrectable_withArbiter (s.storeWord a (flipData (s.location a).data b)) y src a b
  | uncorrectable d => exact consumeUncorrectable_withArbiter s y src a d

theorem memRead_withMem (s : State) (m : MemUnit) (src : Source) (a : Nat) (o : ReadOutcome) :
    (s.withMem m).memRead src a o = (s.memRead src a o).withMem m := by
  cases o with
  | clean => rfl
  | blank => rfl
  | corrected b =>
    exact detectCorrectable_withMem (s.storeWord a (flipData (s.location a).data b)) m src a b
  | uncorrectable d => exact consumeUncorrectable_withMem s m src a d

theorem scrubAddress_memRead {s : State} {a : Nat} {o : ReadOutcome}
    (h : (classify (s.location a)).under s.settings.blankTolerance = o) : s.scrubAddress a = s.memRead .scrub a o := by
  rw [scrubAddress_of s a o h]
  cases o <;> rfl

theorem verifyAt_memRead {s : State} {a : Nat} {o : ReadOutcome} (checked : s.addressClass a ≠ .exempt)
    (h : (classify (s.location a)).under s.settings.blankTolerance = o) :
    s.verifyAt a = (s.lockPort.memRead .verify a o).setMem (s.mem.verifies o) := by
  rw [verifyAt_of s a o checked h]
  cases o <;> rfl

theorem verifyAt_exempt {s : State} {a : Nat} (exempt : s.addressClass a = .exempt) :
    s.verifyAt a = s.setMem s.mem.advance := if_pos exempt

theorem advance_serving (m : MemUnit) (k : MemKind) : (m.serving k).advance = m.advance.serving k := by
  rw [advance_eq, advance_eq]
  rfl

theorem verifyFault_serving (m : MemUnit) (k : MemKind) : (m.serving k).verifyFault = m.verifyFault.serving k := by
  by_cases first : m.progress = m.start
  · rw [verifyFault_first m first, ← advance_serving]
    exact verifyFault_first (m.serving k) first
  · rw [verifyFault_later m first]
    exact verifyFault_later (m.serving k) first

theorem verifies_serving (m : MemUnit) (k : MemKind) (o : ReadOutcome) :
    (m.serving k).verifies o = (m.verifies o).serving k := by
  cases o with
  | clean => exact advance_serving { m with done := m.done + 1 } k
  | blank => exact advance_serving { m with done := m.done + 1 } k
  | corrected b => exact advance_serving m.countCorrected k
  | uncorrectable d => exact verifyFault_serving m k

/-! ## Scrubs (09 R152) -/

section
variable {s : State} {a : Nat} {rest : List Nat} (queue : s.scrubQueue = a :: rest)
include queue

theorem scrubWork_exempt (exempt : s.addressClass a = .exempt) : s.scrubWork = { s with scrubQueue := rest } := by
  rw [State.scrubWork, queue]
  exact if_pos exempt

theorem scrubWork_checked (checked : s.addressClass a ≠ .exempt) :
    s.scrubWork = ({ s with scrubQueue := rest } : State).lockPort.scrubAddress a := by
  rw [State.scrubWork, queue]
  exact if_neg checked

theorem serveScrub_exempt (exempt : s.addressClass a = .exempt) : s.serveMem .scrub =
    (s.memServed .scrub { s with scrubQueue := rest } s.mem).bookkeptAs (s.serveMem .scrub) :=
  serveMem_served (scrubWork_exempt (s := (s.grantInternal .memcmd).servedMem .scrub) queue exempt)

/-- A scrub leaves what the read of the head address leaves. -/
theorem serveScrub_checked {o : ReadOutcome} {d : Word} (checked : s.addressClass a ≠ .exempt)
    (reads : s.readsChecked a o d) : s.serveMem .scrub =
      (s.memServed .scrub (State.memRead { s with scrubQueue := rest } .scrub a o) s.mem).bookkeptAs
        (s.serveMem .scrub) := by
  refine serveMem_served (locked := true) ?_
  calc (s.grantInternal .memcmd).memWork .scrub
      = ((State.withMem { s with scrubQueue := rest } (s.mem.serving .scrub)).withArbiter
          (s.memArbiter true)).scrubAddress a :=
        scrubWork_checked (s := (s.grantInternal .memcmd).servedMem .scrub) queue checked
    _ = ((State.withMem { s with scrubQueue := rest } (s.mem.serving .scrub)).withArbiter
          (s.memArbiter true)).memRead .scrub a o := scrubAddress_memRead (readsChecked_under s a o d reads).1
    _ = _ := by rw [memRead_withArbiter, memRead_withMem]

end

/-! ## VERIFY words (10 R164, R165) -/

section
variable {s : State} (walk : s.mem.walk = some 0x01)
include walk

theorem memWork_verify : (s.grantInternal .memcmd).memWork .walk =
    ((s.grantInternal .memcmd).servedMem .walk).verifyAt s.mem.progress := if_pos walk

theorem serveVerify_exempt (exempt : s.addressClass s.mem.progress = .exempt) : s.serveMem .walk =
    (s.memServed .walk s s.mem.advance).bookkeptAs (s.serveMem .walk) := by
  refine serveMem_served (locked := s.arbiter.lock) ?_
  rw [memWork_verify walk, ← advance_serving]
  exact verifyAt_exempt (s := (s.grantInternal .memcmd).servedMem .walk) exempt

/-- A VERIFY word leaves what its read leaves, and the unit as the outcome counts. -/
theorem serveVerify_checked {o : ReadOutcome} {d : Word} (checked : s.addressClass s.mem.progress ≠ .exempt)
    (reads : s.readsChecked s.mem.progress o d) : s.serveMem .walk =
      (s.memServed .walk (s.memRead .verify s.mem.progress o) (s.mem.verifies o)).bookkeptAs (s.serveMem .walk) := by
  have outcome := (readsChecked_under s _ o d reads).1
  refine serveMem_served (locked := true) ?_
  calc (s.grantInternal .memcmd).memWork .walk
      = (((s.withMem (s.mem.serving .walk)).withArbiter (s.memArbiter true)).memRead .verify s.mem.progress o).setMem
          ((s.mem.serving .walk).verifies o) :=
        (memWork_verify walk).trans
          (verifyAt_memRead (s := (s.grantInternal .memcmd).servedMem .walk) checked outcome)
    _ = _ := by
      rw [memRead_withArbiter, memRead_withMem, verifies_serving]
      rfl

end

/-! ## CLEAR words (10 R167) -/

section
variable {s : State} (walk : s.mem.walk = some 0x02)
include walk

theorem memWork_clear : (s.grantInternal .memcmd).memWork .walk =
    ((s.grantInternal .memcmd).servedMem .walk).clearAt s.mem.progress := by
  have notVerify : ¬ s.mem.walk = some verifyCode := by rw [walk]; decide
  exact (if_neg notVerify).trans (if_pos walk)

theorem serveClear_stores (clearable : s.clearable s.mem.progress) : s.serveMem .walk =
    (s.memServed .walk (s.storeWord s.mem.progress s.mem.fill)
      { s.mem with done := s.mem.done + 1 }.advance).bookkeptAs (s.serveMem .walk) := by
  refine serveMem_served (locked := true) ?_
  have allowed : ¬ s.clearForbidden s.mem.progress = true := by rw [(clearable_iff s _).mpr clearable]; decide
  rw [memWork_clear walk, ← advance_serving]
  exact if_neg allowed

theorem serveClear_refused (forbidden : ¬ s.clearable s.mem.progress) : s.serveMem .walk =
    (s.memServed .walk s (s.mem.stop .refusedRegion)).bookkeptAs (s.serveMem .walk) := by
  refine serveMem_served (locked := s.arbiter.lock) ?_
  rw [memWork_clear walk]
  exact if_pos ((clearForbidden_iff s _).mpr forbidden)

end

end Sys2Proof.Machine

namespace Sys2Proof.Proofs

open Sys2Proof.Machine

/-- Settles O53: each row out of turn, then scrubs, VERIFY words and CLEAR words by what their grants leave. -/
theorem memoryGrantsWork : Obligations.MemoryGrantsWork := by
  unfold Obligations.MemoryGrantsWork
  intro s a o d served past answers
  have past_eq : past = MemUnit.advance := funext fun m => (advance_eq m).symm
  rw [past_eq]
  refine ⟨fun late => ?scrubLate, fun late => ?verifyLate, fun late => ?clearLate,
    fun rest q turn queue hq => ?scrub, fun turn walk here => ?verify, fun turn walk here => ?clear⟩
  case scrubLate => exact congrArg Host.Outcome.next (if_neg (by simp [late]))
  case verifyLate =>
    exact congrArg Host.Outcome.next (if_neg fun turn => late.elim (by simp [turn.1]) fun other => other turn.2)
  case clearLate =>
    exact congrArg Host.Outcome.next (if_neg fun turn => late.elim (by simp [turn.1]) fun other => other turn.2)
  case scrub =>
    subst hq
    have granted : exec .scrub s = .next (s.serveMem .scrub) := congrArg Host.Outcome.next (if_pos turn)
    refine ⟨fun exempt => ⟨_, granted, serveScrub_exempt queue exempt⟩, fun checked reads => ?_⟩
    have result := serveScrub_checked queue checked reads
    have data := (readsChecked_under s a o d reads).2
    refine ⟨?kept, ?corrected, ?uncorrectable⟩
    case kept => rintro (rfl | rfl) <;> exact ⟨_, granted, result⟩
    case corrected =>
      rintro b rfl
      rw [data b rfl]
      exact ⟨_, granted, result⟩
    case uncorrectable =>
      rintro k rfl
      exact ⟨_, granted, result⟩
  case verify =>
    subst here
    have granted : exec .verifyWord s = .next (s.serveMem .walk) := congrArg Host.Outcome.next (if_pos ⟨turn, walk⟩)
    refine ⟨fun exempt => ⟨_, granted, serveVerify_exempt walk exempt⟩, fun checked reads => ?_⟩
    have result := serveVerify_checked walk checked reads
    have data := (readsChecked_under s _ o d reads).2
    refine ⟨?kept, ?corrected, ?uncorrectable⟩
    case kept => rintro (rfl | rfl) <;> exact ⟨_, granted, result⟩
    case corrected =>
      rintro b rfl
      rw [data b rfl]
      exact ⟨_, granted, result⟩
    case uncorrectable =>
      rintro k m rfl rfl
      exact ⟨_, granted, result⟩
  case clear =>
    subst here
    have granted : exec .clearWord s = .next (s.serveMem .walk) := congrArg Host.Outcome.next (if_pos ⟨turn, walk⟩)
    exact ⟨fun clearable => ⟨_, granted, serveClear_stores walk clearable⟩,
      fun forbidden => ⟨_, granted, serveClear_refused walk forbidden⟩⟩

end Sys2Proof.Proofs
end

section
/-! Memory commands (10 sections 10.1 to 10.6): what each code does to the memory command unit, its conditions as the
manual gives them, and the two obligations on the commands carried out and refused. -/

namespace Sys2Proof.Machine

/-! ## The command that a code names (10 R159) -/

theorem memoryAction_badCode {s : State} {code : Byte} (operand : Byte) (h : code = 0 ∨ 6 < code.toNat) :
    s.memoryAction code operand = s.mem.refuse code .refusedCode := by
  have outside : code.toNat = 0 ∨ 6 < code.toNat := h.imp_left fun e => by rw [e]; rfl
  unfold State.memoryAction
  split
  case h_7 => rfl
  all_goals omega

theorem memoryAction_walk {s : State} {code : Byte} (operand : Byte) (h : code = 1 ∨ code = 2) :
    s.memoryAction code operand = s.commandWalk code := by
  rcases h with rfl | rfl <;> rfl

/-! ## VERIFY and CLEAR (10 R162, R166) -/

section
variable {s : State} {code : Byte}

theorem commandWalk_busy (h : s.mem.state = .busy) : s.commandWalk code = s.mem.refuse code .refusedBusy := by
  rw [State.commandWalk, h]

theorem commandWalk_suspended (h : s.mem.state = .suspended) :
    s.commandWalk code = s.mem.refuse code .refusedSuspended := by
  rw [State.commandWalk, h]

theorem commandWalk_invalid (idle : s.mem.state = .idle) (invalid : ¬ s.mem.operandsValid = true) :
    s.commandWalk code = s.mem.refuse code .refusedOperand := by
  rw [State.commandWalk, idle]
  exact if_pos (by simpa using invalid)

/-- With valid operands an idle unit begins the walk, unless it is a CLEAR of a range that may not be cleared. -/
theorem commandWalk_valid (idle : s.mem.state = .idle) (valid : s.mem.operandsValid = true) :
    s.commandWalk code = if code = 0x02 ∧ s.rangeForbidden = true then s.mem.refuse code .refusedRegion
      else s.mem.beginWalk code := by
  simp only [State.commandWalk, idle, valid, clearCode, Bool.not_true, Bool.false_eq_true, if_false, Bool.and_eq_true,
    beq_iff_eq]

theorem commandWalk_verify (idle : s.mem.state = .idle) (valid : s.mem.operandsValid = true) :
    s.commandWalk 0x01 = s.mem.beginWalk 0x01 :=
  (commandWalk_valid idle valid).trans (if_neg fun clear => absurd clear.1 (by decide))

theorem commandWalk_clear (idle : s.mem.state = .idle) (valid : s.mem.operandsValid = true)
    (allowed : ∀ i : Nat, i < s.mem.opCount.toNat → s.clearable (s.mem.opStart.toNat + i)) :
    s.commandWalk 0x02 = s.mem.beginWalk 0x02 := by
  refine (commandWalk_valid idle valid).trans (if_neg fun ⟨_, forbidden⟩ => ?_)
  obtain ⟨i, inRange, kept⟩ := (rangeForbidden_iff s).mp forbidden
  exact kept (allowed i inRange)

theorem commandWalk_clear_forbidden (idle : s.mem.state = .idle) (valid : s.mem.operandsValid = true)
    (forbidden : ∃ i, i < s.mem.opCount.toNat ∧ ¬ s.clearable (s.mem.opStart.toNat + i)) :
    s.commandWalk 0x02 = s.mem.refuse 0x02 .refusedRegion :=
  (commandWalk_valid idle valid).trans (if_pos ⟨rfl, (rangeForbidden_iff s).mpr forbidden⟩)

end

/-! ## CHECK_PROBE (10 R168) -/

/-- The bit position that a probe records with an outcome: 0 where no bit was corrected. -/
def ReadOutcome.probedBit : ReadOutcome → Nat
  | .corrected b => b
  | .clean => 0
  | .blank => 0
  | .uncorrectable _ => 0

theorem checkProbe_eq (m : MemUnit) (operand : Byte) : m.checkProbe operand =
    { m with probe := {
        outcome := classify ⟨m.opFill, operand⟩
        data := handedOn ⟨m.opFill, operand⟩
        bit := (classify ⟨m.opFill, operand⟩).probedBit
        check := checkByte m.opFill } } := rfl

section
variable {x : Location}

theorem handedOn_of {d : Word} (clean : classify x = .clean → d = x.data)
    (corrected : ∀ k, classify x = .corrected k → d = flipData x.data k) (blank : classify x = .blank → d = 0)
    (uncorrectable : ∀ k, classify x = .uncorrectable k → d = x.data) : handedOn x = d := by
  unfold handedOn
  cases outcome : classify x with
  | clean => exact (clean outcome).symm
  | corrected k => exact (corrected k outcome).symm
  | blank => exact (blank outcome).symm
  | uncorrectable k => exact (uncorrectable k outcome).symm

theorem probedBit_of_corrected {b : Nat} (h : classify x = .corrected b) : (classify x).probedBit = b := by rw [h]; rfl

theorem probedBit_of_not_corrected (h : ∀ k, classify x ≠ .corrected k) : (classify x).probedBit = 0 := by
  cases outcome : classify x with
  | clean => rfl
  | corrected k => exact absurd outcome (h k)
  | blank => rfl
  | uncorrectable k => rfl

end

/-! ## SUSPEND, RESUME and ABORT (10 R169, R170) -/

section
variable {m : MemUnit} (code : Byte)

theorem commandSuspend_busy (h : m.state = .busy) : m.commandSuspend code = { m with state := .suspended } := if_pos h

theorem commandSuspend_notBusy (h : m.state ≠ .busy) : m.commandSuspend code = m.refuse code .notBusy := if_neg h

theorem commandResume_suspended (h : m.state = .suspended) : m.commandResume code = { m with state := .busy } := by
  rw [MemUnit.commandResume, h]

theorem commandResume_busy (h : m.state = .busy) : m.commandResume code = m.refuse code .refusedBusy := by
  rw [MemUnit.commandResume, h]

theorem commandResume_idle (h : m.state = .idle) : m.commandResume code = m.refuse code .notBusy := by
  rw [MemUnit.commandResume, h]

theorem commandAbort_walking (h : m.state ≠ .idle) : m.commandAbort code = m.stop .aborted := if_neg h

theorem commandAbort_idle (h : m.state = .idle) : m.commandAbort code = m.refuse code .notBusy := if_pos h

end

end Sys2Proof.Machine

namespace Sys2Proof.Proofs

open Sys2Proof.Machine

/-- Settles O50: each row writes its code to the command cell, and the command of that code is carried out. -/
theorem memoryCommandsAreCarriedOut : Obligations.MemoryCommandsAreCarriedOut := by
  unfold Obligations.MemoryCommandsAreCarriedOut
  intro rest s next done begun
  have answers (code : Byte) {m : MemUnit} (action : s.memoryAction code (rest.extractLsb' 0 8) = m) :=
    memoryCommand_answers s next code rest m action
  refine ⟨fun idle least most inside ends => ?walks, fun x d b formed clean corrected blank uncorrectable => ?probe,
    fun busy => ?suspend, fun suspended => ?resume, fun walking => ?abort⟩
  case walks =>
    have valid := (operandsValid_iff s.mem).mpr ⟨least, most, inside, ends⟩
    exact ⟨answers 0x01 (commandWalk_verify idle valid),
      fun allowed => answers 0x02 (commandWalk_clear idle valid allowed)⟩
  case probe =>
    have data : handedOn x = d := by
      refine handedOn_of (fun outcome => (clean outcome).1) (fun k outcome => ?_) blank uncorrectable
      obtain ⟨same, flipped⟩ := corrected.resolve_right fun other => other.1 k outcome
      obtain rfl : k = b := ReadOutcome.corrected.inj (outcome.symm.trans same)
      exact flipped
    have bit : (classify x).probedBit = b := by
      rcases corrected with ⟨outcome, -⟩ | ⟨other, rfl⟩
      · exact probedBit_of_corrected outcome
      · exact probedBit_of_not_corrected other
    subst formed data bit
    exact answers 0x03 (checkProbe_eq s.mem _)
  case suspend => exact answers 0x04 (commandSuspend_busy _ busy)
  case resume => exact answers 0x05 (commandResume_suspended _ suspended)
  case abort =>
    have notIdle : s.mem.state ≠ .idle := by rcases walking with h | h <;> rw [h] <;> decide
    exact answers 0x06 (commandAbort_walking _ notIdle)

/-- Settles O51: the command that the code names refuses, and a refusal is recorded by `MemUnit.refuse`. -/
theorem memoryCommandRefusals : Obligations.MemoryCommandRefusals := by
  unfold Obligations.MemoryCommandRefusals
  intro code rest s next refused valid
  have answers {code : Byte} {r : MemResult}
      (action : s.memoryAction code (rest.extractLsb' 0 8) = s.mem.refuse code r) :=
    memoryCommand_answers s next code rest _ action
  have valid_iff : s.mem.operandsValid = true ↔ valid := operandsValid_iff s.mem
  refine ⟨fun bad => answers (memoryAction_badCode _ bad),
    fun walk busy => answers ((memoryAction_walk _ walk).trans (commandWalk_busy busy)),
    fun walk suspended => answers ((memoryAction_walk _ walk).trans (commandWalk_suspended suspended)),
    fun walk idle invalid => answers ((memoryAction_walk _ walk).trans
      (commandWalk_invalid idle (mt valid_iff.mp invalid))), ?clear, ?suspend, ?resumeIdle, ?resumeBusy, ?abort⟩
  case clear =>
    rintro rfl idle inRange forbidden
    exact answers (commandWalk_clear_forbidden idle (valid_iff.mpr inRange) forbidden)
  case suspend =>
    rintro rfl notBusy
    exact answers (commandSuspend_notBusy _ notBusy)
  case resumeIdle =>
    rintro rfl idle
    exact answers (commandResume_idle _ idle)
  case resumeBusy =>
    rintro rfl busy
    exact answers (commandResume_busy _ busy)
  case abort =>
    rintro rfl idle
    exact answers (commandAbort_idle _ idle)

end Sys2Proof.Proofs
end

section
/-! Power-on and status publication (11 R176, R177): the state that power-on sets, which the end of its step changes only
by what a high SAFE halts, and the words that each row places in the publication set. -/

namespace Sys2Proof.Machine

/-! ## The part-owned words (12 section 12.2) -/

theorem publishedOffsets_rise : publishedOffsets.Pairwise (· < ·) := by decide

theorem mem_publishedOffsets_iff (o : Nat) : o ∈ publishedOffsets ↔
    0x002 ≤ o ∧ o ≤ 0x006 ∨ o = 0x011 ∨ 0x024 ≤ o ∧ o ≤ 0x02C ∨
      o ∈ [0x081, 0x082, 0x085, 0x086, 0x089, 0x08A, 0x08D, 0x08E, 0x090, 0x092] ∨ 0x0A0 ≤ o ∧ o ≤ 0x0A9 ∨
      0x0D0 ≤ o ∧ o ≤ 0x0FF := by
  have lanes : o ∈ (List.range 48).map (· + 0x0D0) ↔ 0x0D0 ≤ o ∧ o ≤ 0x0FF := by
    simp only [List.mem_map, List.mem_range]
    exact ⟨fun ⟨i, least, here⟩ => by omega, fun bounds => ⟨o - 0x0D0, by omega, by omega⟩⟩
  simp only [publishedOffsets, List.mem_append, lanes, List.mem_cons, List.not_mem_nil, or_false]
  omega

/-! ## Words that enter the publication set (11 R176) -/

theorem changedWords_self (s : State) (os : List Nat) : changedWords s s os = [] := by simp [changedWords]

/-- Into an empty publication set every word enters. -/
theorem publicationWith_empty {s : State} (empty : s.writer.publication = []) (os : List Nat) :
    s.publicationWith os = os := by
  simp [State.publicationWith, empty]

/-- A publication set that holds every part-owned word takes no other. -/
theorem publicationWith_full {s : State} (full : s.writer.publication = publishedOffsets) (t : State) :
    s.publicationWith (s.wordsChanged t) = publishedOffsets := by
  have none : (s.wordsChanged t).filter (fun o => !publishedOffsets.contains o) = [] :=
    List.filter_eq_nil_iff.mpr fun o member => by simpa using (List.mem_filter.mp member).1
  rw [State.publicationWith, full, none, List.append_nil]

/-- A step that changes no part-owned word places none. -/
theorem publicationWith_same {s t : State} (same : ∀ o, t.publishedWord o = s.publishedWord o) :
    s.publicationWith (s.wordsChanged t) = s.writer.publication := by
  have none : s.wordsChanged t = [] := List.filter_eq_nil_iff.mpr fun o _ => by simp [same o]
  rw [none, State.publicationWith, List.filter_nil, List.append_nil]

/-- The step from `s` to `t` places exactly the part-owned words that it changed, those of `except` aside. -/
def State.places (s t : State) (except : List Nat) : Prop :=
  t.writer.publication = s.publicationWith ((s.wordsChanged t).filter (fun o => !except.contains o))

theorem places_nil_iff (s t : State) :
    s.places t [] ↔ t.writer.publication = s.publicationWith (s.wordsChanged t) := by
  simp [State.places]

theorem places_self (s : State) (os : List Nat) : s.places s os := by
  simp [State.places, State.publicationWith, State.wordsChanged]

theorem places_ite {s t : State} {os : List Nat} {c : Prop} [Decidable c] (h : s.places t os) :
    s.places (if c then t else s) os := by
  split
  · exact h
  · exact places_self s os

/-- A host cycle, held at the port or granted with no internal grant before it, places what it changed. -/
theorem hostCycle_places {s : State} (first : s.portReady = true → s.owed = none) (c : HostCycle) :
    (s.hostCycle c).writer.publication = s.publicationWith (s.wordsChanged (s.hostCycle c)) := by
  by_cases ready : s.portReady = true
  · rw [hostCycle_granted ⟨ready, first ready⟩]
    exact commit_publication _ _ (hostWork_publication s.grantHost c)
  · have waits : s.hostCycle c = if s.hostPort.isSome then s else { s with hostPort := some c } := if_neg ready
    rw [waits]
    split
    · exact (publicationWith_self s).symm
    · exact (publicationWith_same fun _ => rfl).symm

/-- A row that is neither a grant nor of the power and reset family places what it changed. -/
theorem exec_places {c : Instr} {s t : State} (reset : resetRow c = false) (grant : grantRow c = false)
    (first : hostCycleRow c = true → s.portReady = true → s.owed = none) (runs : exec c s = .next t) :
    t.writer.publication = s.publicationWith (s.wordsChanged t) := by
  by_cases host : hostCycleRow c = true
  · obtain ⟨x, row⟩ := hostCycleRow_exec c s host
    obtain rfl := Host.Outcome.next.inj (row.symm.trans runs)
    exact hostCycle_places (first host) x
  · obtain ⟨f, row, kept, -⟩ := blockRow_exec c s (eq_false_of_ne_true host) grant reset
    obtain rfl := Host.Outcome.next.inj (row.symm.trans runs)
    exact commit_publication s (f s) kept

/-! ## Grants (11 R176, logs 10 and 34) -/

theorem serveFetch_places (s : State) : s.places s.serveFetch [] :=
  commitExcept_publication _ _ _ (fetchWork_publication (s.grantInternal .fetch))

theorem serveRecord_places (s : State) {k : RecordKind} (words : k ≠ .status) :
    s.places (s.serveRecord k) indexOffsets :=
  commitExcept_publication _ _ _ (recordWork_publication (s.grantInternal .record) k words)

/-- The words of a record, and its index word, place what they changed but the index words. -/
theorem recordRow_places {c : Instr} {s t : State}
    (row : c ∈ [Instr.stackRecordWord, .stackPublicationComplete, .eventRecordWord, .eventPublicationComplete])
    (runs : exec c s = .next t) : s.places t indexOffsets := by
  simp only [List.mem_cons, List.not_mem_nil, or_false] at row
  rcases row with rfl | rfl | rfl | rfl <;> obtain rfl := Host.Outcome.next.inj runs <;>
    exact places_ite (serveRecord_places s nofun)

theorem not_indexOffsets (o : Nat) : (!indexOffsets.contains o) = (o != 0x090 && o != 0x092) := by
  simp only [indexOffsets, List.contains_cons, List.contains_nil, Bool.or_false, Bool.not_or]
  rfl

/-- A MEMCMD grant places what it changed; where it changed the state or the result of the memory command unit, with the
status word moved to the tail. -/
theorem serveMem_publication (s : State) (k : MemKind) :
    (s.serveMem k).writer.publication =
      if s.mem.state ≠ (s.serveMem k).mem.state ∨ s.mem.result ≠ (s.serveMem k).mem.result then
        (s.publicationWith (s.wordsChanged (s.serveMem k))).filter (· != 0x024) ++ [0x024]
      else s.publicationWith (s.wordsChanged (s.serveMem k)) := by
  have placed := commit_publication s _ (memWork_publication (s.grantInternal .memcmd) k)
  unfold State.serveMem
  generalize State.commit s ((s.grantInternal .memcmd).memWork k) = u at placed
  have unit : (State.statusLast s u).mem = u.mem := by unfold State.statusLast; split <;> rfl
  have words : s.wordsChanged (State.statusLast s u) = s.wordsChanged u := by unfold State.statusLast; split <;> rfl
  rw [unit, words, ← placed]
  unfold State.statusLast
  split <;> rfl

/-- A row of the memory command unit runs a grant of its kind or leaves the state as it is. -/
theorem memRow_exec {c : Instr} {s t : State} (row : c ∈ [Instr.scrub, .verifyWord, .clearWord])
    (runs : exec c s = .next t) : t = s ∨ ∃ k, t = s.serveMem k := by
  have either {p : Prop} [Decidable p] {k : MemKind} (h : (if p then s.serveMem k else s) = t) :
      t = s ∨ ∃ k, t = s.serveMem k := by
    split at h
    · exact .inr ⟨k, h.symm⟩
    · exact .inl h.symm
  simp only [List.mem_cons, List.not_mem_nil, or_false] at row
  rcases row with rfl | rfl | rfl <;> exact either (Host.Outcome.next.inj runs)

/-! ## Power-on (11 R177) -/

theorem sampleSafe_labelWork (s : State) (i : InputLines) : s.labelWorkOnly (s.sampleSafe i) :=
  labelWorkOnly_ite (safeRise_labelWork s) (labelWorkOnly_refl s)

theorem sampleSafe_low {i : InputLines} (low : i.safe = false) (s : State) : s.sampleSafe i = s := by
  rw [State.sampleSafe, low]; rfl

theorem sampleSafe_high {i : InputLines} (high : i.safe = true) (s : State) : s.sampleSafe i = s.safeRise := by
  rw [State.sampleSafe, high]; rfl

/-- The powered-on state presents no request and publishes no word. -/
theorem commit_poweredOn (s : State) (i : InputLines) :
    State.commit (s.poweredOn i) (s.poweredOn i) = s.poweredOn i := by
  have published : State.publishExcept (s.poweredOn i) (s.poweredOn i) [] = s.poweredOn i := by
    rw [State.publishExcept, changedWords_self]; rfl
  rw [State.commit, State.commitExcept, published]
  rfl

/-- Every word of the control page reads as in the start-up image. -/
theorem poweredOn_location (s : State) (i : InputLines) {off : Nat} (inside : off < 512) :
    (s.poweredOn i).location (4193792 + off) = checkedLocation (startUpWord off) := by
  have inPage : Config.pageBase ≤ 4193792 + off ∧ 4193792 + off < Config.memoryWords := by
    simp only [Config.pageBase, Config.memoryWords]; omega
  have image : Memory.lookup (s.poweredOn i).memory (4193792 + off) = some (checkedLocation (startUpWord off)) := by
    show Memory.unlisted (4193792 + off) = _
    rw [Memory.unlisted, if_pos inPage, Config.pageBase, Nat.add_sub_cancel_left]
  rw [State.location, image]

/-- With SAFE high the sampled rise halts the engine. -/
theorem powerOn_halts {i : InputLines} (high : i.safe = true) (s : State) :
    (State.commit (s.poweredOn i) ((s.poweredOn i).sampleSafe i)).haltedFrom (s.poweredOn i) .safety := by
  rw [sampleSafe_high high]
  obtain ⟨halted, -⟩ := act_halts (s := s.poweredOn i)
    ((safeRise_low rfl).trans (takeHalt_enters .safety nofun)) rfl rfl
  exact halted

end Sys2Proof.Machine

namespace Sys2Proof.Proofs

open Sys2Proof.Machine

/-- Settles O4: the end of the step changes nothing of the powered-on state with SAFE low; with SAFE high the rise that it
samples is label work, which leaves memory and arbiter, and halts. -/
theorem powerOnSetsThePowerOnState : Obligations.PowerOnSetsThePowerOnState := by
  unfold Obligations.PowerOnSetsThePowerOnState
  intro i s
  have sampled := sampleSafe_labelWork (s.poweredOn i) i
  refine ⟨_, rfl, fun off inside => ?image, ?writing, fun low => ?low, fun high => ?high⟩
  case image =>
    rw [← poweredOn_location s i inside]
    exact location_congr (congrArg State.memory sampled) (congrArg State.powerCycle sampled) _
  case writing =>
    exact congrArg Arbiter.imageWriting (labelWorkOnly_booksKept sampled).2
  case low =>
    rw [sampleSafe_low low, commit_poweredOn]
    rfl
  case high =>
    obtain ⟨state, cause, stop, -, -, -, -, -, safety, -⟩ := powerOn_halts high s
    exact ⟨state, cause, stop, safety rfl⟩

/-- Settles O8, family by family of rows: host cycles and blocks (`exec_places`), fetches, record words, the memory command
unit's words; a power-on begins with the set empty, a line reset with the set full. -/
theorem changedWordsEnterThePublicationSet : Obligations.ChangedWordsEnterThePublicationSet := by
  unfold Obligations.ChangedWordsEnterThePublicationSet
  refine ⟨publishedOffsets_rise, mem_publishedOffsets_iff, fun c s t runs => ⟨?rows, ?fetch, ?records, ?memory⟩,
    fun i s t u runs low => ?power, fun i cut s t written runs => ?reset⟩
  case rows => exact fun reset grant first => exec_places reset grant first runs
  case fetch =>
    rintro rfl
    obtain rfl := Host.Outcome.next.inj runs
    exact (places_nil_iff s _).mp (places_ite (serveFetch_places s))
  case records =>
    intro row
    have placed := recordRow_places row runs
    simpa only [State.places, not_indexOffsets] using placed
  case memory =>
    intro row
    rcases memRow_exec row runs with rfl | ⟨k, rfl⟩
    · exact ⟨fun _ _ => (publicationWith_self t).symm, fun changed => absurd ⟨rfl, rfl⟩ changed⟩
    · rw [serveMem_publication]
      exact ⟨fun state result => if_neg (by simp [← state, ← result]),
        fun changed => if_pos (not_and_or.mp changed)⟩
  case power =>
    obtain rfl := Host.Outcome.next.inj runs
    have same : s.poweredOn i = u := by
      rw [← Host.Outcome.next.inj low, sampleSafe_low rfl, commit_poweredOn]; rfl
    have kept := labelWorkOnly_publication (sampleSafe_labelWork (s.poweredOn i) i)
    rw [commit_publication _ _ kept, publicationWith_empty rfl, same]
  case reset =>
    have done : exec (.lineReset i cut) s = .next (s.takeLineReset i cut) :=
      congrArg Host.Outcome.next (if_neg (by simp [written]))
    obtain rfl := Host.Outcome.next.inj (done.symm.trans runs)
    have kept := labelWorkOnly_publication (sampleSafe_labelWork (s.lineReset i) i)
    have placed := (commit_publication _ _ kept).trans (publicationWith_full rfl _)
    cases cut with
    | false => exact placed
    | true => exact placed

end Sys2Proof.Proofs
end

section
/-! Settings, the region map and its lock (11 R172 to R175): what each field is clamped to or decoded as, the windows that
a map write makes inactive, and what is refused. -/

namespace Sys2Proof.Machine

/-! ## Refused setting and map writes (11 R172, R174) -/

theorem mapOffset_lt (e : MapEntryName) : mapOffset e < 512 := by
  cases e with
  | orderRing l => cases l <;> decide
  | stackRing => decide
  | eventRing => decide
  | verdictCells => decide

theorem controlWord_map (e : MapEntryName) : controlWord (mapOffset e) = .mapEntry e := by
  cases e with
  | orderRing l => cases l <;> rfl
  | stackRing => rfl
  | eventRing => rfl
  | verdictCells => rfl

theorem writeControl_setting (s : State) (x : Setting) (d : Word) :
    s.writeControl (settingOffset x) d = s.writeSetting x d := by
  rw [State.writeControl, controlWord_setting]

theorem writeControl_map (s : State) (e : MapEntryName) (d : Word) :
    s.writeControl (mapOffset e) d = s.writeMap e d := by
  rw [State.writeControl, controlWord_map]

/-- A setting write refused: SETTING_REFUSED given and raised, nothing stored, the cycle OK. -/
theorem pageWrite_refusesSetting {s : State} (next : s.hostNext) {off : Nat} (inside : off < 512) {d : Word}
    (refused : s.writeControl off d = (s.refuseSetting off d).endOk) :
    ∃ t, Host.Outcome.next (s.pageWrite off d) = (.next t : Host.Outcome State Fault Refusal) ∧ s.sameMemory t ∧
      t = ((s.giveRaise .settingRefused
        { code := .settingRefused, address := some (4193792 + off), value := some d }).endHost
          true none).bookkeptAs t := by
  have eq := pageWrite_eq next inside refused
  obtain ⟨memory, power⟩ := reportOnly_memory (giveRaise_reportOnly s .settingRefused
    { code := .settingRefused, address := some (pageAddress off), value := some d })
  exact ⟨_, rfl, by rw [eq]; exact sameMemory_of_eq memory power, eq⟩

theorem writeSetting_geometry {s : State} {x : Setting} (d : Word) (geometry : isGeometry x = true)
    (going : s.engine.state ≠ .stopped) :
    s.writeSetting x d = (s.refuseSetting (settingOffset x) d).endOk :=
  if_pos (by simp [geometry, going])

theorem writeSetting_unknown {s : State} {x : Setting} {d : Word} (free : isGeometry x = false)
    (unknown : s.settings.take x d = none) :
    s.writeSetting x d = (s.refuseSetting (settingOffset x) d).endOk := by
  rw [State.writeSetting, if_neg (by simp [free]), unknown]

theorem writeMap_refused {s : State} (e : MapEntryName) (d : Word)
    (closed : s.regions.locked = true ∨ s.engine.state ≠ .stopped) :
    s.writeMap e d = (s.refuseSetting (mapOffset e) d).endOk :=
  if_pos (by simpa using closed)

theorem policyOfCode_unknown {n : Nat} (h : 2 ≤ n) : policyOfCode n = none := by
  obtain ⟨k, rfl⟩ := Nat.exists_eq_add_of_le' h; rfl

theorem toleranceOfCode_unknown {n : Nat} (h : 2 ≤ n) : toleranceOfCode n = none := by
  obtain ⟨k, rfl⟩ := Nat.exists_eq_add_of_le' h; rfl

theorem reportingOfCode_unknown {n : Nat} (h : 5 ≤ n) : reportingOfCode n = none := by
  obtain ⟨k, rfl⟩ := Nat.exists_eq_add_of_le' h; rfl

/-! ## Settings taken (11 R172) -/

/-- The 16-bit field of a setting word as the statements write it. -/
def settingValue (d : Word) : Word := (settingField d).setWidth 32

/-- A word's setting value brought into a range. -/
def clampValue (lo hi : Nat) (d : Word) : Nat := max lo (min hi (settingValue d).toNat)

theorem settingValue_toNat (d : Word) : (settingValue d).toNat = (settingField d).toNat := by
  rw [settingValue, BitVec.toNat_setWidth_of_le (by decide)]

theorem clampHalf_eq {lo hi : Nat} (ordered : lo ≤ hi) (d : Word) :
    clampHalf lo hi (settingField d) = BitVec.ofNat 16 (clampValue lo hi d) :=
  congrArg (BitVec.ofNat 16) (clampNat_eq lo hi (settingField d) ordered)

theorem clampHalf_word {lo hi : Nat} (ordered : lo ≤ hi) (half : hi ≤ 65535) (d : Word) :
    (clampHalf lo hi (settingField d)).setWidth 32 = BitVec.ofNat 32 (clampValue lo hi d) := by
  have within : clampValue lo hi d ≤ 65535 := by unfold clampValue; omega
  rw [clampHalf_eq ordered]
  apply BitVec.eq_of_toNat_eq
  simp only [BitVec.toNat_setWidth, BitVec.toNat_ofNat]
  omega

/-- The whole range of a 16-bit field clamps nothing. -/
theorem clampValue_whole (d : Word) : clampValue 0 65535 d = (settingValue d).toNat := by
  have within := (settingField d).isLt
  rw [clampValue, settingValue_toNat]
  omega

section
variable {s : State} (next : s.hostNext) {x : Setting} {d : Word}
  (geometry : isGeometry x = true → s.engine.state = .stopped)
include next geometry

/-- A range setting is clamped into its range, in the working copy and in memory. -/
theorem settingWrite_clamped (lo hi : Nat) (ordered : lo ≤ hi) (half : hi ≤ 65535) (f : Half → Settings)
    (ranged : s.settings.take x d =
      some (f (clampHalf lo hi (settingField d)), (clampHalf lo hi (settingField d)).setWidth 32))
    (other : x ≠ .checkMode) : ∃ t, exec (.settingWrite x d) s = .next t ∧
      t = ((({ s with settings := f (BitVec.ofNat 16 (clampValue lo hi d)) } : State).storeWord
        (4193792 + settingOffset x) (BitVec.ofNat 32 (clampValue lo hi d))).endHost true none).bookkeptAs t := by
  rw [clampHalf_word ordered half, clampHalf_eq ordered] at ranged
  exact settingWrite_taken s next x d _ _ geometry ranged other

/-- A setting of the whole 16-bit range is taken as written. -/
theorem settingWrite_whole (f : Half → Settings)
    (ranged : s.settings.take x d =
      some (f (clampHalf 0 65535 (settingField d)), (clampHalf 0 65535 (settingField d)).setWidth 32))
    (other : x ≠ .checkMode) : ∃ t, exec (.settingWrite x d) s = .next t ∧
      t = ((({ s with settings := f (BitVec.ofNat 16 (settingValue d).toNat) } : State).storeWord
        (4193792 + settingOffset x) (settingValue d)).endHost true none).bookkeptAs t := by
  have taken := settingWrite_clamped next geometry 0 65535 (by decide) (by decide) f ranged other
  have word : BitVec.ofNat 32 (settingValue d).toNat = settingValue d := by simp
  rw [clampValue_whole, word] at taken
  exact taken

end

/-- A written field that holds a code. -/
theorem settingField_of_value {d : Word} {n : Word} (h : settingValue d = n) : settingField d = n.setWidth 16 := by
  rw [← h, settingValue, BitVec.setWidth_setWidth_of_le _ (by decide), BitVec.setWidth_eq]

/-- A check mode's code is taken as it is, an unknown one as CHECK_SCRUB (09 R147). -/
theorem checkMode_taken (d : Word) : (checkModeOfCode (settingField d).toNat).getD .checkScrub =
    if settingValue d = 0 then .off else if settingValue d = 1 then .check else .checkScrub := by
  have code (n : Word) : settingValue d = n ↔ (settingField d).toNat = n.toNat := by
    rw [← settingValue_toNat, BitVec.toNat_inj]
  simp only [code]
  generalize (settingField d).toNat = n
  match n with
  | 0 => rfl
  | 1 => rfl
  | 2 => rfl
  | n + 3 => rfl

theorem settleScrub_checkMode (s : State) : s.settleScrub .checkMode =
    { s with scrubQueue := if s.settings.checkMode = .checkScrub then s.scrubQueue else [] } := by
  by_cases mode : s.settings.checkMode = .checkScrub <;> simp [State.settleScrub, mode]

/-! ## Map entries taken (11 R174) -/

theorem clampNat_size {lo hi : Nat} (ordered : lo ≤ hi) (n : Nat) : clampNat lo hi n = max lo (min hi n) := by
  unfold clampNat
  split_ifs <;> omega

/-- A map entry's word: its size at bit 24 above its base. -/
theorem mapEntry_word (e : MapEntry) : e.word = (0#4 ++ e.size ++ 0#2 ++ e.base : BitVec 32) := by
  rw [MapEntry.word]
  apply BitVec.eq_of_getLsbD_eq
  intro i inside
  have base := e.base.getLsbD_of_ge i
  have size := e.size.getLsbD_of_ge (i - 24)
  rw [BitVec.getLsbD_or, getLsbD_packField, getLsbD_packField]
  simp only [BitVec.getLsbD_append, BitVec.getLsbD_zero, inside, decide_true, Bool.true_and]
  grind

/-- The entry that a map write takes, by its base and its clamped size. -/
theorem takenEntry_eq (e : MapEntryName) (d : Word) : takenEntry e d =
    { base := d.extractLsb' 0 22
      size := match e with
        | .orderRing _ => BitVec.ofNat 4 (max 2 (min 10 (d.extractLsb' 24 4).toNat))
        | .stackRing => BitVec.ofNat 4 (max 3 (min 10 (d.extractLsb' 24 4).toNat))
        | .eventRing => BitVec.ofNat 4 (max 4 (min 12 (d.extractLsb' 24 4).toNat))
        | .verdictCells => 0 } := by
  cases e with
  | orderRing l => rw [takenEntry, mapEntryOf, clampNat_size (by decide)]; rfl
  | stackRing => rw [takenEntry, mapEntryOf, clampNat_size (by decide)]; rfl
  | eventRing => rw [takenEntry, mapEntryOf, clampNat_size (by decide)]; rfl
  | verdictCells => rfl

/-- The working map with an entry taken, and the ring that it maps reset. -/
def State.mapped (s : State) (e : MapEntryName) (x : MapEntry) : State :=
  ({ s with regions := s.regions.withEntry e x } : State).resetRing e

theorem mapped_window0 (s : State) (e : MapEntryName) (x : MapEntry) : (s.mapped e x).window0 = s.window0 := by
  cases e <;> rfl

theorem mapped_window1 (s : State) (e : MapEntryName) (x : MapEntry) : (s.mapped e x).window1 = s.window1 := by
  cases e <;> rfl

theorem writeMap_taken {s : State} (e : MapEntryName) (d : Word) (unlocked : s.regions.locked = false)
    (stopped : s.engine.state = .stopped) : s.writeMap e d =
      (((s.mapped e (takenEntry e d)).recheckWindow .w0).recheckWindow .w1).storeControl (mapOffset e)
        (takenEntry e d).word :=
  if_neg (by simp [unlocked, stopped])

/-- A window re-evaluated after a map write, given whether it is active and meets a mapped region (09 R150). -/
theorem recheckWindow_eq {s : State} {n : WindowName} {cleared : Bool}
    (h : cleared = true ↔ (s.exemptWindow n).active = true ∧ (s.exemptWindow n).meets s.regions) :
    s.recheckWindow n = if cleared then
        (s.setExemptWindow n { s.exemptWindow n with active := false }).give
          { code := .exemptWindowCleared, address := some (s.exemptWindow n).base.toNat,
            value := some (BitVec.ofNat 32 (windowNumber n)) }
      else s := by
  have test : ((s.exemptWindow n).active && (s.exemptWindow n).overlapsMapped s.regions) = cleared := by
    rw [Bool.eq_iff_iff, h, Bool.and_eq_true, overlapsMapped_iff]
  rw [← test]
  rfl

theorem recheckWindow_window1 (s : State) : (s.recheckWindow .w0).window1 = s.window1 := by
  unfold State.recheckWindow
  dsimp only
  split
  · exact giveAt_window1 _ _ _
  · rfl

theorem recheckWindow_regions (s : State) : (s.recheckWindow .w0).regions = s.regions := by
  unfold State.recheckWindow
  dsimp only
  split
  · exact giveAt_regions _ _ _
  · rfl

/-! ## The map lock (11 R175) -/

theorem lockWord_eq (m : RegionMap) : m.lockWord = if m.locked then 1 else 0 := by
  unfold RegionMap.lockWord
  cases m.locked <;> rfl

theorem refuseSetting_regions (s : State) (off : Nat) (d : Word) : (s.refuseSetting off d).regions = s.regions :=
  giveAt_regions _ _ _

section
variable {s : State}

theorem writeLock_locks (unlocked : s.regions.locked = false) (lockable : s.regions.lockable = true) :
    s.writeLock 1 = ({ s with regions := { s.regions with locked := true } } : State).storeControl 0x067 1 := by
  simp only [State.writeLock, unlocked, lockable, if_true, Bool.false_eq_true, if_false]
  rfl

theorem writeLock_unlockable (unlocked : s.regions.locked = false) (overlaps : ¬ s.regions.lockable = true) :
    s.writeLock 1 = (s.refuseSetting 0x067 1).storeControl 0x067 0 := by
  simp only [State.writeLock, unlocked, overlaps, if_true, Bool.false_eq_true, if_false, refuseSetting_regions,
    lockWord_eq]

theorem writeLock_same {d : Word} (same : d = 1 ∧ s.regions.locked = true ∨ d = 0) :
    s.writeLock d = s.storeControl 0x067 (if s.regions.locked then 1 else 0) := by
  rw [← lockWord_eq]
  rcases same with ⟨rfl, locked⟩ | rfl
  · simp only [State.writeLock, locked, if_true]
  · rfl

theorem writeLock_unknown {d : Word} (notZero : d ≠ 0) (notOne : d ≠ 1) :
    s.writeLock d = (s.refuseSetting 0x067 d).storeControl 0x067 (if s.regions.locked then 1 else 0) := by
  simp only [State.writeLock, notZero, notOne, if_false, refuseSetting_regions, lockWord_eq]

end

end Sys2Proof.Machine

namespace Sys2Proof.Proofs

open Sys2Proof.Machine

/-- Settles O40: the range settings by `settingWrite_clamped` and `settingWrite_whole`, each enumeration by its codes, the
check mode by what its code is taken as. -/
theorem settingWritesAreTaken : Obligations.SettingWritesAreTaken := by
  unfold Obligations.SettingWritesAreTaken
  intro d v s next written stored clamp
  obtain rfl : v = settingValue d := written
  have code {n : Word} (h : settingValue d = n) : settingField d = n.setWidth 16 := settingField_of_value h
  refine ⟨fun stopped => ?geometry, ?free, fun m mode => ?checkMode⟩
  case geometry =>
    have clamped (x : Setting) (lo hi : Nat) (f : Half → Settings) (ordered : lo ≤ hi) (half : hi ≤ 65535) :=
      settingWrite_clamped (x := x) (d := d) next (fun _ => stopped) lo hi ordered half f
    refine ⟨?_, ?_, ?_, ?_, ?_, ?_, fun l => ?_, ?_⟩
    · exact clamped .verdictDeadline 1 65535 (fun y => { s.settings with dv := y }) (by decide) (by decide) rfl nofun
    · exact clamped .knifeDistance 1 65535 (fun y => { s.settings with dk := y }) (by decide) (by decide) rfl nofun
    · exact clamped .gateDistance 1 65535 (fun y => { s.settings with dg := y }) (by decide) (by decide) rfl nofun
    · exact clamped .confirmDistance 1 65535 (fun y => { s.settings with kc := y }) (by decide) (by decide) rfl nofun
    · exact clamped .minimumPitch 128 65535 (fun y => { s.settings with pmin := y }) (by decide) (by decide) rfl nofun
    · exact clamped .registrationWindow 1 255 (fun y => { s.settings with w := y }) (by decide) (by decide) rfl nofun
    · exact clamped (.lanePitch l) 128 65535 (fun y => { s.settings with lanePitch := s.settings.lanePitch.set l y })
        (by decide) (by decide) rfl nofun
    · exact settingWrite_whole (x := .reverseLimit) next (fun _ => stopped)
        (fun y => { s.settings with reverseLimit := y }) rfl nofun
  case free =>
    have enumeration {x : Setting} {c : Settings} {w : Word} (free : isGeometry x = false) (other : x ≠ .checkMode)
        (taken : s.settings.take x d = some (c, w)) : stored x c w :=
      settingWrite_taken s next x d w c (by simp [free]) taken other
    refine ⟨fun l => ?_, ?_, ?_, fun h => ?_, fun h => ?_, fun h => ?_, fun h => ?_, fun h => ?_, fun h => ?_,
      fun h => ?_, fun h => ?_, fun h => ?_⟩
    · exact settingWrite_clamped (x := .laneTarget l) next nofun 1 9999 (by decide) (by decide)
        (fun y => { s.settings with laneTarget := s.settings.laneTarget.set l y }) rfl nofun
    · exact settingWrite_whole (x := .correctableThreshold) next nofun
        (fun y => { s.settings with correctableThreshold := y }) rfl nofun
    · exact enumeration rfl nofun rfl
    all_goals exact enumeration rfl nofun (by simp only [Settings.take, code h]; rfl)
  case checkMode =>
    subst mode
    refine pageWrite_answers s next 0x050 (by decide) d _ ((writeControl_setting s .checkMode d).trans ?_)
    rw [State.writeSetting, if_neg (by simp [isGeometry])]
    simp only [Settings.take, settleScrub_checkMode, checkMode_taken]
    rfl

/-- Settles O41: what the geometry test, the enumeration test and the map's conditions refuse. -/
theorem settingAndMapWritesRefused : Obligations.SettingAndMapWritesRefused := by
  unfold Obligations.SettingAndMapWritesRefused
  intro d s next refused
  have setting {x : Setting} (h : s.writeSetting x d = (s.refuseSetting (settingOffset x) d).endOk) :
      refused (.settingWrite x d) (settingOffset x) :=
    pageWrite_refusesSetting next (settingOffset_lt x) ((writeControl_setting s x d).trans h)
  refine ⟨fun x going geometry => ?_, fun unknown => ?_, fun unknown => ?_, fun unknown => ?_, fun e closed => ?_⟩
  · have isOne : isGeometry x = true := by
      rcases geometry with listed | ⟨l, rfl⟩
      · revert x; decide
      · rfl
    exact setting (writeSetting_geometry d isOne going)
  · exact setting (writeSetting_unknown (x := .undecidedPolicy) rfl
      (by simp only [Settings.take, settingField, policyOfCode_unknown unknown]; rfl))
  · exact setting (writeSetting_unknown (x := .blankTolerance) rfl
      (by simp only [Settings.take, settingField, toleranceOfCode_unknown unknown]; rfl))
  · exact setting (writeSetting_unknown (x := .reportingMode) rfl
      (by simp only [Settings.take, settingField, reportingOfCode_unknown unknown]; rfl))
  · exact pageWrite_refusesSetting next (mapOffset_lt e) ((writeControl_map s e d).trans (writeMap_refused e d closed))

/-- Settles O42: the entry taken and its ring reset (`State.mapped`), then each window re-evaluated. -/
theorem mapWriteIsTaken : Obligations.MapWriteIsTaken := by
  unfold Obligations.MapWriteIsTaken
  intro e d w s s1 u0 u1 base size c0 c1 next unlocked stopped clamp hbase hsize mapped cleared0 cleared1 hu0 hu1 word
  have entry : takenEntry e d = ⟨base, size⟩ := by subst hbase hsize; exact takenEntry_eq e d
  obtain rfl : s1 = s.mapped e ⟨base, size⟩ := by rw [mapped]; cases e <;> rfl
  have first : (s.mapped e ⟨base, size⟩).recheckWindow .w0 = u0 := by
    rw [hu0, ← mapped_window0 s e ⟨base, size⟩]
    exact recheckWindow_eq (by rw [State.exemptWindow, mapped_window0]; exact cleared0)
  have window1 : u0.window1 = s.window1 := by rw [← first, recheckWindow_window1, mapped_window1]
  have second : u0.recheckWindow .w1 = u1 := by
    rw [hu1, ← window1]
    refine recheckWindow_eq ?_
    rw [State.exemptWindow, window1, ← first, recheckWindow_regions]
    exact cleared1
  refine pageWrite_answers s next _ (mapOffset_lt e) d _ ((writeControl_map s e d).trans ?_)
  rw [writeMap_taken e d unlocked stopped, entry, first, second, mapEntry_word, word]
  rfl

/-- Settles O43: the write by the value and the lock's two conditions, which `lockable_iff` says by addresses. -/
theorem mapLockIsWriteOnce : Obligations.MapLockIsWriteOnce := by
  unfold Obligations.MapLockIsWriteOnce
  intro d s next apart refusal
  have conditions : s.regions.lockable = true ↔ apart := lockable_iff s.regions
  have answers {u : State} (h : s.writeLock d = u) := pageWrite_answers s next 0x067 (by decide) d u h
  refine ⟨?locks, ?overlaps, fun same => answers (writeLock_same same),
    fun notZero notOne => answers (writeLock_unknown notZero notOne)⟩
  case locks =>
    rintro rfl unlocked regions
    exact answers (writeLock_locks unlocked (conditions.mpr regions))
  case overlaps =>
    rintro rfl unlocked regions
    exact answers (writeLock_unlockable unlocked (mt conditions.mp regions))

end Sys2Proof.Proofs
end

section
/-! Events, classes, detections, scrub offers, ATTN and STOPREQ (11 R178 to R181, 09 R151 to R157, 07 R124): one equation
for each outcome of giving an event, counting a correction and offering a scrub. -/

namespace Sys2Proof.Machine

/-! ## Events (11 R178) -/

/-- The state with the next event sequence number taken. -/
def State.sequenced (s : State) : State :=
  { s with writer := { s.writer with eventSequence := s.writer.eventSequence + 1 } }

section
variable {s : State} (p : WebPos) {b : EventBody}

/-- An event that the reporting mode drops takes a sequence number alone. -/
theorem giveAt_dropped (dropped : s.settings.reportingMode.keeps b.code.severity = false) :
    s.giveAt p b = s.sequenced := if_neg (by simp [dropped])

variable (kept : s.settings.reportingMode.keeps b.code.severity = true)
include kept

theorem giveAt_joins (room : s.writer.events.length < 8) : s.giveAt p b =
    { s.sequenced with writer := { s.sequenced.writer with events := s.writer.events ++
        [{ sequence := s.writer.eventSequence, code := b.code, lane := b.lane, serial := b.serial,
           address := b.address, value := b.value, position := p }] } } :=
  (if_pos kept).trans (if_pos room)

theorem giveAt_lost (full : 8 ≤ s.writer.events.length) :
    s.giveAt p b = s.sequenced.raiseClass .eventsLost none none none :=
  (if_pos kept).trans (if_neg (Nat.not_lt.mpr full))

end

theorem giveRaise_eq (s : State) (c : SummaryClass) (b : EventBody) :
    s.giveRaise c b = (s.give b).raiseClass c b.lane b.serial b.address := rfl

theorem giveRaise_capture (s : State) (c : SummaryClass) (b : EventBody) : (s.giveRaise c b).capture = s.capture :=
  giveAt_capture s _ b

/-! ## Detections (09 R153, R154, R157) -/

/-- The state with the correctable count raised, as far as it holds. -/
def State.correctionCounted (s : State) : State :=
  { s with capture := { s.capture with
      count := if s.capture.count < 65535 then s.capture.count + 1 else s.capture.count } }

/-- The count reports CORRECTABLE_LIMIT where it rises to the threshold (09 R157). -/
theorem countCorrection_eq (s : State) : s.countCorrection =
    if s.capture.count < 65535 ∧ s.capture.count + 1 = s.settings.correctableThreshold.toNat then
      s.correctionCounted.giveRaise .correctableLimit
        { code := .correctableLimit, value := some (BitVec.ofNat 32 (s.capture.count + 1)) }
    else s.correctionCounted := by
  by_cases rises : s.capture.count < 65535 <;>
    simp [State.countCorrection, State.correctionCounted, raiseHolding, Config.countHold, rises]

theorem countCorrection_capture (s : State) : s.countCorrection.capture = s.correctionCounted.capture := by
  rw [countCorrection_eq]
  split
  · exact giveRaise_capture _ _ _
  · rfl

/-! ## Scrub offers (09 R151) -/

section
variable {s : State} {a : Nat}

theorem offerScrub_none (h : s.settings.checkMode ≠ .checkScrub ∨ a ∈ s.scrubQueue) : s.offerScrub a = s := by
  by_cases mode : s.settings.checkMode = .checkScrub
  · have queued := h.resolve_left (not_not_intro mode)
    rw [State.offerScrub, if_neg (by simp [mode]), if_pos (by simpa using queued)]
  · exact if_pos (by simpa using mode)

variable (mode : s.settings.checkMode = .checkScrub) (new : a ∉ s.scrubQueue)
include mode new

theorem offerScrub_joins (room : s.scrubQueue.length < 4) :
    s.offerScrub a = { s with scrubQueue := s.scrubQueue ++ [a] } := by
  rw [State.offerScrub, if_neg (by simp [mode]), if_neg (by simpa using new)]
  exact if_pos room

theorem offerScrub_skipped (full : 4 ≤ s.scrubQueue.length) :
    s.offerScrub a = s.raiseClass .scrubSkipped none none none := by
  rw [State.offerScrub, if_neg (by simp [mode]), if_neg (by simpa using new)]
  exact if_neg (Nat.not_lt.mpr full)

end

/-! ## ATTN and STOPREQ (11 R181, 07 R124) -/

theorem attn_iff (s : State) : s.attn = true ↔
    ∃ i, i < 13 ∧ s.summary.getLsbD i = true ∧ s.settings.attentionMask.getLsbD i = true := by
  have zero_iff : s.summary &&& s.settings.attentionMask = 0#13 ↔
      ∀ i < 13, (s.summary.getLsbD i && s.settings.attentionMask.getLsbD i) = false := by
    simp only [BitVec.eq_of_getLsbD_eq_iff, BitVec.getLsbD_and, BitVec.getLsbD_zero]
  rw [State.attn, bne_iff_ne, ne_eq]
  refine (not_congr zero_iff).trans ?_
  simp only [not_forall, Bool.not_eq_false, Bool.and_eq_true, exists_prop]

theorem isFaulted_iff (v : Service) : v.isFaulted = true ↔ ∃ c, v = .faulted c := by
  cases v with
  | faulted c => exact iff_of_true rfl ⟨c, rfl⟩
  | off => exact iff_of_false nofun nofun
  | active => exact iff_of_false nofun nofun
  | draining => exact iff_of_false nofun nofun
  | bypassed => exact iff_of_false nofun nofun

theorem mem_inOrder (l : Lane) : l ∈ Lane.inOrder := by cases l <;> decide

theorem stopReq_iff (s : State) :
    s.stopReq = true ↔ s.engine.state = .halted ∨ ∃ l c, (s.lane l).service = .faulted c := by
  simp only [State.stopReq, Bool.or_eq_true, beq_iff_eq, List.any_eq_true, isFaulted_iff, mem_inOrder, true_and]

end Sys2Proof.Machine

namespace Sys2Proof.Proofs

open Sys2Proof.Machine

/-- Settles O56: the equations of each operation, with the statement's table of class bits and severities read as the
model's. -/
theorem eventsReportsAndAttention : Obligations.EventsReportsAndAttention := by
  unfold Obligations.EventsReportsAndAttention
  intro bit raised consuming
  have bits (c : SummaryClass) : c.bit = bit c := by cases c <;> rfl
  have raises (s : State) (c : SummaryClass) (l : Option Lane) (n : Option Serial) (a : Option Nat) :
      s.raiseClass c l n a = raised s { cls := c, lane := l, serial := n, address := a, position := s.web.position } := by
    simp only [State.raiseClass, offerPrimary, bits]
    rfl
  have consumes (src : Source) : src.consuming = consuming src := by cases src <;> rfl
  refine ⟨fun s u p b e kept he hu hkept => ?given, raises, fun s c b => ?report,
    fun s counted u src a i hcounted hu => ?detected, fun s u src consumed a d hu => ?captured, fun s a => ?offered,
    fun s => ⟨attn_iff s, stopReq_iff s⟩⟩
  case given =>
    subst he hu
    have keeps : s.settings.reportingMode.keeps b.code.severity = kept := by
      rw [hkept]
      cases s.settings.reportingMode <;> cases b.code.severity <;> rfl
    refine ⟨fun drops => giveAt_dropped p (keeps.trans drops), fun joins room => giveAt_joins p (keeps.trans joins) room,
      fun joins full => ?_, rfl⟩
    rw [giveAt_lost p (keeps.trans joins) full, raises]
    rfl
  case report => rw [giveRaise_eq, raises, State.give, giveAt_web]
  case detected =>
    subst hcounted
    obtain rfl : u = s.countCorrection := by rw [hu, countCorrection_eq]; rfl
    rw [State.detectCorrectable, countCorrection_capture, ← consumes]
    rfl
  case captured =>
    subst hu
    refine ⟨rfl, ?_⟩
    rintro rfl
    cases d <;> rfl
  case offered =>
    refine ⟨offerScrub_none, offerScrub_joins, fun mode new full => ?_⟩
    rw [offerScrub_skipped mode new full, raises]

end Sys2Proof.Proofs
end

section
/-! The step and the rows as the statements read them: a step is its front command, and a row that writes a control word is
the full-word write of that word. -/

namespace Sys2Proof.Machine

/-- A full-word write to an offset of the control page is the host cycle of that word. -/
theorem exec_hostWrite_page (s : State) (off : Nat) (d : Word) :
    exec (.hostWrite (BitVec.ofNat 22 (4193792 + off)) d) s = .next (s.pageWrite off d) := rfl

theorem exec_putWrite (s : State) (l : Lane) (d : Word) :
    exec (.putWrite l d) s = exec (.hostWrite (BitVec.ofNat 22 (4193792 + 0x080 + 4 * l.number)) d) s := by
  rw [Nat.add_assoc, exec_hostWrite_page]
  rfl

end Sys2Proof.Machine

namespace Sys2Proof.Proofs

open Sys2Proof.Machine

/-- Settles O1: by the definition of a step. -/
theorem stepTakesFrontCommand : Obligations.StepTakesFrontCommand := by
  unfold Obligations.StepTakesFrontCommand
  exact fun _ _ _ => rfl

/-- Settles O29: each row writes the page at its word's offset with its word, as the full-word write does; only the address
of a put word is spelled otherwise. -/
theorem rowsAreWritesOfTheirWord : Obligations.RowsAreWritesOfTheirWord := by
  unfold Obligations.RowsAreWritesOfTheirWord
  intro s d o c rest
  have put := fun l => exec_putWrite s l d
  simp only [exec_hostWrite_page]
  exact ⟨fun _ => rfl, put, rfl, rfl, rfl, rfl, rfl, rfl, rfl, rfl, rfl, rfl, fun _ => rfl, rfl, rfl, rfl, rfl, rfl, rfl,
    fun _ => rfl, rfl, rfl, rfl, rfl, fun _ => rfl, rfl, fun _ => rfl, rfl, fun _ _ => rfl⟩

end Sys2Proof.Proofs
end

section
/-! The layouts of the words that the part stores (11 R177, 12 sections 12.2 to 12.6). A field at its place is the union's
part that a concatenation has there (`place_append`), so a packed word is the concatenation of its fields as soon as the
places agree; the statement's tables of codes are the model's. -/

namespace Sys2Proof.Machine

/-! ## Fields at their places -/

/-- A field moved up to its lowest bit in a word. -/
def place {n : Nat} (lo : Nat) (x : BitVec n) : Word := x.setWidth 32 <<< lo

theorem place_append {m n : Nat} (lo : Nat) (x : BitVec m) (y : BitVec n) :
    place lo (x ++ y) = place lo y ||| place (lo + n) x := by
  apply BitVec.eq_of_getLsbD_eq
  intro i inside
  have beyond := y.getLsbD_of_ge (i - lo)
  simp only [place, BitVec.getLsbD_or, BitVec.getLsbD_shiftLeft, BitVec.getLsbD_setWidth, BitVec.getLsbD_append]
  grind

@[simp] theorem place_zero (n lo : Nat) : place lo 0#n = 0 := by simp [place]

@[simp] theorem place_packField {lo width : Nat} (v : Nat) (inside : lo + width ≤ 32) :
    packField lo width v = place lo (BitVec.ofNat width v) := packField_eq lo width v inside

@[simp] theorem place_packBit {lo : Nat} (b : Bool) (inside : lo < 32) : packBit lo b = place lo (BitVec.ofBool b) :=
  packBit_eq lo b inside

/-- A word is a concatenation when it is the union of the concatenation's fields at their places. -/
theorem eq_of_place {v w : Word} (h : v = place 0 w) : v = w := by rw [h]; simp [place]

/-! A field in the low bits of a word, zero above it. -/

theorem packField_half_append (v : BitVec 16) : packField 0 16 v.toNat = 0#16 ++ v := eq_of_place (by simp [↓place_append])
theorem packField_address (a : Nat) : packField 0 22 a = 0#10 ++ BitVec.ofNat 22 a := eq_of_place (by simp [↓place_append])
theorem packField_walked (n : Nat) : packField 0 23 n = 0#9 ++ BitVec.ofNat 23 n := eq_of_place (by simp [↓place_append])

/-! ## Optional fields -/

theorem ofNat_elim_toNat {n : Nat} (v : Option (BitVec n)) : BitVec.ofNat n (v.elim 0 BitVec.toNat) = v.getD 0 := by
  cases v with
  | none => rfl
  | some x => simp

theorem ofNat_trayCode (t : Option Tray) : BitVec.ofNat 1 (t.elim 0 Tray.code) = BitVec.ofBool (t == some .b) := by
  rcases t with _ | _ | _ <;> rfl

/-! ## Stack records (12 section 12.5) -/

section
variable (r : StackRecord)

theorem stackRecord_header : r.word 0 = r.sequence ++ 0#6 ++ BitVec.ofBool r.first.isSome ++
    BitVec.ofBool r.batch.isSome ++ BitVec.ofNat 4 r.reason.code ++ BitVec.ofBool (r.tray == some .b) ++
    BitVec.ofBool r.tray.isSome ++ BitVec.ofNat 2 r.lane.number :=
  eq_of_place (by simp [↓place_append, StackRecord.word, BitVec.or_assoc, ofNat_trayCode])

theorem stackRecord_counts : r.word 1 = BitVec.ofNat 16 r.count ++ r.batch.getD 0 :=
  eq_of_place (by simp [↓place_append, StackRecord.word, ofNat_elim_toNat])

theorem stackRecord_missing :
    r.word 4 = BitVec.ofNat 16 r.short.overflow ++ 0#12 ++ BitVec.ofNat 4 r.short.entries.length :=
  eq_of_place (by simp [↓place_append, StackRecord.word])

theorem stackRecord_unordered : r.word 5 = 0#16 ++ BitVec.ofNat 16 r.short.unordered :=
  eq_of_place (by simp [↓place_append, StackRecord.word])

theorem reasonWord_eq (e : MissingEntry) :
    e.reasonWord = 0#23 ++ BitVec.ofBool e.undecided ++ e.defect ++ BitVec.ofNat 4 e.reason.code :=
  eq_of_place (by simp [↓place_append, MissingEntry.reasonWord, BitVec.or_assoc])

/-- From word 8 up, two words for each place of the missing list. -/
theorem stackRecord_place (k : Nat) : r.word (k + 8) =
    r.short.entries[k / 2]?.elim 0 (fun e => if k % 2 = 0 then e.serial else e.reasonWord) := by
  have parity : (k + 8) % 2 = k % 2 := by omega
  simp only [StackRecord.word, Nat.add_sub_cancel, parity]
  cases r.short.entries[k / 2]? <;> rfl

variable {r} {k : Nat}

theorem stackRecord_entry {e : MissingEntry} (listed : r.short.entries[k]? = some e) :
    r.word (8 + 2 * k) = e.serial ∧ r.word (9 + 2 * k) = e.reasonWord := by
  rw [show 8 + 2 * k = 2 * k + 8 by omega, show 9 + 2 * k = 2 * k + 1 + 8 by omega, stackRecord_place,
    stackRecord_place, show 2 * k / 2 = k by omega, show (2 * k + 1) / 2 = k by omega, listed]
  exact ⟨if_pos (by omega), if_neg (by omega)⟩

theorem stackRecord_noEntry (free : r.short.entries[k]? = none) : r.word (8 + 2 * k) = 0 ∧ r.word (9 + 2 * k) = 0 := by
  rw [show 8 + 2 * k = 2 * k + 8 by omega, show 9 + 2 * k = 2 * k + 1 + 8 by omega, stackRecord_place,
    stackRecord_place, show 2 * k / 2 = k by omega, show (2 * k + 1) / 2 = k by omega, free]
  exact ⟨rfl, rfl⟩

end

/-! ## Event records (12 section 12.6) -/

section
variable {e : Event}

theorem event_header (e : Event) : e.word 0 = 0#1 ++ BitVec.ofBool e.address.isSome ++ BitVec.ofBool e.serial.isSome ++
    BitVec.ofBool e.lane.isSome ++ BitVec.ofNat 2 (e.lane.elim 0 Lane.number) ++
    BitVec.ofNat 2 e.code.severity.code ++ BitVec.ofNat 8 e.code.code ++ e.sequence :=
  eq_of_place (by simp [↓place_append, Event.word, BitVec.or_assoc])

theorem event_serial {n : Serial} (h : e.serial = some n) : e.word 1 = n := by simp only [Event.word, h]

theorem event_value (serial : e.serial = none) (address : e.address ≠ none) : e.word 1 = e.value.getD 0 := by
  obtain ⟨a, h⟩ := Option.ne_none_iff_exists'.mp address
  simp only [Event.word, serial, h]

theorem event_neither (serial : e.serial = none) (address : e.address = none) : e.word 1 = 0 := by
  simp only [Event.word, serial, address]

theorem event_address {a : Nat} (h : e.address = some a) (code : e.code ≠ .uncorrectable) :
    e.word 2 = 0#10 ++ BitVec.ofNat 22 a := by
  simp only [Event.word, h, Event.detailBits, if_neg code]
  exact BitVec.or_zero.trans (packField_address a)

theorem event_uncorrectable {a : Nat} (h : e.address = some a) (code : e.code = .uncorrectable) :
    e.word 2 = 0#8 ++ (e.value.getD 0).extractLsb' 0 2 ++ BitVec.ofNat 22 a := by
  have detail : BitVec.ofNat 2 (e.value.elim 0 BitVec.toNat) = (e.value.getD 0).extractLsb' 0 2 := by
    cases e.value <;> rfl
  exact eq_of_place (by simp [↓place_append, Event.word, h, Event.detailBits, code, detail])

theorem event_noAddress (h : e.address = none) : e.word 2 = e.value.getD 0 := by simp only [Event.word, h]

end

/-! ## Published words (12 section 12.2) -/

section
variable (s : State)

theorem publishedWord_engine : s.publishedWord 0x002 = 0#23 ++ BitVec.ofBool s.engine.safe ++ 0#2 ++
    BitVec.ofNat 2 (s.engine.cause.elim 0 HaltCause.code) ++ 0#2 ++ BitVec.ofNat 2 s.engine.state.code := by
  unfold State.publishedWord
  exact eq_of_place (by simp [↓place_append, BitVec.or_assoc])

theorem publishedWord_backlog : s.publishedWord 0x004 = 0#15 ++ BitVec.ofNat 17 s.web.backlog := by
  unfold State.publishedWord
  exact eq_of_place (by simp [↓place_append])

theorem publishedWord_splice : s.publishedWord 0x005 = 0#31 ++ BitVec.ofBool s.web.splice := by
  unfold State.publishedWord
  exact eq_of_place (by simp [↓place_append])

theorem publishedWord_depths : s.publishedWord 0x006 =
    0#21 ++ BitVec.ofNat 3 s.writer.holding.length ++ 0#3 ++ BitVec.ofNat 5 s.early.length := by
  unfold State.publishedWord
  exact eq_of_place (by simp [↓place_append])

theorem publishedWord_commandStatus : s.publishedWord 0x011 =
    s.engine.detail ++ BitVec.ofNat 8 s.engine.result.code ++ s.engine.code ++ s.engine.sequence := by
  unfold State.publishedWord
  exact eq_of_place (by simp [↓place_append, BitVec.or_assoc])

theorem publishedWord_memoryStatus : s.publishedWord 0x024 = BitVec.ofNat 8 s.mem.result.code ++ 0#6 ++
    BitVec.ofNat 2 s.mem.state.code ++ s.mem.walk.getD 0 ++ s.mem.sequence := by
  unfold State.publishedWord
  exact eq_of_place (by simp [↓place_append, BitVec.or_assoc, ofNat_elim_toNat])

theorem publishedWord_faultAddress : s.publishedWord 0x029 =
    BitVec.ofBool s.mem.faultAddress.isSome ++ 0#9 ++ BitVec.ofNat 22 (s.mem.faultAddress.getD 0) := by
  unfold State.publishedWord
  cases h : s.mem.faultAddress with
  | none => rfl
  | some a => exact eq_of_place (by simp [↓place_append])

theorem publishedWord_refusal {c : Byte} {r : MemResult} (h : s.mem.lastRefusal = some (c, r)) :
    s.publishedWord 0x02A = 1#1 ++ 0#15 ++ BitVec.ofNat 8 r.code ++ c := by
  unfold State.publishedWord
  exact eq_of_place (by simp [↓place_append, h, BitVec.or_assoc])

theorem publishedWord_noRefusal (h : s.mem.lastRefusal = none) : s.publishedWord 0x02A = 0 := by
  unfold State.publishedWord
  simp only [h, Option.elim]

theorem publishedWord_probe : s.publishedWord 0x02B = 0#8 ++ s.mem.probe.check ++ 0#2 ++
    BitVec.ofNat 6 s.mem.probe.bit ++ 0#5 ++ BitVec.ofNat 3 s.mem.probe.outcome.probeCode := by
  unfold State.publishedWord
  exact eq_of_place (by simp [↓place_append, BitVec.or_assoc])

theorem publishedWord_fetch (l : Lane) : s.publishedWord (0x081 + 4 * l.number) = 0#16 ++ (s.lane l).fetch := by
  cases l <;> exact packField_half_append _

theorem publishedWord_release (l : Lane) : s.publishedWord (0x082 + 4 * l.number) = 0#16 ++ (s.lane l).release := by
  cases l <;> exact packField_half_append _

theorem publishedWord_correctableCount : s.publishedWord 0x0A4 = 0#16 ++ BitVec.ofNat 16 s.capture.count := by
  unfold State.publishedWord
  exact eq_of_place (by simp [↓place_append])

theorem publishedWord_summary : s.publishedWord 0x0A5 = 0#19 ++ s.summary := by
  unfold State.publishedWord
  exact eq_of_place (by simp [↓place_append])

theorem publishedWord_noPrimary (none : s.primary = none) {o : Nat} (low : 0x0A6 ≤ o) (high : o ≤ 0x0A9) :
    s.publishedWord o = 0 := by
  have empty : ∀ f, s.primary.elim (0 : Word) f = 0 := fun _ => by rw [none]; rfl
  obtain rfl | rfl | rfl | rfl : o = 0x0A6 ∨ o = 0x0A7 ∨ o = 0x0A8 ∨ o = 0x0A9 := by omega
  · exact empty _
  · exact empty _
  · exact empty _
  · exact congrArg primaryWord none

end

/-! ## Captures and the primary record (09 R154, 11 R180) -/

section
variable {δ : Type} {c : Capture δ}

theorem capture_empty (f : δ → Word) (h : c.contents = none) :
    c.statusWord f = 0#31 ++ BitVec.ofBool c.held ∧ c.addressWord = 0 := by
  simp only [Capture.statusWord, Capture.addressWord, h]
  exact ⟨eq_of_place (by simp [↓place_append]), trivial⟩

theorem capture_address {x : CaptureContents δ} (h : c.contents = some x) :
    c.addressWord = 0#10 ++ BitVec.ofNat 22 x.address := by
  simp only [Capture.addressWord, h, packField_address]

end

theorem correctable_status {c : Capture Nat} {x : CaptureContents Nat} (h : c.contents = some x) :
    c.statusWord (fun b => packField 16 6 b) = 0#10 ++ BitVec.ofNat 6 x.detail ++ 0#6 ++
      BitVec.ofNat 2 x.source.laneNumber ++ 0#1 ++ BitVec.ofNat 3 x.source.code ++ 0#2 ++ 1#1 ++ BitVec.ofBool c.held :=
  eq_of_place (by simp [↓place_append, Capture.statusWord, h, BitVec.or_assoc])

theorem uncorrectable_status {c : Capture Detail} {x : CaptureContents Detail} (h : c.contents = some x) :
    c.statusWord (fun d => packField 16 2 d.code) = 0#14 ++ BitVec.ofNat 2 x.detail.code ++ 0#6 ++
      BitVec.ofNat 2 x.source.laneNumber ++ 0#1 ++ BitVec.ofNat 3 x.source.code ++ 0#2 ++ 1#1 ++ BitVec.ofBool c.held :=
  eq_of_place (by simp [↓place_append, Capture.statusWord, h, BitVec.or_assoc])

/-- The presence word of a primary record. -/
theorem primaryWord_some (p : PrimaryRecord) : primaryWord (some p) = 0#19 ++ BitVec.ofBool p.address.isSome ++
    BitVec.ofBool p.serial.isSome ++ BitVec.ofNat 2 (p.lane.elim 0 Lane.number) ++ BitVec.ofBool p.lane.isSome ++
    BitVec.ofNat 4 p.cls.bit ++ 0#3 ++ 1#1 :=
  eq_of_place (by simp [↓place_append, primaryWord, BitVec.or_assoc])

theorem publishedWord_primary {s : State} {p : PrimaryRecord} (h : s.primary = some p) :
    s.publishedWord 0x0A6 = p.serial.getD 0 ∧ s.publishedWord 0x0A7 = BitVec.ofNat 32 (p.address.getD 0) ∧
    s.publishedWord 0x0A8 = p.position ∧ s.publishedWord 0x0A9 = primaryWord (some p) := by
  have read : ∀ f, s.primary.elim (0 : Word) f = f p := fun _ => by rw [h]; rfl
  refine ⟨read _, (read _).trans ?_, read _, congrArg primaryWord h⟩
  cases p.address <;> rfl

/-! ## Lane status words (12, "Lane status words") -/

theorem publishedWord_lane (s : State) (l : Lane) {k : Nat} (inside : k < 12) :
    s.publishedWord (0x0D0 + 12 * l.number + k) = (s.lane l).statusWord k := by
  interval_cases k <;> cases l <;> rfl

section
variable (x : LaneState)

theorem windowDepth_toList : x.windowDepth = x.window.length + x.reservation.toList.length := by
  unfold LaneState.windowDepth
  cases x.reservation <;> rfl

theorem statusWord_service : x.statusWord 0 = 0#18 ++ BitVec.ofNat 2 x.gate.code ++ 0#1 ++
    BitVec.ofNat 2 x.tracker.synthetic ++ BitVec.ofBool x.tracker.tracked.isSome ++
    BitVec.ofNat 4 x.service.causeCode ++ BitVec.ofNat 4 x.service.code :=
  eq_of_place (by simp [↓place_append, LaneState.statusWord, BitVec.or_assoc])

theorem statusWord_untracked (h : x.tracker.tracked = none) : x.statusWord 1 = 0 := by
  simp only [LaneState.statusWord, h, Option.elim]

theorem statusWord_tracked {k : Tracked} (h : x.tracker.tracked = some k) : x.statusWord 1 = k.lastMark := by
  simp only [LaneState.statusWord, h, Option.elim]

theorem statusWord_noHead (h : x.queue = []) : x.statusWord 6 = 0 := by
  simp only [LaneState.statusWord, h, List.head?_nil, Option.elim]

theorem statusWord_head {r : LabelRecord} {rest : List LabelRecord} (h : x.queue = r :: rest) :
    x.statusWord 6 = r.gate := by
  simp only [LaneState.statusWord, h, List.head?_cons, Option.elim]

theorem statusWord_depths : x.statusWord 2 = 0#8 ++ BitVec.ofNat 2 x.pendingConfirms.length ++
    BitVec.ofNat 2 x.misses ++ BitVec.ofNat 4 x.windowDepth ++ BitVec.ofNat 8 x.orderedCount ++
    BitVec.ofNat 8 x.queue.length :=
  eq_of_place (by simp [↓place_append, LaneState.statusWord, BitVec.or_assoc])

theorem statusWord_serials :
    x.statusWord 4 = 0#30 ++ BitVec.ofBool x.previousSerial.isSome ++ BitVec.ofBool x.lastBound.isSome :=
  eq_of_place (by simp [↓place_append, LaneState.statusWord])

theorem ofNat_stackSequence (k : Option OpenStack) :
    BitVec.ofNat 16 (k.elim 0 (·.sequence.toNat)) = k.elim 0 (·.sequence) := by cases k <;> simp

theorem statusWord_stacker : x.statusWord 7 = x.openStack.elim 0 (·.sequence) ++ 0#4 ++
    BitVec.ofNat 4 x.carry.entries.length ++ 0#3 ++ BitVec.ofBool x.parked.isSome ++
    BitVec.ofBool x.openStack.isSome ++ BitVec.ofNat 1 x.stacker.trayCode ++ BitVec.ofNat 2 x.stacker.code :=
  eq_of_place (by simp [↓place_append, LaneState.statusWord, BitVec.or_assoc, ofNat_stackSequence])

theorem statusWord_noStack (h : x.openStack = none) : x.statusWord 8 = 0 := by
  simp only [LaneState.statusWord, h, Option.elim]

theorem statusWord_stack {k : OpenStack} (h : x.openStack = some k) : x.statusWord 8 = BitVec.ofNat 32 k.count :=
  eq_of_place (by simp [LaneState.statusWord, h])

end

/-! ## The start-up image (11 R177) -/

theorem startUpWord_elsewhere {o : Nat} (h : ¬ (o ≤ 1 ∨ 0x040 ≤ o ∧ o ≤ 0x054)) : startUpWord o = 0 := by
  unfold startUpWord
  split
  case h_21 => rfl
  all_goals omega

end Sys2Proof.Machine

namespace Sys2Proof.Proofs

open Sys2Proof.Machine

/-- Settles O38: each word is the concatenation of its fields, with the statement's tables of codes read as the model's. -/
theorem wordsHaveTheirLayout : Obligations.WordsHaveTheirLayout := by
  unfold Obligations.WordsHaveTheirLayout
  intro lane bit missing close event engine cause result memory memResult detail source service gate stacker cls
  have lanes (l : Option Lane) : lane l = BitVec.ofNat 2 (l.elim 0 Lane.number) := by rcases l with _ | _ | _ <;> rfl
  have bits (p : Bool) : bit p = BitVec.ofBool p := rfl
  have reasons (r : MissingReason) : missing r = BitVec.ofNat 4 r.code := by cases r <;> rfl
  have closes (r : CloseReason) : close r = BitVec.ofNat 4 r.code := by cases r <;> rfl
  have events (c : EventCode) : event c = (BitVec.ofNat 8 c.code, BitVec.ofNat 2 c.severity.code) := by cases c <;> rfl
  have engines (e : EngineState) : engine e = BitVec.ofNat 2 e.code := by cases e <;> rfl
  have causes (c : Option HaltCause) : cause c = BitVec.ofNat 2 (c.elim 0 HaltCause.code) := by
    rcases c with _ | _ | _ <;> rfl
  have results (r : EngineResult) : result r = BitVec.ofNat 8 r.code := by cases r <;> rfl
  have memories (m : MemState) : memory m = BitVec.ofNat 2 m.code := by cases m <;> rfl
  have memResults (r : MemResult) : memResult r = BitVec.ofNat 8 r.code := by cases r <;> rfl
  have details (d : Detail) : detail d = BitVec.ofNat 2 d.code := by cases d <;> rfl
  have sources (x : Source) : source x = (BitVec.ofNat 3 x.code, BitVec.ofNat 2 x.laneNumber) := by
    cases x with
    | fetch l => cases l <;> rfl
    | _ => rfl
  have services (v : Service) : service v = (BitVec.ofNat 4 v.code, BitVec.ofNat 4 v.causeCode) := by
    cases v with
    | faulted c => cases c <;> rfl
    | _ => rfl
  have gates (g : Gate) : gate g = BitVec.ofNat 2 g.code := by cases g <;> rfl
  have stackers (k : Stacker) : stacker k = (BitVec.ofNat 2 k.code, BitVec.ofNat 1 k.trayCode) := by
    cases k with
    | filling t => cases t <;> rfl
    | _ => rfl
  have classes (c : SummaryClass) : cls c = BitVec.ofNat 4 c.bit := by cases c <;> rfl
  simp only [lanes, bits, reasons, closes, events, engines, causes, results, memories, memResults, details, sources,
    services, gates, stackers, classes]
  refine ⟨fun r => ⟨stackRecord_header r, stackRecord_counts r, rfl, rfl, stackRecord_missing r, stackRecord_unordered r,
    rfl, rfl, fun k _ => ⟨fun e listed => ?_, stackRecord_noEntry⟩⟩,
    fun e => ⟨event_header e, fun _ => event_serial, event_value, event_neither, fun _ => event_address,
      fun _ => event_uncorrectable, event_noAddress, rfl⟩, fun s => ?published, fun s l x own => ?lane, rfl,
    fun o _ => startUpWord_elsewhere⟩
  · rw [← reasonWord_eq]
    exact stackRecord_entry listed
  case published =>
    have probed (k : BitVec 3) : s.mem.probe.outcome = .clean ∧ k = 0 ∨ (∃ b, s.mem.probe.outcome = .corrected b) ∧ k = 1 ∨
        s.mem.probe.outcome = .blank ∧ k = 2 ∨ s.mem.probe.outcome = .uncorrectable .multi ∧ k = 3 ∨
        s.mem.probe.outcome = .uncorrectable .poison ∧ k = 4 → k = BitVec.ofNat 3 s.mem.probe.outcome.probeCode := by
      rintro (⟨o, rfl⟩ | ⟨⟨b, o⟩, rfl⟩ | ⟨o, rfl⟩ | ⟨o, rfl⟩ | ⟨o, rfl⟩) <;> rw [o] <;> rfl
    refine ⟨rfl, rfl, publishedWord_engine s, rfl, publishedWord_backlog s, publishedWord_splice s, publishedWord_depths s,
      publishedWord_commandStatus s, publishedWord_memoryStatus s, packField_walked _, packField_walked _,
      packField_walked _, packField_walked _, publishedWord_faultAddress s, publishedWord_noRefusal s,
      fun _ _ => publishedWord_refusal s, fun k h => ?_, rfl, fun l => ⟨publishedWord_fetch s l, publishedWord_release s l⟩,
      packField_half_append _, packField_half_append _, capture_empty (c := s.capture.correctable) _,
      fun _ h => ⟨correctable_status h, capture_address h⟩,
      capture_empty (c := s.capture.uncorrectable)
        (fun d => packField 16 2 d.code),
      fun _ h => ⟨uncorrectable_status h, capture_address h⟩, publishedWord_correctableCount s, publishedWord_summary s,
      fun none _ => publishedWord_noPrimary s none, fun p h => ?_⟩
    · rw [probed k h]; exact publishedWord_probe s
    · rw [← primaryWord_some]; exact publishedWord_primary h
  case lane =>
    subst own
    have stackSequence (n : Half) : (s.lane l).openStack = none ∧ n = 0 ∨
        (∃ k, (s.lane l).openStack = some k ∧ n = k.sequence) → n = (s.lane l).openStack.elim 0 (·.sequence) := by
      rintro (⟨o, rfl⟩ | ⟨k, o, rfl⟩) <;> rw [o] <;> rfl
    simp (disch := decide) only [publishedWord_lane, ← windowDepth_toList]
    exact ⟨statusWord_service _, statusWord_untracked _, fun _ => statusWord_tracked _, statusWord_depths _, rfl,
      statusWord_serials _, rfl, statusWord_noHead _, fun _ _ => statusWord_head _,
      fun n h => stackSequence n h ▸ statusWord_stacker _, statusWord_noStack _, fun _ => statusWord_stack _, rfl, rfl, rfl⟩

end Sys2Proof.Proofs
end

section
/-! The command queue (log 19): no operation of the model touches it, so every command ends in a next state with the queue
it was given. -/

namespace Sys2Proof.Machine

/-- `t` has the command queue of `s`. -/
def State.queueKept (s t : State) : Prop := t.pending = s.pending

theorem queueKept_refl (s : State) : s.queueKept s := rfl

theorem State.queueKept.trans {s t u : State} (h : s.queueKept t) (k : t.queueKept u) : s.queueKept u := Eq.trans k h

theorem queueKept_ite {s t u : State} {c : Prop} [Decidable c] (h : s.queueKept t) (k : s.queueKept u) :
    s.queueKept (if c then t else u) := by
  split
  · exact h
  · exact k

/-- The label and lane blocks own no queue of commands, -/
theorem queueKept_of_labelWork {s t : State} (h : s.labelWorkOnly t) : s.queueKept t := by
  unfold State.queueKept
  rw [h]
  rfl

/-- and neither does a report of a check outcome. -/
theorem queueKept_of_report {s t : State} (h : s.reportOnly t) : s.queueKept t := by
  unfold State.queueKept
  rw [h]

theorem give_queueKept (s : State) (b : EventBody) : s.queueKept (s.give b) := giveAt_pending s _ b

theorem giveRaise_queueKept (s : State) (c : SummaryClass) (b : EventBody) : s.queueKept (s.giveRaise c b) :=
  queueKept_of_report (giveRaise_reportOnly s c b)

theorem detectCorrectable_queueKept (s : State) (c : Source) (a b : Nat) : s.queueKept (s.detectCorrectable c a b) :=
  queueKept_of_report (detectCorrectable_reportOnly s c a b)

theorem consumeUncorrectable_queueKept (s : State) (c : Source) (a : Nat) (d : Detail) :
    s.queueKept (s.consumeUncorrectable c a d) :=
  queueKept_of_report (consumeUncorrectable_reportOnly s c a d)

theorem storeControl_queueKept {s t : State} (h : s.queueKept t) (off : Nat) (d : Word) :
    s.queueKept (t.storeControl off d) := h

theorem endHost_queueKept {s t : State} (h : s.queueKept t) (ok : Bool) (data : Option Word) :
    s.queueKept (t.endHost ok data) := h

theorem grantInternal_queueKept (s : State) (r : Internal) : s.queueKept (s.grantInternal r) := rfl

theorem commitExcept_queueKept {s t : State} (h : s.queueKept t) (pre : State) (os : List Nat) :
    s.queueKept (State.commitExcept pre t os) := h

/-! ## Engine commands (07 R110) -/

theorem labelWorkOnly_ite_fst {s : State} {c : Prop} [Decidable c] {p q : State × Reply} (h : s.labelWorkOnly p.1)
    (k : s.labelWorkOnly q.1) : s.labelWorkOnly (if c then p else q).1 := by
  split
  · exact h
  · exact k

theorem commandRun_labelWork (s : State) (mask : Byte) : s.labelWorkOnly (s.commandRun mask).1 := by
  refine labelWorkOnly_ite_fst (labelWorkOnly_refl s) (labelWorkOnly_ite_fst (labelWorkOnly_refl s) ?_)
  split
  · exact labelWorkOnly_refl s
  · exact labelWorkOnly_trans (setEngine_labelWork s .running)
      (foldl_labelWork (fun u l => setLane_labelWork u l _) _ _)

theorem commandDrain_labelWork (s : State) (mask : Byte) : s.labelWorkOnly (s.commandDrain mask).1 :=
  labelWorkOnly_ite_fst (labelWorkOnly_refl s) (labelWorkOnly_ite_fst (labelWorkOnly_refl s)
    (labelWorkOnly_trans (foldl_labelWork drainLane_labelWork _ s) (settleEngine_labelWork _)))

theorem commandClearHalt_labelWork (s : State) : s.labelWorkOnly s.commandClearHalt.1 :=
  labelWorkOnly_ite_fst (labelWorkOnly_refl s) (labelWorkOnly_ite_fst (labelWorkOnly_refl s) (setEngine_labelWork s _))

theorem commandCloseStack_labelWork (s : State) (l : Lane) : s.labelWorkOnly (s.commandCloseStack l).1 :=
  labelWorkOnly_ite (closeAndFault_labelWork s l _) (labelWorkOnly_refl s)

theorem commandClearLane_labelWork (s : State) (l : Lane) : s.labelWorkOnly (s.commandClearLane l).1 := by
  unfold State.commandClearLane
  split
  · exact labelWorkOnly_refl s
  · exact labelWorkOnly_ite (setLane_labelWork s l _)
      (labelWorkOnly_trans (setService_labelWork s l _) (testStopped_labelWork _))

theorem commandBypass_labelWork (s : State) (l : Lane) : s.labelWorkOnly (s.commandBypass l).1 :=
  labelWorkOnly_ite_fst (labelWorkOnly_trans (setService_labelWork s l _) (setGate_labelWork _ l _))
    (labelWorkOnly_refl s)

theorem commandUnbypass_labelWork (s : State) (l : Lane) : s.labelWorkOnly (s.commandUnbypass l).1 :=
  labelWorkOnly_ite_fst (setService_labelWork s l _) (labelWorkOnly_refl s)

theorem engineAction_labelWork (s : State) (code operand : Byte) : s.labelWorkOnly (s.engineAction code operand).1 := by
  have valid {c : Prop} [Decidable c] {p : State × Reply} (r : Reply) (h : s.labelWorkOnly p.1) :
      s.labelWorkOnly (if c then p else (s, r)).1 := labelWorkOnly_ite_fst h (labelWorkOnly_refl s)
  simp only [State.engineAction]
  split
  · exact valid _ (commandRun_labelWork s _)
  · exact valid _ (commandDrain_labelWork s _)
  · exact takeHalt_labelWork s .command
  · exact commandClearHalt_labelWork s
  · exact valid _ (commandCloseStack_labelWork s _)
  · exact valid _ (commandClearLane_labelWork s _)
  · exact valid _ (commandBypass_labelWork s _)
  · exact valid _ (commandUnbypass_labelWork s _)
  · exact labelWorkOnly_refl s

theorem recordReply_labelWork (s : State) (code : Byte) (r : Reply) : s.labelWorkOnly (s.recordReply code r) := rfl

theorem announceReply_labelWork (s : State) (code : Byte) (r : Reply) : s.labelWorkOnly (s.announceReply code r) :=
  labelWorkOnly_ite (labelWorkOnly_refl s) (give_labelWork s _)

theorem engineCommand_labelWork (s : State) (d : Word) : s.labelWorkOnly (s.engineCommand d) :=
  labelWorkOnly_ite (labelWorkOnly_trans (labelWorkOnly_trans (engineAction_labelWork s _ _)
    (announceReply_labelWork _ _ _)) (recordReply_labelWork _ _ _))
    (labelWorkOnly_trans (give_labelWork s _) (recordReply_labelWork _ _ _))

/-! ## Control words (03, 08, 09, 11) -/

theorem refuseSetting_queueKept (s : State) (off : Nat) (d : Word) : s.queueKept (s.refuseSetting off d) :=
  giveRaise_queueKept s _ _

theorem refuseProtected_queueKept (s : State) (b : EventBody) : s.queueKept (s.refuseProtected b) :=
  endHost_queueKept (giveRaise_queueKept s _ b) _ _

theorem writeSetting_queueKept (s : State) (x : Setting) (d : Word) : s.queueKept (s.writeSetting x d) := by
  have refused := endHost_queueKept (refuseSetting_queueKept s (settingOffset x) d) true none
  refine queueKept_ite refused ?_
  split
  · exact refused
  · next c _ _ =>
    have settled : s.queueKept (State.settleScrub { s with settings := c } x) := queueKept_ite rfl rfl
    exact storeControl_queueKept settled _ _

theorem setExemptWindow_queueKept (s : State) (n : WindowName) (w : ExemptWindow) :
    s.queueKept (s.setExemptWindow n w) := by
  cases n <;> rfl

theorem recheckWindow_queueKept (s : State) (n : WindowName) : s.queueKept (s.recheckWindow n) :=
  queueKept_ite ((setExemptWindow_queueKept s n _).trans (give_queueKept _ _)) (queueKept_refl s)

theorem resetRing_queueKept (s : State) (e : MapEntryName) : s.queueKept (s.resetRing e) := by
  cases e <;> rfl

theorem writeMap_queueKept (s : State) (e : MapEntryName) (d : Word) : s.queueKept (s.writeMap e d) := by
  have mapped : s.queueKept { s with regions := s.regions.withEntry e (takenEntry e d) } := rfl
  exact queueKept_ite (endHost_queueKept (refuseSetting_queueKept s _ d) _ _)
    (storeControl_queueKept (((mapped.trans (resetRing_queueKept _ e)).trans (recheckWindow_queueKept _ _)).trans
      (recheckWindow_queueKept _ _)) _ _)

theorem writeLock_queueKept (s : State) (d : Word) : s.queueKept (s.writeLock d) := by
  have refused := refuseSetting_queueKept s 0x067 d
  have locked : s.queueKept { s with regions := { s.regions with locked := true } } := rfl
  exact storeControl_queueKept (queueKept_ite
    (queueKept_ite (queueKept_refl s) (queueKept_ite locked refused))
    (queueKept_ite (queueKept_refl s) refused)) _ _

theorem writeWindow_queueKept (s : State) (n : WindowName) (k : WindowWord) (d : Word) :
    s.queueKept (s.writeWindow n k d) := by
  have replaced := setExemptWindow_queueKept s n
  exact storeControl_queueKept
    (queueKept_ite ((replaced _).trans (refuseSetting_queueKept _ _ d)) (replaced _)) _ _

theorem writeControl_queueKept (s : State) (off : Nat) (d : Word) : s.queueKept (s.writeControl off d) := by
  unfold State.writeControl
  cases controlWord off with
  | partOwned => exact refuseProtected_queueKept s _
  | reserved => rfl
  | engineCell => exact storeControl_queueKept (queueKept_of_labelWork (engineCommand_labelWork s d)) _ _
  | memoryCell => rfl
  | operandStart => rfl
  | operandCount => rfl
  | operandFill => rfl
  | setting x => exact writeSetting_queueKept s x d
  | mapEntry e => exact writeMap_queueKept s e d
  | mapLock => exact writeLock_queueKept s d
  | put l => exact queueKept_ite rfl (refuseProtected_queueKept s _)
  | stackRead => exact queueKept_ite rfl (refuseProtected_queueKept s _)
  | eventRead => exact queueKept_ite rfl (refuseProtected_queueKept s _)
  | acknowledge => rfl
  | window n k => exact writeWindow_queueKept s n k d

/-! ## Host cycles (04, 08) -/

theorem takeVerdict_queueKept (s : State) (a : Nat) (d : Word) : s.queueKept (s.takeVerdict a d) := by
  show s.queueKept (s.applyVerdict d (s.verdictOutcome d))
  cases s.verdictOutcome d with
  | taken => rfl
  | held => rfl
  | late => exact giveRaise_queueKept s _ _
  | full => exact give_queueKept s _
  | refused => exact give_queueKept s _

theorem hostRead_queueKept (s : State) (a : Nat) : s.queueKept (s.hostRead a) :=
  endHost_queueKept (queueKept_of_report (hostRead_reports s a)) _ _

theorem hostWrite_queueKept (s : State) (a : Nat) (d : Word) : s.queueKept (s.hostWrite a d) := by
  have blocked := refuseProtected_queueKept s
  unfold State.hostWrite
  cases s.addressClass a with
  | plain => rfl
  | exempt => rfl
  | orderSlot l slot => exact queueKept_ite (blocked _) rfl
  | verdict => exact endHost_queueKept (takeVerdict_queueKept s a d) _ _
  | stackRing => exact blocked _
  | eventRing => exact blocked _
  | control => exact writeControl_queueKept s _ d

theorem checkedMerge_queueKept (s : State) (a : Nat) (d : Word) (be : BitVec 4) :
    s.queueKept (s.checkedMerge a d be) := by
  have merged (x : Location) : s.queueKept (s.lockPort.storeLocation a x) := rfl
  unfold State.checkedMerge
  cases s.readOutcome a with
  | clean => rfl
  | blank => rfl
  | corrected b =>
    exact endHost_queueKept ((merged _).trans (detectCorrectable_queueKept _ _ a b)) _ _
  | uncorrectable x =>
    exact endHost_queueKept ((merged _).trans (consumeUncorrectable_queueKept _ _ a x)) _ _

theorem hostPartialWrite_queueKept (s : State) (a : Nat) (d : Word) (be : BitVec 4) :
    s.queueKept (s.hostPartialWrite a d be) := by
  have refused := refuseProtected_queueKept s
  have merged := checkedMerge_queueKept s a d be
  unfold State.hostPartialWrite
  cases s.addressClass a with
  | plain => exact merged
  | orderSlot l slot => exact queueKept_ite (refused _) merged
  | exempt => rfl
  | verdict => exact refused _
  | control => exact refused _
  | stackRing => exact refused _
  | eventRing => exact refused _

theorem hostWork_queueKept (s : State) (c : HostCycle) : s.queueKept (s.hostWork c) := by
  cases c with
  | read a => exact hostRead_queueKept s _
  | write a d => exact hostWrite_queueKept s _ d
  | partialWrite a d be => exact queueKept_ite (hostPartialWrite_queueKept s _ d be) (hostWrite_queueKept s _ d)

/-! ## Grants to the part (03, 06, 09, 10, 11) -/

theorem readSlotWord_queueKept (s : State) (l : Lane) (r : Reservation) : s.queueKept (s.readSlotWord l r) :=
  State.queueKept.trans (queueKept_of_report (reportFetch_reportOnly s l _ _)) (setLane_pending _ l _)

theorem fetchWork_queueKept (s : State) : s.queueKept s.fetchWork := by
  unfold State.fetchWork
  split
  · exact queueKept_refl s
  · next l _ =>
    split
    · exact queueKept_refl s
    · exact readSlotWord_queueKept { s with arbiter := { s.arbiter with lastLane := l } } l _

theorem unpark_queueKept (s : State) : s.queueKept s.unpark := by
  unfold State.unpark
  split
  · exact queueKept_refl s
  · split <;> rfl

theorem stackWork_queueKept (s : State) : s.queueKept s.stackWork := by
  unfold State.stackWork
  split
  · exact queueKept_refl s
  · exact queueKept_ite rfl (unpark_queueKept _)

theorem eventWork_queueKept (s : State) : s.queueKept s.eventWork := by
  unfold State.eventWork
  split
  · exact queueKept_refl s
  · exact queueKept_ite rfl rfl

theorem storeStatusWord_queueKept (s : State) : s.queueKept s.storeStatusWord := by
  unfold State.storeStatusWord
  split <;> rfl

theorem recordWork_queueKept (s : State) (k : RecordKind) : s.queueKept (s.recordWork k) := by
  cases k with
  | stack => exact stackWork_queueKept (s.servedRecord .stack)
  | event => exact eventWork_queueKept (s.servedRecord .event)
  | status => exact storeStatusWord_queueKept (s.servedRecord .status)

theorem scrubAddress_queueKept (s : State) (a : Nat) : s.queueKept (s.scrubAddress a) := by
  unfold State.scrubAddress
  dsimp only
  split
  · rfl
  · rfl
  · exact detectCorrectable_queueKept (s.storeWord a _) _ a _
  · exact consumeUncorrectable_queueKept s _ a _

theorem scrubWork_queueKept (s : State) : s.queueKept s.scrubWork := by
  unfold State.scrubWork
  split
  · exact queueKept_refl s
  · next a rest _ =>
    exact queueKept_ite (t := { s with scrubQueue := rest }) rfl
      (scrubAddress_queueKept ({ s with scrubQueue := rest } : State).lockPort a)

theorem verifyAt_queueKept (s : State) (a : Nat) : s.queueKept (s.verifyAt a) := by
  unfold State.verifyAt
  dsimp only
  split
  · rfl
  · split
    · rfl
    · rfl
    · next b _ => exact detectCorrectable_queueKept (s.lockPort.storeWord a _) .verify a b
    · exact consumeUncorrectable_queueKept s.lockPort .verify a _

theorem walkWork_queueKept (s : State) : s.queueKept s.walkWork :=
  queueKept_ite (verifyAt_queueKept s _) (queueKept_ite (queueKept_ite rfl rfl) (queueKept_refl s))

theorem memWork_queueKept (s : State) (k : MemKind) : s.queueKept (s.memWork k) := by
  cases k with
  | scrub => exact scrubWork_queueKept (s.servedMem .scrub)
  | walk => exact walkWork_queueKept (s.servedMem .walk)

theorem serveFetch_queueKept (s : State) : s.queueKept s.serveFetch :=
  commitExcept_queueKept ((grantInternal_queueKept s .fetch).trans (fetchWork_queueKept _)) s []

theorem serveRecord_queueKept (s : State) (k : RecordKind) : s.queueKept (s.serveRecord k) :=
  commitExcept_queueKept ((grantInternal_queueKept s .record).trans (recordWork_queueKept _ k)) s _

theorem serveMem_queueKept (s : State) (k : MemKind) : s.queueKept (s.serveMem k) := by
  obtain ⟨publication, last⟩ := statusLast_eq s (State.commit s ((s.grantInternal .memcmd).memWork k))
  unfold State.serveMem
  rw [last]
  exact commitExcept_queueKept ((grantInternal_queueKept s .memcmd).trans (memWork_queueKept _ k)) s []

theorem serve_queueKept (s : State) (r : Internal) : s.queueKept (s.serve r) := by
  cases r with
  | fetch => exact serveFetch_queueKept s
  | record =>
    unfold State.serve
    cases s.nextRecord with
    | none => exact queueKept_refl s
    | some k => exact serveRecord_queueKept s k
  | memcmd =>
    unfold State.serve
    cases s.nextMem with
    | none => exact queueKept_refl s
    | some k => exact serveMem_queueKept s k

theorem serveOwed_queueKept (n : Nat) (s : State) : s.queueKept (State.serveOwed n s) := by
  induction n generalizing s with
  | zero => exact queueKept_refl s
  | succ n ih =>
    unfold State.serveOwed
    split
    · exact queueKept_refl s
    · exact (serve_queueKept s _).trans (ih _)

theorem hostCycle_queueKept (s : State) (c : HostCycle) : s.queueKept (s.hostCycle c) := by
  have taken : s.queueKept (s.beforeHost.takeCycle c) :=
    (serveOwed_queueKept 3 s).trans (hostWork_queueKept s.beforeHost.grantHost c)
  exact queueKept_ite taken (queueKept_ite (queueKept_refl s) rfl)

/-! ## Resets (08 R141, R142, 11 R177) -/

theorem sampleSafe_queueKept (s : State) (i : InputLines) : s.queueKept (s.sampleSafe i) :=
  queueKept_of_labelWork (sampleSafe_labelWork s i)

theorem takeLineReset_queueKept (s : State) (i : InputLines) (mergeCut : Bool) :
    s.queueKept (s.takeLineReset i mergeCut) := by
  have sampled : s.queueKept ((s.lineReset i).sampleSafe i) := sampleSafe_queueKept (s.lineReset i) i
  exact queueKept_ite (endHost_queueKept (commitExcept_queueKept sampled _ _) _ _) (commitExcept_queueKept sampled _ _)

theorem imageDone_queueKept (s : State) : s.queueKept s.imageDone := by
  have published (u : State) : u.queueKept u.publishSplice := queueKept_ite rfl rfl
  exact published { s with arbiter := { s.arbiter with imageWriting := false, resetWaiting := false } }

theorem takeWaitingReset_queueKept (s : State) (waiting : Bool) (reset : Option InputLines) :
    s.queueKept (s.takeWaitingReset waiting reset) := by
  cases reset with
  | none => exact queueKept_refl s
  | some i => exact queueKept_ite (takeLineReset_queueKept s i false) (queueKept_refl s)

theorem takeHeldCycle_queueKept (s : State) : s.queueKept s.takeHeldCycle := by
  unfold State.takeHeldCycle
  split
  · exact hostCycle_queueKept { s with hostPort := none } _
  · exact queueKept_refl s

/-! ## The label and lane blocks (01 to 07) -/

theorem forwardTick_queueKept (s : State) : s.queueKept s.forwardTick :=
  queueKept_ite (queueKept_of_labelWork (s := { s with web := { s.web with position := s.web.position + 1 } })
    (forLanes_labelWork (fun u l => setLane_labelWork u l _) _)) rfl

theorem reverseTick_queueKept (s : State) : s.queueKept s.reverseTick := by
  have limited (u : State) : u.queueKept u.reverseLimitCondition :=
    queueKept_ite (queueKept_of_labelWork (enterHalted_labelWork u _)) (queueKept_refl u)
  have counted (n : Nat) : s.queueKept { s with web := { s.web with backlog := n } } := rfl
  exact queueKept_ite ((counted _).trans (limited _)) (counted _)

theorem encoderTransition_queueKept (s : State) (a b : Bool) : s.queueKept (s.encoderTransition a b) := by
  have referred : s.queueKept { s with web := { s.web with refA := a, refB := b } } := rfl
  exact queueKept_ite (queueKept_refl s) (queueKept_ite (referred.trans (forwardTick_queueKept _))
    (queueKept_ite (referred.trans (reverseTick_queueKept _)) (referred.trans (give_queueKept _ _))))

theorem spliceRise_queueKept (s : State) : s.queueKept s.spliceRise := by
  have raised : s.queueKept { s with web := { s.web with splice := true } } := rfl
  exact queueKept_ite (queueKept_refl s) ((raised.trans (queueKept_of_labelWork
    (forLanes_labelWork (fun u l => setLane_labelWork u l _) _))).trans (give_queueKept _ _))

theorem takeDeadline_queueKept (s : State) (l : Lane) : s.queueKept (s.takeDeadline l) := by
  unfold State.takeDeadline
  split
  · exact queueKept_refl s
  · exact queueKept_ite (give_queueKept (s.setLane l _) _) rfl

theorem takeCut_queueKept (s : State) (l : Lane) : s.queueKept (s.takeCut l) := by
  unfold State.takeCut
  split <;> rfl

theorem kdonePulse_queueKept (s : State) (l : Lane) : s.queueKept (s.kdonePulse l) :=
  queueKept_ite (give_queueKept s _) rfl

theorem trayReadyPulse_queueKept (s : State) (l : Lane) : s.queueKept (s.trayReadyPulse l) := by
  unfold State.trayReadyPulse
  split
  · rfl
  · rfl
  · exact give_queueKept s _

theorem startFetch_queueKept (s : State) (l : Lane) : s.queueKept (s.startFetch l) :=
  queueKept_ite (setLane_pending s l _) (queueKept_refl s)

/-! ## The rows -/

/-- The command ends in a next state with the queue it was given. -/
def endsWithQueue (c : Instr) (s : State) : Prop := ∃ t, exec c s = .next t ∧ s.queueKept t

theorem grantRow_endsWithQueue {c : Instr} (s : State) (row : grantRow c = true) : endsWithQueue c s := by
  have granted {p : Prop} [Decidable p] {u : State} (k : s.queueKept u) : s.queueKept (if p then u else s) :=
    queueKept_ite k (queueKept_refl s)
  cases c with
  | fetchRead => exact ⟨_, rfl, granted (serveFetch_queueKept s)⟩
  | verifyWord => exact ⟨_, rfl, granted (serveMem_queueKept s _)⟩
  | clearWord => exact ⟨_, rfl, granted (serveMem_queueKept s _)⟩
  | scrub => exact ⟨_, rfl, granted (serveMem_queueKept s _)⟩
  | stackRecordWord => exact ⟨_, rfl, granted (serveRecord_queueKept s _)⟩
  | stackPublicationComplete => exact ⟨_, rfl, granted (serveRecord_queueKept s _)⟩
  | eventRecordWord => exact ⟨_, rfl, granted (serveRecord_queueKept s _)⟩
  | eventPublicationComplete => exact ⟨_, rfl, granted (serveRecord_queueKept s _)⟩
  | statusPublication => exact ⟨_, rfl, granted (serveRecord_queueKept s _)⟩
  | _ => cases row

theorem resetRow_endsWithQueue {c : Instr} (s : State) (row : resetRow c = true) : endsWithQueue c s := by
  cases c with
  | powerOn i => exact ⟨_, rfl, commitExcept_queueKept (t := (s.poweredOn i).sampleSafe i)
      (sampleSafe_queueKept (s.poweredOn i) i) _ []⟩
  | lineReset i mergeCut => exact ⟨_, rfl, queueKept_ite rfl (takeLineReset_queueKept s i mergeCut)⟩
  | startUpImageComplete reset =>
    exact ⟨_, rfl, queueKept_ite (((imageDone_queueKept s).trans (takeWaitingReset_queueKept _ _ reset)).trans
      (takeHeldCycle_queueKept _)) (queueKept_refl s)⟩
  | _ => cases row

/-- A row of the label and lane blocks is one block's act, whose end leaves the queue to the act. -/
theorem blockRow_endsWithQueue {c : Instr} (s : State) (notHost : hostCycleRow c = false)
    (notGrant : grantRow c = false) (notReset : resetRow c = false) : endsWithQueue c s := by
  have acts {f : State → State} (h : s.queueKept (f s)) : s.queueKept (s.act f) := commitExcept_queueKept h s []
  have works {f : State → State} (h : s.labelWorkOnly (f s)) : s.queueKept (s.act f) := acts (queueKept_of_labelWork h)
  cases c with
  | encoderTransition a b => exact ⟨_, rfl, acts (encoderTransition_queueKept s a b)⟩
  | spliceStart => exact ⟨_, rfl, acts (spliceRise_queueKept s)⟩
  | spliceFall => exact ⟨_, rfl, rfl⟩
  | markEvent l => exact ⟨_, rfl, works (markPulse_labelWork s l)⟩
  | markWindowExpiry l => exact ⟨_, rfl, works (takeExpiry_labelWork s l)⟩
  | deadlineEvent l => exact ⟨_, rfl, acts (takeDeadline_queueKept s l)⟩
  | cutEvent l => exact ⟨_, rfl, acts (takeCut_queueKept s l)⟩
  | confirmLimitEvent l => exact ⟨_, rfl, works (takeConfirmLimit_labelWork s l)⟩
  | knifePulseEnd l => exact ⟨_, rfl, rfl⟩
  | kdone l => exact ⟨_, rfl, acts (kdonePulse_queueKept s l)⟩
  | gateEvent l => exact ⟨_, rfl, works (takeGate_labelWork s l)⟩
  | trayReady l => exact ⟨_, rfl, acts (trayReadyPulse_queueKept s l)⟩
  | trayPulseEnd l => exact ⟨_, rfl, rfl⟩
  | safeRise => exact ⟨_, rfl, works (safeRise_labelWork s)⟩
  | safeFall => exact ⟨_, rfl, rfl⟩
  | fetchStart l => exact ⟨_, rfl, acts (startFetch_queueKept s l)⟩
  | powerOn _ => cases notReset
  | startUpImageComplete _ => cases notReset
  | lineReset _ _ => cases notReset
  | verifyWord => cases notGrant
  | clearWord => cases notGrant
  | scrub => cases notGrant
  | fetchRead => cases notGrant
  | stackRecordWord => cases notGrant
  | stackPublicationComplete => cases notGrant
  | eventRecordWord => cases notGrant
  | eventPublicationComplete => cases notGrant
  | statusPublication => cases notGrant
  | _ => cases notHost

theorem exec_endsWithQueue (c : Instr) (s : State) : endsWithQueue c s := by
  cases host : hostCycleRow c with
  | true =>
    obtain ⟨cycle, taken⟩ := hostCycleRow_exec c s host
    exact ⟨_, taken, hostCycle_queueKept s cycle⟩
  | false =>
    cases grant : grantRow c with
    | true => exact grantRow_endsWithQueue s grant
    | false =>
      cases reset : resetRow c with
      | true => exact resetRow_endsWithQueue s reset
      | false => exact blockRow_endsWithQueue s host grant reset

/-- With an empty queue a step idles (log 19). -/
theorem step_idle {s : State} (h : s.pending = []) : step s = .next s := by
  unfold step
  rw [h]

end Sys2Proof.Machine

namespace Sys2Proof.Proofs

open Sys2Proof.Machine

/-- Settles O2: each row is a host cycle, a grant, a reset or a block's act, and no part of these touches the queue. -/
theorem everyCommandEndsInANextState : Obligations.EveryCommandEndsInANextState := by
  unfold Obligations.EveryCommandEndsInANextState
  exact ⟨exec_endsWithQueue, fun _ => step_idle⟩

end Sys2Proof.Proofs
end
